-- ==== Sys2Proof/Word.lean ====
section
/-! DEFINITION. The word types of the module: bytes, 64-bit registers, descriptors, and the numbering of cores,
threads, partitions, links, channels and ports (R16, R26, R30, R40). -/

namespace Sys2Proof

/-- One byte (R6). -/
abbrev Byte := BitVec 8

/-- A register, a general register or a global address (R26, R27, R30). -/
abbrev Word := BitVec 64

/-- A local address, bits [45:0] (R22). -/
abbrev LAddr := BitVec 46

/-- A 128-byte tensor descriptor, byte 0 in bits [7:0] (R6, R40). -/
abbrev Desc := BitVec 1024

/-- A completion status (R14). -/
abbrev Status := BitVec 16

/-- A physical core number (R16). -/
abbrev CoreId := Fin 176

/-- A thread of a core (R30). -/
abbrev ThreadId := Fin 32

/-- A partition (R16). -/
abbrev PartId := Fin 16

/-- A fabric link (R16). -/
abbrev LinkId := Fin 24

/-- A near-tier channel (R16). -/
abbrev ChanId := Fin 192

/-- An Ethernet port, a far-tier port, a die or a module-controller pair (R16). -/
abbrev PortId := Fin 2

/-- Sectors (64-byte units, byte address divided by 64) that the memory reports uncorrectable in this step,
beside the sectors the state holds as poisoned (R228, R229). -/
abbrev BadSectors := List Nat

end Sys2Proof
end

