-- ==== Sys2Proof/Syntax.lean ====
section
/-! DEFINITION. The commands of the module, one constructor per row of spec/opcode_table.json. An operand of a
thread instruction is what its fetch brought (R35, R36); an operand of an event is what the event brings from outside. -/

namespace Sys2Proof

/-- Who writes a register (R32, R357, R387, R443). -/
inductive Master where
  | thread (c : CoreId) (t : ThreadId)
  | session (i : Fin 64)
  | pctl (p : PartId)
  | mctl
  deriving DecidableEq, Repr

/-- What the fetch of a thread's next instruction brings (R35, R36): the 32-bit word, of the core store or of the
instruction buffer, and whether the fetch met uncorrectable core-store data. -/
structure IWord where
  word : BitVec 32
  lost : Bool
  deriving DecidableEq, Repr

/-- A fabric message (R266). LEN counts the data bytes that follow, and in a READ the bytes wanted. -/
structure Msg where
  cls : BitVec 2
  vc : BitVec 1
  op : Byte
  part : BitVec 4
  fn : Byte
  dest : BitVec 18
  src : BitVec 18
  tag : BitVec 16
  len : BitVec 16
  addr : LAddr
  data : List Byte
  deriving DecidableEq, Repr

/-- What the FEC and the CRC find of a flit (R265): it is right, its codeword was corrected, its CRC fails, or its codeword
is uncorrectable. -/
inductive FlitFec where
  | clean
  | corrected
  | crcFails
  | uncorrectable
  deriving DecidableEq, Repr

/-- A DATA, IDLE or RETRY flit as a link receives it (R265). `slots` holds the message slots of a DATA flit. -/
structure Flit where
  fec : FlitFec
  seq : BitVec 12
  ackv : Bool
  ack : BitVec 12
  cv : Bool
  cpart : PartId
  cvc : Fin 8
  ccnt : Byte
  slots : List (BitVec 384)
  deriving DecidableEq, Repr

/-- The flit is not discarded. -/
def Flit.good (f : Flit) : Bool := f.fec == .clean || f.fec == .corrected

/-- What a TRAIN flit carries (R270). -/
structure TrainInfo where
  link : BitVec 5
  sizes : Vector (BitVec 4) 6
  hash : Word
  posValid : Bool
  module : BitVec 18
  deriving DecidableEq, Repr

/-- An address that an IP packet comes from or goes to (R339, R340). -/
inductive IpAddr where
  | v4 (a : BitVec 32)
  | v6 (a : BitVec 128)
  deriving DecidableEq, Repr

/-- A UDP packet in the frame that brought it, read as an FCT packet (R339, R342, R345). -/
structure Pkt where
  port : PortId
  mac : BitVec 48
  pcp : BitVec 3
  tagged : Bool
  vid : BitVec 12
  src : IpAddr
  dst : IpAddr
  udpPort : BitVec 16
  ver : Byte
  type : Byte
  sid : BitVec 32
  seq : Word
  ackc : Word
  ackb : Word
  payload : List Byte
  tag : BitVec 128
  deriving DecidableEq, Repr

/-- Pages of a KV sequence as they arrive at the next module of a ring (R292). -/
structure KvArrival where
  srcModule : BitVec 18
  part : PartId
  tag : BitVec 16
  dstSeq : BitVec 32
  sp : Byte
  spidx : Byte
  h : Byte
  d : BitVec 16
  head0 : BitVec 16
  ptype : BitVec 4
  flushed : Word
  pages : List (List Byte × BitVec 16)
  sig : Word
  deriving DecidableEq, Repr

/-- What start-up finds in the hardware (R437): the steps' outcomes that come from outside the state. -/
structure StartEnv where
  romOk : Bool
  badChans : List ChanId
  badCores : List CoreId
  farCap : Vector (BitVec 46) 2
  farDown : Vector Bool 2
  ftlOk : Bool
  ethUp : Vector Bool 2
  ethCr2 : Vector Bool 2
  badLedger : List (PortId × Nat)
  time : BitVec 32
  deriving DecidableEq, Repr

/-- How a page read of the slow tier came out (R245). -/
inductive PageOutcome where
  | clean
  | retried
  | rebuilt
  | lost
  deriving DecidableEq, Repr

/-- A page read of the slow tier: the stripe, the channel of the page, and how it came out (R242, R245). -/
structure PageRead where
  stripe : Nat
  ch : Fin 8
  out : PageOutcome
  deriving DecidableEq, Repr

/-- The dies, by channel, whose programs or erases failed (R246). -/
abbrev DieFails := List (Fin 8 × Fin 16)

/-- The commands (spec/opcode_table.json, one row each, in the table's order). -/
inductive Instr where
  -- thread instructions (R36, R37): core, thread, and what the fetch brought
  | alu (c : CoreId) (t : ThreadId) (w : IWord)
  | addi (c : CoreId) (t : ThreadId) (w : IWord)
  | andi (c : CoreId) (t : ThreadId) (w : IWord)
  | ori (c : CoreId) (t : ThreadId) (w : IWord)
  | xori (c : CoreId) (t : ThreadId) (w : IWord)
  | shli (c : CoreId) (t : ThreadId) (w : IWord)
  | shri (c : CoreId) (t : ThreadId) (w : IWord)
  | srai (c : CoreId) (t : ThreadId) (w : IWord)
  | cmp (c : CoreId) (t : ThreadId) (w : IWord)
  | cmpi (c : CoreId) (t : ThreadId) (w : IWord)
  | plog (c : CoreId) (t : ThreadId) (w : IWord)
  | movk (c : CoreId) (t : ThreadId) (w : IWord)
  | movs (c : CoreId) (t : ThreadId) (w : IWord)
  | br (c : CoreId) (t : ThreadId) (w : IWord)
  | call (c : CoreId) (t : ThreadId) (w : IWord)
  | jr (c : CoreId) (t : ThreadId) (w : IWord)
  | ldb (c : CoreId) (t : ThreadId) (w : IWord)
  | ldh (c : CoreId) (t : ThreadId) (w : IWord)
  | ldw (c : CoreId) (t : ThreadId) (w : IWord)
  | ldd (c : CoreId) (t : ThreadId) (w : IWord)
  | ldws (c : CoreId) (t : ThreadId) (w : IWord)
  | stb (c : CoreId) (t : ThreadId) (w : IWord)
  | sth (c : CoreId) (t : ThreadId) (w : IWord)
  | stw (c : CoreId) (t : ThreadId) (w : IWord)
  | std (c : CoreId) (t : ThreadId) (w : IWord)
  | fence (c : CoreId) (t : ThreadId) (w : IWord)
  | amo64 (c : CoreId) (t : ThreadId) (w : IWord)
  | amo32 (c : CoreId) (t : ThreadId) (w : IWord)
  | amof (c : CoreId) (t : ThreadId) (w : IWord)
  | semAcquire (c : CoreId) (t : ThreadId) (w : IWord)
  | semRelease (c : CoreId) (t : ThreadId) (w : IWord)
  | tiss (c : CoreId) (t : ThreadId) (w : IWord) (bad : BadSectors)
  | twait (c : CoreId) (t : ThreadId) (w : IWord)
  | tpoll (c : CoreId) (t : ThreadId) (w : IWord)
  | halt (c : CoreId) (t : ThreadId) (w : IWord)
  | yield (c : CoreId) (t : ThreadId) (w : IWord)
  | rdcyc (c : CoreId) (t : ThreadId) (w : IWord)
  | rdid (c : CoreId) (t : ThreadId) (w : IWord)
  | rdpart (c : CoreId) (t : ThreadId) (w : IWord)
  -- thread events
  | loadDataReturn (c : CoreId) (t : ThreadId) (bad : BadSectors)
  | storePerformed (c : CoreId) (t : ThreadId) (i : Fin 8)
  | thrCtlStart (m : Master) (c : CoreId) (t : ThreadId)
  | thrCtlReset (m : Master) (c : CoreId) (t : ThreadId)
  | registerWrite (m : Master) (a : LAddr) (v : Word)
  -- operations: the core on whose list the operation starts
  | tileOperationPrepare (c : CoreId)
  | opComplete (c : CoreId) (ticket : BitVec 32)
  | nop (c : CoreId)
  | copy (c : CoreId) (bad : BadSectors)
  | fill (c : CoreId)
  | matmul (c : CoreId) (bad : BadSectors)
  | passEnter (c : CoreId)
  | passLand (c : CoreId) (bad : BadSectors)
  | arrayParityError (c : CoreId) (col : Fin 64) (row : Byte) (pass : Nat)
  | bankDrainStart (c : CoreId) (b : Fin 2)
  | bankDrainEnd (c : CoreId) (b : Fin 2)
  | rngReseed (c : CoreId) (ok : Bool)
  | scan (c : CoreId) (bad : BadSectors)
  | gated (c : CoreId) (bad : BadSectors)
  | update (c : CoreId) (bad : BadSectors)
  | strOpen (c : CoreId) (bad : BadSectors)
  | strClose (c : CoreId) (bad : BadSectors)
  | strFork (c : CoreId) (bad : BadSectors)
  | swapOut (c : CoreId) (bad : BadSectors)
  | swapIn (c : CoreId) (bad : BadSectors)
  | strWrite (c : CoreId) (bad : BadSectors)
  | strRead (c : CoreId) (bad : BadSectors)
  | deferredEntryPart (c : CoreId) (bad : BadSectors)
  | lastSliceCopiedOut (c : CoreId) (bad : BadSectors)
  | lastSliceCopiedIn (c : CoreId) (bad : BadSectors)
  | attend (c : CoreId) (bad : BadSectors)
  | append (c : CoreId) (bad : BadSectors)
  | combine (c : CoreId) (bad : BadSectors)
  | kvOpen (c : CoreId) (bad : BadSectors)
  | kvClose (c : CoreId) (bad : BadSectors)
  | kvFork (c : CoreId) (bad : BadSectors)
  | kvFlush (c : CoreId) (bad : BadSectors)
  | kvRing (c : CoreId) (bad : BadSectors)
  | kvRingArrival (a : KvArrival)
  | conv (c : CoreId) (bad : BadSectors)
  | convT (c : CoreId) (bad : BadSectors)
  | pool (c : CoreId) (bad : BadSectors)
  | fused (c : CoreId) (bad : BadSectors)
  | bandWordPoll (c : CoreId) (bad : BadSectors)
  | rdonePoll (c : CoreId)
  | matmulDx (c : CoreId) (bad : BadSectors)
  | matmulDw (c : CoreId) (bad : BadSectors)
  | convDx (c : CoreId) (bad : BadSectors)
  | convDw (c : CoreId) (bad : BadSectors)
  | stash (c : CoreId) (bad : BadSectors)
  | shardGet (c : CoreId) (bad : BadSectors)
  | shardPublish (c : CoreId) (bad : BadSectors)
  | shardPublishResume (c : CoreId) (ticket : BitVec 32) (bad : BadSectors)
  | objCreate (c : CoreId)
  | objPromote (c : CoreId)
  | objEvict (c : CoreId) (bad : BadSectors)
  | objPin (c : CoreId)
  | objWriteback (c : CoreId) (bad : BadSectors) (fails : DieFails)
  | objDelete (c : CoreId)
  | objQuery (c : CoreId) (bad : BadSectors)
  | moveUpDone (id : BitVec 48) (pages : List PageRead) (bad : BadSectors)
  | moveDownDone (id : BitVec 48) (pages : List PageRead) (bad : BadSectors) (fails : DieFails)
  | patrolPass (pages : List PageRead) (fails : DieFails)
  | prefetch (c : CoreId)
  | prefetchProgressPoll (c : CoreId) (ticket : BitVec 32) (bad : BadSectors)
  | prefetchEntryDone (c : CoreId) (ticket : BitVec 32) (i : Nat)
  | memred (c : CoreId) (bad : BadSectors)
  | tumblerClaim (c : CoreId) (bad : BadSectors)
  | claimWaitEnd (c : CoreId) (ticket : BitVec 32) (bad : BadSectors)
  | claimCopy (c : CoreId) (bad : BadSectors)
  | tumblerReset (c : CoreId) (bad : BadSectors)
  | allgather (c : CoreId) (bad : BadSectors)
  | reduceScatter (c : CoreId) (bad : BadSectors)
  | allreduce (c : CoreId) (bad : BadSectors)
  | collectiveWaitPoll (c : CoreId) (ticket : BitVec 32) (bad : BadSectors)
  | alltoallDispatch (c : CoreId) (bad : BadSectors)
  | alltoallReturn (c : CoreId) (bad : BadSectors)
  | shardGather (c : CoreId) (bad : BadSectors)
  | waitWord (c : CoreId)
  | waitWordPoll (c : CoreId) (ticket : BitVec 32) (bad : BadSectors)
  -- near and far tier events
  | channelRetrainEnd (ch : ChanId) (ok : Bool)
  | evacuationEnd (bad : BadSectors)
  | nearTgCtlStart (m : Master) (ch : ChanId)
  | nearTgCtlStop (m : Master) (ch : ChanId)
  | tgRunEnd (ch : ChanId) (checked : BitVec 32) (failing : List (BitVec 23 × BitVec 2))
  | farPortRetire (p : PortId)
  -- fabric events
  | dataFlitReceive (l : LinkId) (f : Flit)
  | idleFlitReceive (l : LinkId) (f : Flit)
  | retryFlitReceive (l : LinkId) (f : Flit)
  | trainFlitReceive (l : LinkId) (i : TrainInfo)
  | linkTrainingDone (l : LinkId)
  | linkTrainingFail (l : LinkId)
  | failoverReturn (l : LinkId)
  | fabRead (i : Nat) (bad : BadSectors)
  | fabWrite (i : Nat)
  | fabAmo (i : Nat) (bad : BadSectors)
  | bwrite (i : Nat)
  | badd (i : Nat) (bad : BadSectors)
  | rdata (i : Nat)
  | fabAck (i : Nat)
  | nack (i : Nat)
  | fabHasp (i : Nat)
  | fabHaspAck (i : Nat)
  -- image loads, steps, leases
  | imageLoad (h : BitVec 32)
  | waitingLoadStart
  | loadDrainTimeout (p : PartId)
  | partialLoadApply
  | partEnd (m : Master) (p : PartId) (v : Word)
  | quiesceDone (p : PartId) (bad : BadSectors)
  | boundaryStage (p : PartId) (bad : BadSectors)
  | watchdogOverrun (p : PartId)
  | leaseExpiry (p : PartId) (slot : Fin 64)
  | leaseWaitEnd (p : PartId)
  -- Ethernet and the Flister Command Transport
  | arpRequest (port : PortId) (mac : BitVec 48) (ip4 : BitVec 32)
  | neighbourSolicitation (port : PortId) (mac : BitVec 48) (ip6 : BitVec 128)
  | echoRequest (port : PortId) (mac : BitVec 48) (src dst : IpAddr) (data : List Byte)
  | pfcFrame (port : PortId) (bulk pause : Bool)
  | otherFrame (port : PortId)
  | setupHello (p : Pkt)
  | setupFinish (p : Pkt)
  | setupTimeout (sid : BitVec 32)
  | control (p : Pkt)
  | ack (p : Pkt)
  | data (p : Pkt)
  | retransmitTimeout (sid : BitVec 32) (bulk : Bool)
  | sessionIdleTimeout (sid : BitVec 32)
  | haspStop (p : Pkt)
  | haspRelease (p : Pkt)
  | holdNAssert (n : PortId)
  | holdNDeassert (n : PortId)
  -- host commands, by the handle their ACCEPT gave
  | fctNop (h : BitVec 32)
  | query (h : BitVec 32)
  | fctClose (sid : BitVec 32)
  | issue (h : BitVec 32)
  | fctWrite (h : BitVec 32)
  | fctRead (h : BitVec 32) (bad : BadSectors)
  | firmwareLoad (h : BitVec 32) (selfTest : Bool)
  | regRead (h : BitVec 32)
  | regWrite (h : BitVec 32)
  | getIdentity (h : BitVec 32)
  | attest (h : BitVec 32)
  | getKeyring (h : BitVec 32)
  | ownerFuse (h : BitVec 32) (fuseOk : Bool)
  | keyringInstall (h : BitVec 32)
  | keyringRotate (h : BitVec 32) (fuseOk : Bool)
  | debugChallenge (h : BitVec 32)
  | debugUnlock (h : BitVec 32)
  | debugDisable (h : BitVec 32) (fuseOk : Bool)
  | provisioningRestart
  -- availability and repair
  | coreRetire (c : CoreId) (slot : Option (BitVec 32))
  | ethLinkLoss (port : PortId)
  | lockstepMismatch (pair : PortId)
  | takeoverEnd
  | enable (m : Master) (fn : BitVec 6)
  | disable (m : Master) (fn : BitVec 6)
  | fnStartFinished (fn : BitVec 6) (up : Bool) (cap : BitVec 46)
  | fnStopFinished (fn : BitVec 6)
  | partReleaseThread (m : Master) (p : PartId) (c : CoreId) (t : ThreadId)
  | partReleaseComputeList (m : Master) (p : PartId) (c : CoreId)
  | partReleaseMoveList (m : Master) (p : PartId) (c : CoreId)
  | partReleaseCore (m : Master) (p : PartId) (c : CoreId)
  | modReleaseSession (m : Master) (sid : BitVec 32)
  | modReleaseRemoteModule (m : Master) (module : BitVec 18) (p : PartId)
  | ledgerSlotWrite (slot : Fin 202) (mismatches : Nat)
  -- power
  | inputPowerGood
  | undervoltage
  | overcurrent
  | overvoltage
  | thermalShutdown
  | latchedStopClear
  | resetNLow
  | resetNHigh
  | startUp (e : StartEnv)
  | governorWindow (pin vin : BitVec 16)
  | nearRateStepEnd
  | thermalWarning (die : PortId) (temp : BitVec 16)
  | thermalClear (die : PortId) (temp : BitVec 16)
  | pwrCap (m : Master) (v : Word)
  | shutdown (m : Master)
  | shutdownComplete
  | ethLinkUp (port : PortId) (cr2 : Bool)
  | farLinkLoss (p : PortId) (retrains : Bool)
  | railOutOfRange
  | pfcPauseExpiry (port : PortId)
  | granuleCopyPerformed (g : Nat) (bad : BadSectors)
  | slowMaintenanceOperation (ch : Fin 8) (fails : DieFails)
  deriving DecidableEq, Repr

end Sys2Proof
end

