-- ==== Sys2Proof/Decode.lean ====
section
/-! DEFINITION. Decoding of a command from a word of the opcode table. -/

namespace Sys2Proof

/-- The command a word spells by the table's bits. No row of spec/opcode_table.json gives bits, so no word spells a
command (notes/assumptions/5.md). -/
def decodeTableWord (_nbits _w : Nat) : Option Instr := none

end Sys2Proof
end

