-- ==== Sys2Proof/Config.lean ====
section
/-! DEFINITION. What the specification leaves open, as constants without a body: free values, the arithmetic it
fixes only to a bound, and the published cryptographic standards it names but does not define. -/

namespace Sys2Proof

/-- The n-th free value of a run: cycle counts, random numbers, generator bits (R66, R114, R349, R419), and every
other value the specification leaves open once per occurrence. -/
opaque Config.free : Nat → BitVec 64

/-- Bytes of the transposing buffer and of the punnet as a master reads them (R164: not specified). -/
opaque Config.freeBytes : Nat → Nat → List Byte

/-- A value that the vector unit may take for the coefficients a and b of one recurrence step h ← a·h + b: the operation
code, the update function, and the inputs and parameters that enter. Machine/Real.lean takes it where it keeps the bounds
of R130. -/
opaque Config.coeffs : Nat → Nat → List (BitVec 32) → BitVec 32 × BitVec 32

/-- One step of an FP32C state held as a pair: the pair, a and b; taken where it keeps the bound of R154. -/
opaque Config.pairStep : BitVec 32 × BitVec 32 → BitVec 32 × BitVec 32 → BitVec 32 × BitVec 32

/-- The reading of a pair in an output; taken where it keeps the bound of R154. -/
opaque Config.pairRead : BitVec 32 × BitVec 32 → BitVec 32

/-- The output sum Σ C·h + D·x of SCAN in FP32, whose order is open (R130): C, h, D, x. -/
opaque Config.scanOut : List (BitVec 32) → List (BitVec 32) → BitVec 32 → BitVec 32 → BitVec 32

/-- The FP32 norm of the drift monitor, whose order is open (R155). -/
opaque Config.norm2 : List (BitVec 32) → BitVec 32

/-- The exponential of (−1)^neg · m · 2^e; taken where it keeps the bound of R177. -/
opaque Config.expNear : Bool → Nat → Int → BitVec 32

/-- One accumulation a·c + Σ p·v of an attention visit, whose order is open (R177): a, c, and the pairs p, v. -/
opaque Config.attnAcc : BitVec 32 → BitVec 32 → List (BitVec 32 × BitVec 32) → BitVec 32

/-- The score of one key, FP32(scale·dot), whose summation order is open (R177, R181). -/
opaque Config.attnScore : BitVec 32 → List (BitVec 32) → List (BitVec 32) → BitVec 32

/-- The log-sum-exp m + ln l of an attention row (R178): m and l. -/
opaque Config.attnLse : BitVec 32 → BitVec 32 → BitVec 32

/-- One output element of COMBINE (R182): the parts' log-sum-exps and elements. -/
opaque Config.combineOut : List (BitVec 32) → List (BitVec 32) → BitVec 32

/-- The merged log-sum-exp of COMBINE (R182). -/
opaque Config.combineLse : List (BitVec 32) → BitVec 32

/-- The FP32 average of POOL (R196): the values read and the divisor; taken where it keeps R196's bound. -/
opaque Config.poolAvg : List (BitVec 32) → Nat → BitVec 32

/-- Sign and payload of the quiet NaNs that array and vector arithmetic forms (R96 leaves them open). -/
opaque Config.nanPayload : BitVec 32

/-- SHA3-256 (FIPS 202). -/
opaque Config.sha3 : List Byte → BitVec 256

/-- KMAC256 with a 256-bit result: key, data, customisation string (NIST SP 800-185). -/
opaque Config.kmac256 : List Byte → List Byte → String → BitVec 256

/-- KMAC128 with a 128-bit result (NIST SP 800-185). -/
opaque Config.kmac128 : BitVec 256 → List Byte → String → BitVec 128

/-- The device-unique secret (R400), which no master reads. -/
opaque Config.uds : List Byte

/-- ML-DSA-44 verification: public key, context, message, signature (FIPS 204). -/
opaque Config.mldsaVerify : List Byte → String → List Byte → List Byte → Bool

/-- ML-DSA-44 key generation from a seed: the public and the private key (FIPS 204). -/
opaque Config.mldsaKeyGen : List Byte → List Byte × List Byte

/-- ML-DSA-44 signing: private key, context, message (FIPS 204). -/
opaque Config.mldsaSign : List Byte → String → List Byte → List Byte

/-- What Brepor's factory key signs (R402): context, message. -/
opaque Config.factorySign : String → List Byte → List Byte

/-- ML-KEM-768 encapsulation: key and randomness to ciphertext and shared secret (FIPS 203). -/
opaque Config.mlkemEncap : List Byte → Nat → List Byte × BitVec 256

/-- The serial number of the module (R415). -/
opaque Config.serial : List Byte

/-- SEC_ROMMEAS, the ROM measurement (R416). -/
opaque Config.romMeas : BitVec 256

/-- The version of the factory firmware (R442; notes/assumptions/2.md). -/
def Config.factoryVersion : BitVec 32 := 1

/-- The 8 bytes a debug read shows at a controller's unit, number and offset (R419). -/
opaque Config.debugData : BitVec 4 → BitVec 4 → BitVec 24 → BitVec 64

/-- The byte offset ESP_ERR latches where the specification does not say which byte of the section is at fault. -/
opaque Config.freeOffset : Nat → BitVec 32

/-- The block of its die that a stripe's page lies in (R242, R244; notes/assumptions/47.md). -/
opaque Config.flashBlock : Nat → Nat

/-- The pattern of a traffic-generator run: by PATTERN, channel, row and byte of the row (R238; notes/assumptions/36.md). -/
opaque Config.tgPattern : BitVec 2 → Nat → Nat → Nat → BitVec 8

end Sys2Proof
end

