-- ==== Sys2Proof/Machine/Num.lean ====
section
/-! DEFINITION. Exact numbers, the rounding of a number to a format, the element formats of R13 and R106, pips
(R108, R109) and the quantising drain of one block (R111 to R116). -/

namespace Sys2Proof.Machine

/-- A decoded value: NaN, an infinity, or (−1)^neg · m · 2^e. -/
inductive Val where
  | nan
  | inf (neg : Bool)
  | fin (neg : Bool) (m : Nat) (e : Int)
  deriving DecidableEq, Repr

namespace Val

def zero : Val := .fin false 0 0

def isNan : Val → Bool
  | .nan => true
  | _ => false

def isInf : Val → Bool
  | .inf _ => true
  | _ => false

def isZero : Val → Bool
  | .fin _ m _ => m == 0
  | _ => false

def isNeg : Val → Bool
  | .nan => false
  | .inf n => n
  | .fin n _ _ => n

def neg : Val → Val
  | .nan => .nan
  | .inf n => .inf (!n)
  | .fin n m e => .fin (!n) m e

def abs : Val → Val
  | .nan => .nan
  | .inf _ => .inf false
  | .fin _ m e => .fin false m e

/-- The exact product (R96 for infinities and NaN). -/
def mul : Val → Val → Val
  | .fin a m e, .fin b n f => .fin (a != b) (m * n) (e + f)
  | .nan, _ => .nan
  | _, .nan => .nan
  | .inf a, .inf b => .inf (a != b)
  | .inf a, .fin b n _ => if n = 0 then .nan else .inf (a != b)
  | .fin a m _, .inf b => if m = 0 then .nan else .inf (a != b)

/-- Multiplication by 2^k. -/
def scale (k : Int) : Val → Val
  | .fin a m e => .fin a m (e + k)
  | v => v

/-- The signed integer m at exponent e0 ≤ e. -/
def atExp (e0 : Int) (neg : Bool) (m : Nat) (e : Int) : Int :=
  let x : Int := (m : Int) * (2 ^ (e - e0).toNat : Nat)
  if neg then -x else x

/-- The exact sum; a zero sum is negative only when both are. -/
def add : Val → Val → Val
  | .nan, _ => .nan
  | _, .nan => .nan
  | .inf a, .inf b => if a = b then .inf a else .nan
  | .inf a, .fin _ _ _ => .inf a
  | .fin _ _ _, .inf b => .inf b
  | .fin a m e, .fin b n f =>
    if m = 0 && n = 0 then .fin (a && b) 0 0
    else
      let e0 := min e f
      let x := atExp e0 a m e + atExp e0 b n f
      .fin (decide (x < 0)) x.natAbs e0

/-- The exact sum of a list (R95, R110). -/
def sum (xs : List Val) : Val := xs.foldl add zero

/-- Comparison of finite values and infinities; NaN compares false. -/
def lt : Val → Val → Bool
  | .nan, _ => false
  | _, .nan => false
  | .inf a, .inf b => a && !b
  | .inf a, .fin _ _ _ => a
  | .fin _ _ _, .inf b => !b
  | .fin a m e, .fin b n f =>
    let e0 := min e f
    decide (atExp e0 a m e < atExp e0 b n f)

def le (x y : Val) : Bool := !x.isNan && !y.isNan && !lt y x

end Val

/-! ### Rounding -/

/-- The rounding of a result: none is RNE, a value is 16 generator bits (R113). -/
abbrev Rnd := Option (BitVec 16)

/-- For magnitude m·2^e on the grid of a format with mw mantissa bits: the code below it, and the remainder as a
fraction num/den of the step (R106, R113). -/
def gridFloor (mw bias : Nat) (m : Nat) (e : Int) : Nat × Nat × Nat :=
  if m = 0 then (0, 0, 1) else
  let ex : Int := (Nat.log2 m : Int) + e
  let emin : Int := 1 - (bias : Int)
  let q : Int := max ex emin - (mw : Int)
  let sh := e - q
  let (whole, num, den) :=
    if 0 ≤ sh then (m * 2 ^ sh.toNat, 0, 1)
    else (m / 2 ^ (-sh).toNat, m % 2 ^ (-sh).toNat, 2 ^ (-sh).toNat)
  if ex < emin then (whole, num, den) else ((ex - emin).toNat * 2 ^ mw + whole, num, den)

/-- For magnitude m·2^e on a grid of step 2^−fr: as gridFloor. -/
def fixFloor (fr : Nat) (m : Nat) (e : Int) : Nat × Nat × Nat :=
  let sh := e + (fr : Int)
  if 0 ≤ sh then (m * 2 ^ sh.toNat, 0, 1)
  else (m / 2 ^ (-sh).toNat, m % 2 ^ (-sh).toNat, 2 ^ (-sh).toNat)

/-- The rounded magnitude code of a value of sign neg (R113): nearest with ties to the even code, or stochastic
between the neighbouring grid points in signed order. -/
def roundCode (rnd : Rnd) (neg : Bool) (f : Nat × Nat × Nat) : Nat :=
  let (lo, num, den) := f
  if num = 0 then lo else
  match rnd with
  | none => if 2 * num > den || (2 * num = den && lo % 2 = 1) then lo + 1 else lo
  | some r =>
    if neg then (if r.toNat < 2 ^ 16 * (den - num) / den then lo else lo + 1)
    else (if r.toNat < 2 ^ 16 * num / den then lo + 1 else lo)

/-! ### FP32, BF16 and FP16 (R13) -/

/-- Decoding of an IEEE format with ew exponent bits and mw mantissa bits. -/
def decIeee (ew mw : Nat) (x : Nat) : Val :=
  let s := x / 2 ^ (ew + mw) % 2 = 1
  let ex := x / 2 ^ mw % 2 ^ ew
  let man := x % 2 ^ mw
  let bias : Int := 2 ^ (ew - 1) - 1
  if ex = 2 ^ ew - 1 then (if man = 0 then .inf s else .nan)
  else if ex = 0 then .fin s man (1 - bias - mw)
  else .fin s (2 ^ mw + man) ((ex : Int) - bias - mw)

/-- Encoding of a value in an IEEE format; `nan` is the code of a NaN. Overflow gives an infinity as IEEE 754
rounding does (R116). -/
def encIeee (ew mw : Nat) (nan : Nat) (rnd : Rnd) (v : Val) : Nat :=
  let top := (2 ^ ew - 1) * 2 ^ mw
  let sgn (n : Bool) : Nat := if n then 2 ^ (ew + mw) else 0
  match v with
  | .nan => nan
  | .inf n => sgn n + top
  | .fin n m e => sgn n + min top (roundCode rnd n (gridFloor mw (2 ^ (ew - 1) - 1) m e))

/-- The NaN of array and vector arithmetic: quiet, its sign and payload open (R96). -/
def nan32 : BitVec 32 := 0x7FC00000 ||| (Config.nanPayload &&& 0x803FFFFF)

def decF32 (x : BitVec 32) : Val := decIeee 8 23 x.toNat

/-- Rounding to FP32, nearest even (R95). -/
def toF32 (v : Val) : BitVec 32 := BitVec.ofNat 32 (encIeee 8 23 nan32.toNat none v)

/-- Rounding to FP32 with the canonical NaN of the memory-side adders (R257). -/
def toF32c (v : Val) : BitVec 32 := BitVec.ofNat 32 (encIeee 8 23 0x7FC00000 none v)

def decBf16 (x : BitVec 16) : Val := decIeee 8 7 x.toNat

def toBf16c (v : Val) : BitVec 16 := BitVec.ofNat 16 (encIeee 8 7 0x7FC0 none v)

def decF16 (x : BitVec 16) : Val := decIeee 5 10 x.toNat

/-- FP32 sum with one RNE rounding (R95). -/
def fadd (a b : BitVec 32) : BitVec 32 := toF32 ((decF32 a).add (decF32 b))

/-- FP32 fused multiply-add with one rounding (R154). -/
def ffma (a b c : BitVec 32) : BitVec 32 := toF32 (((decF32 a).mul (decF32 b)).add (decF32 c))

/-- IEEE 754 maximum of FP32, in which a NaN wins and +0 is above −0 (R130, R196, R257). -/
def fmax (nan : BitVec 32) (a b : BitVec 32) : BitVec 32 :=
  if (decF32 a).isNan || (decF32 b).isNan then nan
  else if (decF32 a).lt (decF32 b) || (a = 0x80000000 && (decF32 b).isZero) then b else a

def f32Finite (a : BitVec 32) : Bool := a.extractLsb' 23 8 != 0xFF

/-- −∞ in FP32 (R178). -/
def negInf32 : BitVec 32 := 0xFF800000

/-! ### Element types (R13, R105, R106) -/

/-- A block type of 32 elements with one scale (R13, codes 0x0 to 0x7). -/
def isBlock (t : Nat) : Bool := t < 8

/-- Element width in bits (R13, R105). -/
def elemW (t : Nat) : Nat :=
  match t with
  | 0 => 4
  | 1 => 6
  | 2 => 6
  | 3 => 8
  | 4 => 8
  | 5 => 8
  | 6 => 2
  | 7 => 2
  | 8 => 16
  | 9 => 16
  | 10 => 32
  | 11 => 32
  | 12 => 48
  | _ => 0

/-- Exponent bits, mantissa bits and bias of a floating-point block type (R106). -/
def fpShape (t : Nat) : Nat × Nat × Nat :=
  match t with
  | 0 => (2, 1, 1)
  | 1 => (2, 3, 1)
  | 2 => (3, 2, 3)
  | 3 => (4, 3, 7)
  | _ => (5, 2, 15)

/-- A floating-point code without special codes (R106). -/
def decFp (ew mw bias : Nat) (c : Nat) : Val :=
  let s := c / 2 ^ (ew + mw) % 2 = 1
  let ex := c / 2 ^ mw % 2 ^ ew
  let man := c % 2 ^ mw
  if ex = 0 then .fin s man (1 - (bias : Int) - mw)
  else .fin s (2 ^ mw + man) ((ex : Int) - bias - mw)

/-- The code of one element of a block type, before its scale (R106). -/
def decElem (t c : Nat) : Val :=
  match t with
  | 3 => if c % 128 = 127 then .nan else decFp 4 3 7 c
  | 4 => if c % 128 = 124 then .inf (c / 128 = 1) else if c % 128 > 124 then .nan else decFp 5 2 15 c
  | 5 => if c < 128 then .fin false c (-6) else .fin true (256 - c) (-6)
  | 6 => if c < 2 then .fin false c 0 else .fin true (4 - c) 0
  | 7 => if c = 1 then .fin false 1 0 else if c = 3 then .fin true 1 0 else .zero
  | t => decFp (fpShape t).1 (fpShape t).2.1 (fpShape t).2.2 c

/-- The value of a pip (R108, R109): E4M3. -/
def decE4m3 (c : Nat) : Val := decElem 3 c

/-- POS and NEG of a block type, the largest magnitudes the drain writes (R106). -/
def posOf (t : Nat) : Val :=
  match t with
  | 0 => .fin false 6 0
  | 1 => .fin false 15 (-1)
  | 2 => .fin false 28 0
  | 3 => .fin false 448 0
  | 4 => .fin false 57344 0
  | 5 => .fin false 127 (-6)
  | _ => .fin false 1 0

def negOf (t : Nat) : Val := if t = 6 then .fin false 2 0 else posOf t

/-- What the feeder reads of a pip word: up to two pairs of an index and a value (R108). -/
def pipsOf (w : BitVec 32) : List (Nat × Val) :=
  let n := (w.extractLsb' 26 2).toNat
  let p0 := ((w.extractLsb' 8 5).toNat, decE4m3 (w.extractLsb' 0 8).toNat)
  let p1 := ((w.extractLsb' 21 5).toNat, decE4m3 (w.extractLsb' 13 8).toNat)
  if n = 0 then [] else if n = 1 then [p0] else [p0, p1]

/-- The value of element i of a block: (code + pips)·X (R107, R109). -/
def blockVal (t code scale : Nat) (pips : List (Nat × Val)) (i : Nat) : Val :=
  if scale = 255 then .nan
  else (((pips.filter fun p => p.1 = i).map Prod.snd).foldl Val.add (decElem t code)).scale ((scale : Int) - 127)

/-! ### The quantising drain of one block (R111 to R116) -/

/-- Insertion of (index, magnitude) into a list ranked by descending magnitude, lower index first (R112). -/
def rankInsert (x : Nat × Val) : List (Nat × Val) → List (Nat × Val)
  | [] => [x]
  | y :: ys => if y.2.lt x.2 then x :: y :: ys else y :: rankInsert x ys

/-- Elements ranked by magnitude (R112). -/
def rank (xs : List (Nat × Val)) : List (Nat × Val) := xs.foldl (fun acc x => rankInsert (x.1, x.2.abs) acc) []

/-- y·2^(127 − v) lies in [−neg, pos] (R112). -/
def fits (neg pos : Val) (v : Nat) (y : Val) : Bool :=
  let z := y.scale (127 - (v : Int))
  z.le pos && (Val.neg neg).le z

/-- The smallest v in 0 to 254 that satisfies p, and 254 if none (R112). -/
def smallestV (p : Nat → Bool) : Nat := ((List.range 255).find? p).getD 254

/-- The element code the drain writes for scaled value y, and whether it was clamped (R113, R115). -/
def encElem (t : Nat) (rnd : Rnd) (y : Val) : Nat × Bool :=
  let clampLo := y.lt (Val.neg (negOf t))
  let clampHi := (posOf t).lt y
  let z := if clampLo then Val.neg (negOf t) else if clampHi then posOf t else y
  match z with
  | .fin n m e =>
    let c :=
      if t = 5 || t = 6 || t = 7 then
        let a := roundCode rnd n (fixFloor (if t = 5 then 6 else 0) m e)
        if a = 0 then 0 else if n then 2 ^ elemW t - a else a
      else
        let a := roundCode rnd n (gridFloor (fpShape t).2.1 (fpShape t).2.2 m e)
        if a = 0 then 0 else if n then 2 ^ (elemW t - 1) + a else a
    (c, clampLo || clampHi)
  | _ => (0, false)

/-- What the drain writes for one block, and what its monitors count (R112 to R117). -/
structure BlockOut where
  scale : Nat
  codes : List Nat
  pip : BitVec 32
  sat : Nat
  demand : Nat
  deriving DecidableEq, Repr

/-- The pip word of up to two pips, lower index first (R108). -/
def pipWord (ps : List (Nat × Nat)) : BitVec 32 :=
  match ps with
  | [] => 0
  | [(i, c)] => BitVec.ofNat 32 (2 ^ 26 + i * 2 ^ 8 + c)
  | (i, c) :: (j, d) :: _ =>
    let (a, b) := if i < j then ((i, c), (j, d)) else ((j, d), (i, c))
    BitVec.ofNat 32 (2 * 2 ^ 26 + b.1 * 2 ^ 21 + b.2 * 2 ^ 13 + a.1 * 2 ^ 8 + a.2)

/-- Quantisation of one block of FP32 sums to block type t with P pips; `rnd i` rounds element i. In an MXFP8 E5M2 block
with Inf sums R112 ranks the finite elements: where there are fewer than nine of them, the ninth-largest magnitude counts
as 0, so that the smallest that is not zero is the reference (DESIGN CHOICE, notes/assumptions/40.md). -/
def quantBlock (t P : Nat) (rnd : Nat → Rnd) (x : List (BitVec 32)) : BlockOut :=
  let vs := x.map decF32
  let infs := vs.countP Val.isInf
  let satInf := if t = 4 then 0 else infs
  let zeros := vs.map fun _ => 0
  let ix := vs.zipIdx.map fun p => (p.2, p.1)
  if vs.any Val.isNan then { scale := 255, codes := zeros, pip := 0, sat := satInf, demand := 0 }
  else if infs ≠ 0 && t ≠ 4 then { scale := 255, codes := zeros, pip := 0, sat := satInf, demand := 0 }
  else
    let fins := ix.filter fun p => !p.2.isInf
    let rk := rank fins
    let nz := rk.filter fun p => !p.2.isZero
    let r9 := ((rk[8]?).map Prod.snd).getD .zero
    let r := if r9.isZero then ((nz.getLast?).map Prod.snd).getD .zero else r9
    if r.isZero then
      { scale := 0, codes := ix.map fun p => if p.2.isInf then (if p.2.isNeg then 252 else 124) else 0, pip := 0,
        sat := 0, demand := 0 }
    else
      let vr := smallestV fun v => r.le ((posOf t).scale ((v : Int) - 127))
      let thr := (posOf t).scale ((vr : Int) - 127 + 2)
      let d := fins.countP fun p => thr.lt p.2.abs
      let u := min d P
      let pips := (rk.take u).map Prod.fst
      let rest := fins.filter fun p => !pips.contains p.1
      let v :=
        if rest.any fun p => !p.2.isZero then smallestV fun v => rest.all fun p => fits (negOf t) (posOf t) v p.2
        else smallestV fun v => (fins.filter fun p => pips.contains p.1).all fun p => fits (posOf 3) (posOf 3) v p.2
      let es := ix.map fun p =>
        if p.2.isInf then (if p.2.isNeg then 252 else 124, false)
        else if pips.contains p.1 then (0, false)
        else encElem t (rnd p.1) (p.2.scale (127 - (v : Int)))
      let pc := (ix.filter fun p => pips.contains p.1).map fun p =>
        (p.1, encElem 3 (rnd p.1) (p.2.scale (127 - (v : Int))))
      { scale := v, codes := es.map Prod.fst, pip := pipWord (pc.map fun p => (p.1, p.2.1)),
        sat := es.countP Prod.snd + pc.countP (fun p => p.2.2), demand := d }

/-- BF16 or FP16 of an FP32 sum, and whether it counts as a saturation (R116). A NaN stays a quiet NaN, whose sign and
payload are free (DESIGN CHOICE, notes/assumptions/6.md). -/
def narrowFloat (t : Nat) (rnd : Rnd) (x : BitVec 32) : BitVec 16 × Bool :=
  let v := decF32 x
  let (ew, mw) := if t = 8 then (8, 7) else (5, 10)
  let maxFin := decIeee ew mw ((2 ^ ew - 1) * 2 ^ mw - 1)
  let nan := if t = 8 then (nan32.extractLsb' 16 16).toNat
    else (0x7E00 ||| (Config.nanPayload.extractLsb' 16 16 &&& (0x81FF : BitVec 16))).toNat
  (BitVec.ofNat 16 (encIeee ew mw nan rnd v), !v.isNan && !v.isInf && maxFin.lt v.abs)

end Sys2Proof.Machine
end

