-- ==== Sys2Proof/Machine/State.lean ====
section
/-! DEFINITION. Everything the specification gives the module to hold, as plain data (INVENTORY.md, heading State),
and State.reset: the module right after RESET_N is released, before start-up (R9, R437). -/

namespace Sys2Proof.Machine

/-- Reasons the machine stops with a fault. No meaning of this model raises one: the specification gives every
violation an effect (R25, R384). -/
inductive Fault where
  /-- Kept for the interface; raised by nobody, so it is neither safe nor unsafe. -/
  | unreachable
  deriving DecidableEq, Repr

/-- Reasons a command is refused. -/
inductive Refusal where
  /-- Raised by Dispatch for a command without a meaning yet; safe, because the machine stops. -/
  | notModelled (mnemonic : String)
  deriving DecidableEq, Repr

/-! ### Threads (R30, R31) -/

/-- THR_CTL.STATE (R31). -/
inductive TState where
  | idle | ready | waitMem | waitIssue | waitToken | frozen
  deriving DecidableEq, Repr

/-- What a thread in WAIT_MEM waits for (R31, R37, R39, R65). -/
inductive AccKind where
  | load (size : Nat) (signed : Bool)
  | amo64 (fn ord : BitVec 2)
  | amo32 (fn ord : BitVec 2)
  | amof (fn ord : BitVec 2)
  | semAcq (pd : BitVec 3)
  | semRel (pd : BitVec 3)
  | heldStore
  deriving DecidableEq, Repr

/-- An access of a thread that has not returned (R31, R278). `tag` is set for a remote one, and `lslot` is the lease-table
slot that a remote SEM acquire named (R334). -/
structure Acc where
  kind : AccKind
  rd : BitVec 6
  addr : Word
  rb : Word
  cmp : Word
  tag : Option (BitVec 16)
  lslot : Option (Fin 64) := none
  deriving DecidableEq, Repr

/-- A store that is not yet performed (R31, R57). -/
structure Store where
  addr : Word
  size : Nat
  val : Word
  tag : Option (BitVec 16)
  deriving DecidableEq, Repr

/-- THR_FAULT (R31). -/
structure ThrFault where
  valid : Bool
  cause : Byte
  addr : LAddr
  deriving DecidableEq, Repr

/-- One hardware thread (R30, R31). -/
structure Thread where
  st : TState
  resetPend : Bool
  pc : BitVec 20
  fault : ThrFault
  pred : Byte
  g : Vector Word 64
  stores : List Store
  held : Option Store
  acc : Option Acc
  tissRd : BitVec 6
  tissAddr : Word
  tokTicket : BitVec 32
  tokRd : BitVec 6
  yielded : Bool
  coreHeld : Bool
  deriving DecidableEq, Repr

/-! ### Operations (R40 to R56) -/

/-- DRN_TOKt (R46, R47). -/
structure Token where
  busy : Bool
  bound : Bool
  status : Status
  ticket : BitVec 32
  deriving DecidableEq, Repr

/-- One pass of an output tile: the tile's columns it feeds and its reduction indices, in blocks that are each
summed exactly (R79, R95, R102, R211). -/
structure PassSpec where
  c0 : Nat
  c1 : Nat
  blocks : List (List Nat)
  deriving DecidableEq, Repr

/-- One output tile: its fed rows, its columns from n0 up to n1, and its passes (R79). -/
structure TileSpec where
  rows : List Nat
  n0 : Nat
  n1 : Nat
  passes : List PassSpec
  deriving DecidableEq, Repr

/-- A pass of an operation on its way through the array (R54, R79, R120). `rerun` marks a re-run after widening,
`counted` says that its landing counts as a pass (R103, R104), and `tags` is how many shared sector tags its staging
holds (R55, R80). -/
structure PassRef where
  ticket : BitVec 32
  tile : Nat
  pass : Nat
  rerun : Bool
  counted : Bool
  tags : Nat := 0
  deriving DecidableEq, Repr

/-- The state of an accumulator bank (R87). -/
inductive BankSt where
  | free | filling | full | draining
  deriving DecidableEq, Repr

/-- An accumulator bank (R87): its tile and its FP32 (or INT32) sums, one list of columns per fed row. `dead` marks an
abandoned tile whose entered beats have not all landed, and `writing` the sectors that its drain writes (R55). -/
structure Bank where
  st : BankSt
  ticket : BitVec 32
  tile : Nat
  rerun : Bool
  sums : List (List (BitVec 32))
  sat : Nat
  pip : Nat
  dead : Bool := false
  writing : Nat := 0
  deriving DecidableEq, Repr

/-- An array operation being expanded (R79, R104, R120). -/
structure ArrayWork where
  desc : Desc
  m : Nat
  k : Nat
  n : Nat
  tiles : List TileSpec
  todo : List PassRef
  left : Nat
  drained : List Nat
  lost : List Nat
  widened : Bool
  passes : Nat
  escalated : Nat
  sat : Nat
  pip : Nat
  deriving DecidableEq, Repr

/-- A member's part of a control entry that waits for pins (R150). -/
structure PartWait where
  member : CoreId
  tickets : List (BitVec 32)
  deriving DecidableEq, Repr

/-- A stream control operation in progress on its lead (R149, R150). `partOk` says that the parts of the present entry
performed so far could read what they copy, and `stop` the status with which the operation ends once its slices on the move
have arrived. -/
structure CtlWork where
  idx : Nat
  waiting : List PartWait
  performed : Nat
  deferred : Nat
  moving : Bool
  failed : Bool
  partOk : Bool := true
  stop : Option Status := none
  deriving DecidableEq, Repr

/-- A prefetch schedule in progress (R256). -/
structure PrefetchWork where
  next : Nat
  inflight : List Nat
  done : List (Nat × Status)
  deriving DecidableEq, Repr

/-- A collective in progress (R286): the phase, its step, and whether its signal was sent. -/
structure CollWork where
  ag : Bool
  k : Nat
  sent : Bool
  ready : Bool
  steps : Nat
  deriving DecidableEq, Repr

/-- A fused stripe in progress (R201 to R207): its layers, the one running, the rows of the neighbours' bands known to
be performed when their band words were read last, whether a pass waits on them, whether RDONE is written and the stripe
waits for its neighbours', and the result words summed so far. -/
structure FusedWork where
  layers : List Desc
  layer : Nat
  upRows : Nat
  downRows : Nat
  waitBand : Bool := false
  rdone : Bool := false
  waitRdone : Bool
  widened : Bool
  empty : Bool
  res : List Nat
  deriving DecidableEq, Repr

/-- What one transfer of an operation does (R43, R278, R286, R291): copy bytes, write a repeated word, add or max at the
destination's adder (ETYPE and FN of R257), write a word, add 1 with release, take a slot of a receive area with its
cursor and write a row and its origin there, read a control block, or take a step on a shard record. -/
inductive XKind where
  | copy
  | fill (pat : Word)
  | adder (f : BitVec 3)
  | word (v : Word)
  | bump
  | cursor (base stride cap src rbytes origin : Nat)
  | record
  | shard (fn : Byte) (args : List Nat)
  deriving DecidableEq, Repr

/-- A transfer of an operation, at global addresses; `pos` bytes are performed (R278). -/
structure Xfer where
  kind : XKind
  src : Nat
  dst : Nat
  len : Nat
  pos : Nat
  deriving DecidableEq, Repr

/-- One get in progress (R224, R290): the slot, generation and references chosen, whether its READ is raised, the
transfers it still has to make and the tag of the one on its way, a failure that it met, and its status once it is over. -/
structure ShardEnt where
  slot : Nat
  gen : Nat
  refs : Nat
  took : Bool
  xfers : List Xfer
  tag : Option (BitVec 16)
  fail : Option Status
  st : Option Status
  deriving DecidableEq, Repr

/-- A publish in progress (R225): its step, the references it read, where it copies to, and whether it waited. -/
structure PubWork where
  step : Nat
  refs : BitVec 32
  dst : Nat
  waited : Bool
  deriving DecidableEq, Repr

/-- An APPEND in progress (R166, R168): the next row, its counts so far, the pages it has claimed and not allocated from
the unreserved ones, and the bytes of that row once they are quantised and wait for room. -/
structure AppendWork where
  row : Nat
  appended : Nat
  copies : Nat
  sat : Nat
  skipped : Nat
  claimed : Nat
  staged : Option (List Byte) := none
  deriving DecidableEq, Repr

/-- What an operation in progress holds. -/
inductive Work where
  | none
  | array (a : ArrayWork)
  | fused (f : FusedWork) (a : Option ArrayWork)
  | chunk (ids : List Nat)
  | ctl (c : CtlWork)
  | publish (w : PubWork)
  | shard (w : List ShardEnt)
  | failing
  | prefetch (p : PrefetchWork)
  | coll (c : CollWork)
  | claim
  | object
  | waitWord
  | append (w : AppendWork)
  | script (counts : List Nat)
  deriving DecidableEq, Repr

/-- The phase of an operation: waiting on its list, started, held by a violation (R384), or with its status known
and waiting for its completion (R49). -/
inductive Phase where
  | queued
  | running
  | heldBy
  | finished (st : Status)
  deriving DecidableEq, Repr

/-- One operation slot (R44 to R49). `dep` is the ticket waited on, `depSt` the status its wait met. -/
structure Op where
  ticket : BitVec 32
  desc : Desc
  bounds : BitVec 128
  move : Bool
  bad : Bool
  host : Option (BitVec 32)
  waited : Bool
  boundary : Bool
  held : Bool
  dep : Option (BitVec 32)
  depSt : Status
  sig : Option (BitVec 7)
  phase : Phase
  success : Status
  result : BitVec 128
  tags : List (BitVec 16)
  xfers : List Xfer
  work : Work
  deriving DecidableEq, Repr

/-- A row of the punnet (R164): its sequence, its position, its key and value bytes in page type, whether it is a live
row of its line, and the started ATTENDs that hold it (R166, R173). -/
structure PunnetRow where
  seq : BitVec 20
  pos : Nat
  bytes : List Byte
  uncorrectable : Bool
  live : Bool
  holders : List (CoreId × BitVec 32)
  deriving DecidableEq, Repr

/-- The pages that a started ATTEND or KV_RING keeps out of FREE (R159, R173, R292). -/
structure Hold where
  ticket : BitVec 32
  pages : List Nat
  deriving DecidableEq, Repr

/-- The CORE block of a core, and its freeze (unit 0x0, R49, R67, R376, R384). -/
structure CoreRegs where
  silicon : Byte
  part : Option PartId
  imgMhz : BitVec 16
  freqMhz : BitVec 16
  cyc : Word
  elogValid : Bool
  elogOvf : Bool
  elogStatus : Status
  elogTicket : BitVec 32
  frzCore : Bool
  frzClist : Bool
  frzMlist : Bool
  retiring : Bool
  frzCause : Byte
  frzAddr : LAddr
  frzTicket : BitVec 32
  errEvents : Nat
  deriving DecidableEq, Repr

/-- The array, its banks and the drain (units 0x1 and 0x4, R81 to R120); `lastBank` is the bank bound last. Of the tile
operations prepared, the tiles of the first `pend` stand in the pending entries of the weight registers, and `active` is
the tile in the active entries with its element width (R82, R84). `busy` marks a busy period (R86). -/
structure ArrUnit where
  prep : List PassRef
  pend : Nat := 0
  active : Option (PassRef × Nat) := none
  busy : Bool := false
  flight : List PassRef
  banks : Vector Bank 2
  lastBank : Fin 2
  carry : List ((BitVec 32 × Nat × Nat) × BitVec 32)
  colmap : Word
  failCols : Word
  bcast : Bool
  beats : Word
  bubHold : BitVec 16
  bubWtile : BitVec 16
  bubFeed : BitVec 16
  bubBcast : BitVec 16
  perrValid : Bool
  perrCol : Byte
  perrRow : Byte
  perrCount : BitVec 32
  perrCols : List Nat
  passes : Word
  trips : BitVec 32
  reruns : BitVec 32
  reseeds : BitVec 32
  rngHealth : Bool
  tpFetch : BitVec 32
  tpTxb : BitVec 32
  deriving DecidableEq, Repr

/-- The carried-state unit (unit 0x5, R133 to R155). `stsSlices` lists the slices held: stream, offset, bytes;
`stsPins` the streams that started chunks pin. -/
structure StsUnit where
  stsGroup : Byte
  stsSize : BitVec 5
  stsIndex : BitVec 4
  stsWork : BitVec 11
  stsSlices : List (BitVec 16 × Nat × Nat)
  stsPins : List (BitVec 32 × List Nat)
  driftValid : Bool
  driftOvf : Bool
  driftStream : BitVec 16
  driftCount : BitVec 32
  stsUnc : Bool
  stsErrStream : BitVec 16
  stsCorr : BitVec 32
  stsCyc : Word
  deriving DecidableEq, Repr

/-- The KV unit (unit 0x6, R157 to R183). -/
structure KvcUnit where
  punnet : List PunnetRow
  holds : List Hold
  flFull : BitVec 16
  flRoom : BitVec 16
  flOther : BitVec 16
  flCopies : BitVec 16
  kvUnc : Bool
  kvErrSeq : BitVec 20
  kvCorr : BitVec 32
  deriving DecidableEq, Repr

/-- The convolution registers (unit 0x7, R193 to R207). -/
structure CnvUnit where
  elPasses : BitVec 32
  elSectors : BitVec 32
  cnvWait : Word
  xRun : BitVec 16
  xUp : Byte
  xDown : Byte
  xActive : Bool
  cfValid : Bool
  cfCore : Byte
  cfStatus : Status
  deriving DecidableEq, Repr

/-- One core slot, by the number it answers to (R20, R30 to R56, and the register tables of units 0x0 to 0x7). -/
structure Core where
  threads : Vector Thread 32
  lastThread : Fin 32
  ops : List Op
  tokens : Vector Token 128
  next : BitVec 32
  completed : BitVec 32
  fenced : Bool
  latch : BitVec 32
  reg : CoreRegs
  arr : ArrUnit
  sts : StsUnit
  kvc : KvcUnit
  cnv : CnvUnit
  deriving DecidableEq, Repr

/-! ### Partitions (chapters 11 and 12) -/

/-- A memory window (R306). -/
structure Window where
  base : LAddr
  size : LAddr
  ro : Bool
  deriving DecidableEq, Repr

/-- A lease-table slot (R334). -/
structure Lease where
  used : Bool
  expired : Bool
  addr : Word
  core : CoreId
  thread : ThreadId
  n : BitVec 32
  gen : BitVec 7
  deriving DecidableEq, Repr

/-- PART_STATUS.STATE (R322). -/
inductive PState where
  | absent | step | quiesce | boundary | hinge | held
  deriving DecidableEq, Repr

/-- A boundary-list entry as the controller read it (R323). -/
structure BEntry where
  desc : Option Desc
  core : Byte
  cls : Byte
  bundle : BitVec 16
  ok : Bool
  deriving DecidableEq, Repr

/-- What the sections of a partition set (R304 to R309). -/
structure PartCfg where
  ctrl : BitVec 4
  yields : Bool
  hingeEvery : BitVec 16
  share : BitVec 10
  budget : Word
  leaseMax : Word
  windows : List Window
  lookahead : BitVec 6
  policy : BitVec 2
  route : BitVec 2
  escSat : BitVec 16
  escPip : BitVec 16
  stsFirst : BitVec 16
  stsCount : BitVec 17
  stsBase : LAddr
  seqFirst : BitVec 20
  seqCount : BitVec 21
  seqBase : LAddr
  plistBase : LAddr
  capMax : Byte
  pageKib : BitVec 16
  pgCount : BitVec 24
  pgBase : LAddr
  pgmetaBase : LAddr
  punnetSectors : BitVec 12
  tumbFirst : BitVec 16
  tumbCount : BitVec 16
  gen : BitVec 32
  nearBudget : BitVec 32
  farBudget : BitVec 32
  deriving DecidableEq, Repr

/-- The step boundary of a partition (R320 to R325): `entries` are those not yet issued, `bundle` the bundle being performed
with its outcome (0 admitted, 1 invalid, 2 refused), `genDue` says that hinge actions changed a map. -/
structure PartBound where
  stage : BitVec 3
  late : Bool
  list : LAddr
  count : BitVec 16
  listCore : Option CoreId
  entries : List BEntry
  bundle : Option (BitVec 16 × Nat)
  genDue : Bool
  listErr : Bool
  bRefused : BitVec 16
  bAdmitted : BitVec 16
  bEntries : BitVec 16
  bundleRes : BitVec 32
  deriving DecidableEq, Repr

/-- One partition (R304 to R309, R319 to R337). `waitCores` are the cores on whose leases a pre-emption waits (R335). -/
structure Part where
  st : PState
  steps : BitVec 32
  hinges : BitVec 32
  wdogValid : Bool
  wdogOvf : Bool
  wdogCount : BitVec 16
  wdogStep : BitVec 32
  overrun : Bool
  stMax : BitVec 32
  stLast : BitVec 32
  engine : Word
  leases : Vector Lease 64
  leExpired : BitVec 32
  waitLease : Bool
  waitCores : List CoreId := []
  cores : List CoreId
  kvFree : BitVec 32
  kvReserved : BitVec 32
  kvClaimed : Nat
  nearCharge : BitVec 32
  farCharge : BitVec 32
  holdReq : Bool
  shortCores : List CoreId
  hid : BitVec 32
  src : BitVec 4
  cfg : PartCfg
  bd : PartBound
  deriving DecidableEq, Repr

/-! ### Memory tiers (chapter 9) -/

/-- NEAR_STATE.STATE (R234). -/
inductive ChanSt where
  | off | training | serving | evacuating | retired | lost
  deriving DecidableEq, Repr

/-- One near-tier channel (R227 to R238). -/
structure Chan where
  st : ChanSt
  rate : Byte
  retrains : BitVec 16
  retries : BitVec 24
  eccCorr : BitVec 24
  uncValid : Bool
  uncCount : BitVec 10
  uncAddr : LAddr
  poison : List Nat
  tgRefused : Bool
  tgBusy : Bool
  tgStop : Bool
  tgReads : BitVec 4
  tgPasses : BitVec 6
  tgPattern : BitVec 2
  tgRows : BitVec 23
  tgFirst : BitVec 23
  tgErrors : BitVec 32
  tgChecked : BitVec 32
  tgFValid : Bool
  tgFRow : BitVec 23
  tgFSector : BitVec 2
  events : Nat
  retrainEvents : Nat
  deriving DecidableEq, Repr

/-- TIER_NBANDi (R230). -/
structure Band where
  valid : Bool
  split : Bool
  rows : BitVec 23
  first : BitVec 23
  deriving DecidableEq, Repr

/-- FAR_LINK.STATE and ETH_STATUS.LINK share these names (R241, R379). -/
inductive PortSt where
  | down | training | up | retired
  deriving DecidableEq, Repr

/-- One far-tier port (R239 to R241). -/
structure FarPort where
  st : PortSt
  rate : Byte
  width : Byte
  cap : LAddr
  errValid : Bool
  poison : BitVec 15
  events : BitVec 16
  replays : BitVec 32
  retrains : Nat
  deriving DecidableEq, Repr

/-- A block of a die of a NAND channel that has been read, erased or retired (R244, R245). `erases` is none while only the
channel's lowest and highest counts bound it. -/
structure FlashBlock where
  die : Fin 16
  num : Nat
  erases : Option Nat
  reads : Nat
  scrub : Bool
  retired : Bool
  deriving DecidableEq, Repr

/-- One NAND channel (R242 to R246), with the failure events of each die by RETIRE class: 4 programs and erases, 5 pages
recovered only by parity (R303). -/
structure SlowChan where
  up : Bool
  dies : BitVec 16
  lost : BitVec 16
  rebuilds : BitVec 16
  retired : BitVec 16
  retries : BitVec 16
  wearMax : BitVec 16
  wearMin : BitVec 16
  progEvents : Vector Nat 16
  parityEvents : Vector Nat 16
  blocks : List FlashBlock
  deriving DecidableEq, Repr

/-- What a page of a stripe holds: page n of an object (four to an extent), the stripe's parity, or old contents (R242,
R243). -/
inductive PageUse where
  | data (id : BitVec 48) (page : Nat)
  | parity
  | stale
  deriving DecidableEq, Repr

/-- A page of a stripe: its channel and the die of that channel it lies on. -/
structure FlashPage where
  ch : Fin 8
  die : Fin 16
  use : PageUse
  deriving DecidableEq, Repr

/-- A stripe: its number, the die of its parity group, and its pages, at most one on each channel (R242). -/
structure Stripe where
  num : Nat
  die : Fin 16
  pages : List FlashPage
  deriving DecidableEq, Repr

/-- An object in the translation layer's map (R243, R247, R441): the extents written to flash and their bytes by
offset, canonical as the memory is. Where each page of it lies the stripes say; a parity page is the XOR of its stripe's other
pages. -/
structure SlowObj where
  id : BitVec 48
  owner : PartId
  share : BitVec 16
  extents : Nat
  written : List Nat
  data : List Host.Cell
  deriving DecidableEq, Repr

/-- A request on an object: the operation or a prefetch entry of one, its OPC, and its fields (R251, R253, R256).
`joined` marks one that completes with the move it waits on; the others are handled when the move ends. -/
structure Waiter where
  core : CoreId
  ticket : BitVec 32
  entry : Option Nat
  kind : Byte
  tier : BitVec 2
  addr : Word
  pin : Bool
  extents : Nat
  share : BitVec 16
  joined : Bool
  late : Bool
  deriving DecidableEq, Repr

/-- An object move in progress (R253): `src` and `dest` are tiers (0 a source range, 1 slow, 2 far, 3 near), and `wrote`
the extents it has written to the slow tier. -/
structure ObjMove where
  id : BitVec 48
  slot : Nat
  up : Bool
  src : BitVec 3
  dest : BitVec 2
  srcAddr : Word
  dstAddr : Word
  create : Bool
  extents : Nat
  wrote : List Nat
  waiters : List Waiter
  deriving DecidableEq, Repr

/-- An evacuation in progress (R235, R236): the channel, the RETIRE class that it crossed, the granules still to copy,
and those already copied. -/
structure Evac where
  ch : ChanId
  cls : Nat
  left : Nat
  copied : List Nat
  deriving DecidableEq, Repr

/-! ### Fabric (chapter 10) -/

/-- FAB_STATE.STATE (R269). -/
inductive LinkSt where
  | down | training | up | failover | retired | refused
  deriving DecidableEq, Repr

/-- A flit as a link sends it (R265): its kind, SEQ, ACKV with ACK, credit return, and what its slots or its training
fields carry. -/
structure OutFlit where
  kind : BitVec 4
  seq : BitVec 12
  ackv : Bool
  ack : BitVec 12
  credit : Option (PartId × Fin 8 × Nat)
  msgs : List Msg
  train : Option TrainInfo
  deriving DecidableEq, Repr

/-- One fabric link (R263 to R277); `trained` says that flit training is complete and the link holds (R270); `returned` and
`ackDue` are credits to return and an ACK to send, and `acks` says that a DATA flit has been accepted since the link became
UP. -/
structure Link where
  st : LinkSt
  rcause : Byte
  medium : BitVec 2
  peerValid : Bool
  peer : TrainInfo
  flitOk : Bool
  trained : Bool
  retrains : BitVec 16
  failovers : BitVec 16
  retries : BitVec 32
  fecUnc : BitVec 32
  fecCorr : BitVec 32
  rx : BitVec 32
  tx : BitVec 32
  vValid : Bool
  vCause : BitVec 4
  vPart : BitVec 4
  vSrc : BitVec 18
  haspCred : Byte
  cred : Vector (Vector Byte 8) 16
  avail : Vector (Vector Byte 8) 16
  haspAvail : Byte
  nextSeq : BitVec 12
  expSeq : BitVec 12
  retry : List OutFlit
  replays : Nat
  outq : List Msg
  partSlots : List (BitVec 384)
  failover : Bool
  onPair : List (BitVec 12)
  failEvents : Nat
  retrainEvents : Nat
  lastBulk : Bool
  lastPart : Vector PartId 4
  returned : List (PartId × Fin 8 × Nat)
  acks : Bool
  ackDue : Bool
  deriving DecidableEq, Repr

/-- Who waits for the response to a remote request (R278): a thread, an operation, a lease table whose lease expired
(R334), or nobody, as for the FAIL words of R289. -/
inductive ReqOwner where
  | threadAcc (c : CoreId) (t : ThreadId)
  | threadStore (c : CoreId) (t : ThreadId)
  | op (c : CoreId) (ticket : BitVec 32)
  | lease (p : PartId) (slot : Fin 64)
  | posted
  deriving DecidableEq, Repr

/-- A remote request without its response (R278). -/
structure Req where
  tag : BitVec 16
  owner : ReqOwner
  deriving DecidableEq, Repr

/-! ### Transport (chapter 13) -/

/-- One Ethernet port (R338 to R344). -/
structure Eth where
  st : PortSt
  fecLock : Bool
  phy : BitVec 2
  mac : BitVec 48
  udpPort : BitVec 16
  bulkPcp : BitVec 3
  ctrlPcp : BitVec 3
  echo : Bool
  untagged : Bool
  vid : BitVec 12
  ip4Valid : Bool
  ip4 : BitVec 32
  ip6Hi : Word
  ip6Lo : Word
  tx : BitVec 32
  rx : BitVec 32
  dropHasp : BitVec 16
  dropCtrl : BitVec 16
  dropBulk : BitVec 16
  dropOther : BitVec 16
  pfcSent : BitVec 32
  pfcReceived : BitVec 32
  fecUnc : BitVec 32
  fecCorr : BitVec 32
  paused : Bool
  pausing : Bool
  events : Nat
  deriving DecidableEq, Repr

/-- An FCT frame the module handed to a port (R339, R344, R345): tagged with VID, to this MAC and IP address, with the DF bit
of an IPv4 packet and whether it has a UDP checksum. -/
structure Frame where
  port : PortId
  mac : BitVec 48
  vid : BitVec 12
  pcp : BitVec 3
  ip : IpAddr
  df : Bool
  checksum : Bool
  type : Byte
  sid : BitVec 32
  seq : Word
  ackc : Word
  ackb : Word
  payload : List Byte
  tag : BitVec 128
  deriving DecidableEq, Repr

/-- Any other frame the module handed to a port: the answers of R339 with what they say, and PFC for BULK (R343). -/
inductive EthFrame where
  | arpReply (port : PortId) (mac : BitVec 48) (ip4 : BitVec 32) (own : BitVec 48)
  | neighbourAdvert (port : PortId) (mac : BitVec 48) (ip6 : BitVec 128) (own : BitVec 48)
  | echoReply (port : PortId) (mac : BitVec 48) (src dst : IpAddr) (data : List Byte)
  | pfc (port : PortId) (pause : Bool)
  deriving DecidableEq, Repr

/-- FCT_SESSSTATE.STATE (R349). -/
inductive SessSt where
  | free | setup | openS | frozen
  deriving DecidableEq, Repr

/-- A notice (R361). -/
structure Notice where
  code : BitVec 16
  part : Byte
  unit : Byte
  id : Word
  detail : Word
  deriving DecidableEq, Repr

/-- One session (R346 to R350): `closeAfter` holds the commands that a CLOSE with FENCE waits for (R355), `aborted`
the transfer tags whose data are still to be discarded (R362), and `closeAck` the handle whose acknowledged record closes it (R414). -/
structure Session where
  st : SessSt
  sid : BitVec 32
  maint : Bool
  pmask : BitVec 16
  quota : Nat
  shasp : Bool
  keySlot : Fin 8
  anyKey : Bool
  hello : List Byte
  reply : List Byte
  h2m : BitVec 256
  m2h : BitVec 256
  shared : BitVec 256
  port : PortId
  mac : BitVec 48
  peer : IpAddr
  ctlIn : Word
  bulkIn : Word
  ctlNext : Word
  bulkNext : Word
  ctlOut : List (Word × List Byte)
  bulkOut : List (Word × List Byte)
  bulkWait : List (BitVec 32 × List Byte)
  tagFails : Nat
  haspSeq : Word
  haspLast : List Byte
  notices : List Notice
  dropped : BitVec 16
  closeDue : Bool
  closeAfter : List (BitVec 32)
  aborted : List (BitVec 32)
  closeAck : Option (BitVec 32)
  deriving DecidableEq, Repr

/-- A handle slot's state (R354). -/
inductive HandleSt where
  | free | issued | reported | orphan
  deriving DecidableEq, Repr

/-- A handle slot that is or was in use (R353, R354), with the core that its ISSUE names (R356). -/
structure HSlot where
  slot : BitVec 14
  gen : BitVec 18
  st : HandleSt
  sess : Fin 64
  status : Status
  seq : Word
  issueCore : Option Byte
  deriving DecidableEq, Repr

/-- A host command accepted and not complete (R352 to R356, R362): `atHold` marks one that arrived while a load held its
partition (R314), `deferred` a load that waited for another (R312, R389), and `behind` one that arrived while another was not
complete. -/
structure HCmd where
  handle : BitVec 32
  sess : Fin 64
  htag : BitVec 32
  opc : BitVec 16
  part : Byte
  fence : Bool
  args : List Byte
  xfer : Nat
  data : List Byte
  issued : Option (CoreId × BitVec 32)
  sentAll : Bool
  running : Bool
  waited : Bool
  atHold : Bool
  deferred : Bool
  behind : Bool
  deriving DecidableEq, Repr

/-! ### Image, ledger, security, power (chapters 11, 14, 15 and 16) -/

/-- ESP_STATUS.STATE (R313, R314). -/
inductive EspSt where
  | none | loaded | validating | holding | applying
  deriving DecidableEq, Repr

/-- An applied section (R296, R297, R318). -/
structure Section where
  kind : Byte
  part : Byte
  gen : BitVec 32
  hash : BitVec 256
  body : List Byte
  deriving DecidableEq, Repr

/-- A load in progress (R312 to R314): the host command's handle, the image, and the partitions it replaces and removes. -/
structure Load where
  handle : BitVec 32
  img : List Byte
  pmask : BitVec 16
  rmask : BitVec 16
  deriving DecidableEq, Repr

/-- A keyring entry (R403). -/
structure KeyEntry where
  pk : List Byte
  roles : BitVec 6
  valid : Bool
  revoked : Bool
  pmask : BitVec 16
  deriving DecidableEq, Repr

/-- A keyring (R403). -/
structure Keyring where
  version : BitVec 32
  entries : Vector KeyEntry 8
  bytes : List Byte
  deriving DecidableEq, Repr

/-- MOD_FNST state of a switchable function (R382). -/
inductive FnSt where
  | off | starting | on | stopping | retired
  deriving DecidableEq, Repr

/-- A switchable function (R381, R382): state, pending requests, queued requests, and its ledger preference. The
requests are the handles of the REG_WRITEs that made them. -/
structure Fn where
  st : FnSt
  queued : Bool
  pend : List (BitVec 32)
  qreqs : List (BitVec 32)
  pref : Bool
  deriving DecidableEq, Repr

/-- What a ledger slot copy holds (R392). -/
inductive SlotBody where
  | identity (macs : Vector (BitVec 48) 2) (cfg : Vector Word 2) (ip4 : Vector Word 2) (ip6 : Vector (Word × Word) 2)
      (rto idle : Word) (origin : Bool) (prefs : List Bool)
  | cores (act ret : List Bool) (subst : List (Bool × Byte × Byte)) (colmaps : List Word)
  | near (sts : List ChanSt) (pos : List ChanId) (intent : Option ChanId)
  | links (links : List LinkSt) (eth far : List PortSt) (dies : List (BitVec 16))
  | images (cur staged : BitVec 256) (layout retire : BitVec 32) (parts : Vector (BitVec 32) 16)
  | firmware (hash0 hash1 : BitVec 256) (current : Fin 2) (floor : BitVec 32)
  | security (cur : Option Keyring) (pending : Option Keyring)
  | counters (cause : BitVec 4) (events : List Nat) (wear : List (BitVec 16 × BitVec 16))
  | ftl (valid : Bool)
  | blocks (retired : List (BitVec 16)) (map : List (List (Fin 16 × Nat)))
  | poison (sectors : List Nat)
  | empty
  deriving DecidableEq, Repr

/-- A slot copy in a bank (R393). -/
structure SlotCopy where
  seq : Word
  valid : Bool
  body : SlotBody
  deriving DecidableEq, Repr

/-- A ledger bank (R392, R395). -/
structure LBank where
  failed : Bool
  slots : Vector SlotCopy 202
  deriving DecidableEq, Repr

/-- A firmware slot of the image store (R388, R390). -/
structure FwSlot where
  version : BitVec 32
  img : List Byte
  deriving DecidableEq, Repr

/-- What the power stage and the pins show (R424 to R429). -/
inductive RunSt where
  /-- No input, or not yet good. -/
  | off
  /-- A latched stop; the input is disconnected or held off (R428). -/
  | latched
  /-- RESET_N is low. -/
  | inReset
  /-- PWR_GOOD is released and RESET_N is high; start-up has not finished. -/
  | starting
  /-- Step 1 of start-up halted (R406). -/
  | halted
  /-- Command-ready (R438). -/
  | ready
  deriving DecidableEq, Repr

/-- The TIER, FAR and SLOW blocks, object moves and the slow tier (chapter 9). -/
structure TierUnit where
  bands : Vector Band 8
  nretMax : BitVec 4
  nretPos : List ChanId
  evac : Option Evac
  retireQueue : List (ChanId × Nat)
  objCount : BitVec 18
  objBase : LAddr
  dirtyBase : LAddr
  tumbCount : BitVec 18
  tumbBase : LAddr
  evacPct : BitVec 7
  slowRo : Bool
  slowFree : BitVec 32
  slowLost : Bool
  evValid : Bool
  evOvf : Bool
  evCause : BitVec 6
  evUnit : Byte
  evId : BitVec 48
  far : Vector FarPort 2
  farInterleave : Bool
  slow : Vector SlowChan 8
  scrubReads : BitVec 32
  maintPct : Byte
  spread : BitVec 16
  patrolLen : Word
  slowObjs : List SlowObj
  stripes : List Stripe
  stripeNext : Nat
  moves : List ObjMove
  deriving DecidableEq, Repr

/-- The fabric (chapter 10). -/
structure FabUnit where
  moduleId : BitVec 18
  links : Vector Link 24
  torus : Vector (BitVec 4) 6
  posValid : Bool
  origin : Bool
  sysHash : Word
  fabIn : List (LinkId × Msg)
  fabWait : List (PortId × Msg)
  fabSent : List (LinkId × OutFlit)
  reqs : List Req
  nextTag : BitVec 16
  frozenPairs : List (BitVec 18 × PartId)
  kvArrivals : List KvArrival
  kvSent : List KvArrival
  publishing : List (Nat × Nat)
  hidsSeen : List (BitVec 32)
  deriving DecidableEq, Repr

/-- The image store and the loads (chapter 11). -/
structure EspUnit where
  espSt : EspSt
  espLoads : BitVec 32
  sections : List Section
  espErrValid : Bool
  espErrOvf : Bool
  espErrCause : Byte
  espErrSection : Byte
  espErrOffset : BitVec 32
  layoutGen : BitVec 32
  retireGen : BitVec 32
  layoutFloor : BitVec 32
  retireFloor : BitVec 32
  partFloors : Vector (BitVec 32) 16
  imgCurrent : Option (List Byte)
  imgStaged : Option (List Byte)
  load : Option Load
  loadsWaiting : List (BitVec 32)
  thresholds : Vector (BitVec 32) 9
  deriving DecidableEq, Repr

/-- The Ethernet ports, sessions, handles and host commands (chapter 13). -/
structure FctUnit where
  eth : Vector Eth 2
  frames : List Frame
  otherFrames : List EthFrame
  rto : Word
  idle : Word
  granted : Nat
  authTagFail : BitVec 32
  authSetupFail : BitVec 32
  haspApplied : BitVec 16
  haspRefused : BitVec 16
  haspDropped : BitVec 16
  haspFabric : BitVec 16
  sessSel : BitVec 6
  sessions : Vector Session 64
  handles : List HSlot
  cmds : List HCmd
  deriving DecidableEq, Repr

/-- Health, the ledger, functions and firmware (chapter 14); `waitPkts` and `ledgerDue` hold the packets and ledger writes that wait for a takeover's end
(R380), `fwCtrls` the partition controllers still to load (R390), and `lent` the cores lent for a retired number and not
yet taken in (R331). -/
structure RepUnit where
  faultHeld : Bool
  failed : Bool
  pairStopped : Vector Bool 2
  takeover : Option PortId
  waitPkts : List Pkt
  ledgerDue : List (Fin 202)
  lent : List (CoreId × CoreId)
  ledgerFallback : Byte
  ledgerSeq : Word
  banks : Vector LBank 2
  fns : Vector Fn 32
  lrValid : Bool
  lrOvf : Bool
  lrClass : BitVec 4
  lrUnit : BitVec 16
  fwVersion : BitVec 32
  fwFloor : BitVec 32
  fwState : BitVec 2
  fwCtrls : List (BitVec 4)
  fwSlots : Vector FwSlot 2
  fwCurrent : Fin 2
  fwLoad : Option (BitVec 32)
  life : List Nat
  deriving DecidableEq, Repr

/-- Fuses, the keyring and debug (chapter 15). -/
structure SecUnit where
  ownerHash : BitVec 256
  ownerLock : Bool
  ringVer : Word
  dbgDisable : Bool
  keyring : Option Keyring
  keyPending : Option Keyring
  provisioning : Bool
  pcause : BitVec 2
  debug : Bool
  challenge : Option (BitVec 128)
  dbgUnit : BitVec 4
  dbgCtrl : BitVec 4
  dbgOffset : BitVec 24
  fwMeas : BitVec 256
  attests : BitVec 32
  dbgFail : BitVec 16
  rotFail : BitVec 16
  restartDue : Option (BitVec 32)
  deriving DecidableEq, Repr

/-- Power, pins, the governor and start-up (chapter 16). -/
structure PwrUnit where
  grade : BitVec 4
  run : RunSt
  pwrGood : Bool
  resetN : Bool
  holdN : Vector Bool 2
  latchedCause : Option (BitVec 4)
  thermN : Bool
  cap : Byte
  capRefused : Bool
  nearImgRate : Byte
  vin : BitVec 16
  pin : BitVec 16
  safe : Bool
  thermal : Bool
  nearRate : Byte
  nearStepping : Bool
  nearAccess : BitVec 5
  lowWindows : Nat
  sinceRaise : Nat
  inlet : BitVec 16
  die0 : BitVec 16
  die1 : BitVec 16
  govUp : BitVec 32
  govDown : BitVec 32
  startTime : BitVec 32
  startDropped : BitVec 16
  startFailed : BitVec 6
  startStep : BitVec 3
  shutting : Bool
  shutReqs : List (BitVec 32)
  lastStop : BitVec 4
  pctlMhz : BitVec 16
  mctlMhz : BitVec 16
  deriving DecidableEq, Repr

/-- The whole module. -/
structure State where
  /-- Commands that wait, first in, first out. -/
  pending : List Instr
  /-- The model's own counter that each free value advances (it is no state of the specification). -/
  free : Nat
  mem : List Host.Cell
  poison : List Nat
  cores : Vector Core 176
  act : Vector Bool 176
  ret : Vector Bool 176
  subst : Vector (Bool × Byte × Byte) 16
  coreGen : BitVec 32
  parts : Vector Part 16
  chans : Vector Chan 192
  tier : TierUnit
  fab : FabUnit
  esp : EspUnit
  fct : FctUnit
  rep : RepUnit
  sec : SecUnit
  pwr : PwrUnit
  deriving DecidableEq, Repr

/-! ### Reset (R9): every register at the value its table gives, and where the table says "from ledger", "per part",
"per core" or gives none, at the value that notes/assumptions/2.md names. -/

/-- A vector given by its entries. -/
def vtab {α : Type} {n : Nat} (f : Fin n → α) : Vector α n := ⟨((List.finRange n).map f).toArray, by simp⟩

def Thread.reset : Thread where
  st := .idle
  resetPend := false
  pc := 0
  fault := { valid := false, cause := 0, addr := 0 }
  pred := 1
  g := Vector.replicate 64 0
  stores := []
  held := none
  acc := none
  tissRd := 0
  tissAddr := 0
  tokTicket := 0
  tokRd := 0
  yielded := false
  coreHeld := false

def Bank.reset : Bank := { st := .free, ticket := 0, tile := 0, rerun := false, sums := [], sat := 0, pip := 0 }

def Core.reset (c : CoreId) : Core where
  threads := Vector.replicate 32 Thread.reset
  lastThread := 31
  ops := []
  tokens := Vector.replicate 128 { busy := false, bound := false, status := 0, ticket := 0 }
  next := 0
  completed := 0
  fenced := false
  latch := 0
  reg := { silicon := BitVec.ofNat 8 c.val, part := none, imgMhz := 200, freqMhz := 200, cyc := 0, elogValid := false,
           elogOvf := false, elogStatus := 0, elogTicket := 0,
           frzCore := false, frzClist := false, frzMlist := false, retiring := false, frzCause := 0, frzAddr := 0,
           frzTicket := 0, errEvents := 0 }
  arr := { prep := [], flight := [], banks := Vector.replicate 2 Bank.reset, lastBank := 0, carry := [], colmap := 0, failCols := 0,
           bcast := false, beats := 0, bubHold := 0, bubWtile := 0, bubFeed := 0, bubBcast := 0, perrValid := false,
           perrCol := 0, perrRow := 0, perrCount := 0, perrCols := [], passes := 0, trips := 0, reruns := 0, reseeds := 0,
           rngHealth := true, tpFetch := 0, tpTxb := 0 }
  sts := { stsGroup := 0xFF, stsSize := 0, stsIndex := 0, stsWork := 0, stsSlices := [], stsPins := [], driftValid := false,
           driftOvf := false, driftStream := 0, driftCount := 0, stsUnc := false, stsErrStream := 0, stsCorr := 0,
           stsCyc := 0 }
  kvc := { punnet := [], holds := [], flFull := 0, flRoom := 0, flOther := 0, flCopies := 0, kvUnc := false,
           kvErrSeq := 0, kvCorr := 0 }
  cnv := { elPasses := 0, elSectors := 0, cnvWait := 0, xRun := 0, xUp := 0xFF, xDown := 0xFF, xActive := false,
           cfValid := false, cfCore := 0, cfStatus := 0 }

def PartCfg.reset : PartCfg where
  ctrl := 0
  yields := false
  hingeEvery := 0
  share := 0
  budget := 0
  leaseMax := 0
  windows := []
  lookahead := 48
  policy := 0
  route := 1
  escSat := 0xFFFF
  escPip := 0xFFFF
  stsFirst := 0
  stsCount := 0
  stsBase := 0
  seqFirst := 0
  seqCount := 0
  seqBase := 0
  plistBase := 0
  capMax := 0
  pageKib := 0
  pgCount := 0
  pgBase := 0
  pgmetaBase := 0
  punnetSectors := 0
  tumbFirst := 0
  tumbCount := 0
  gen := 0
  nearBudget := 0
  farBudget := 0

def PartBound.reset : PartBound :=
  { stage := 0, late := false, list := 0, count := 0, listCore := none, entries := [], bundle := none, genDue := false,
    listErr := false, bRefused := 0, bAdmitted := 0, bEntries := 0, bundleRes := 0 }

def Lease.reset : Lease :=
  { used := false, expired := false, addr := 0, core := 0, thread := 0, n := 0, gen := 0 }

def Part.reset : Part where
  st := .absent
  steps := 0
  hinges := 0
  wdogValid := false
  wdogOvf := false
  wdogCount := 0
  wdogStep := 0
  overrun := false
  stMax := 0
  stLast := 0
  engine := 0
  leases := Vector.replicate 64 Lease.reset
  leExpired := 0
  waitLease := false
  cores := []
  kvFree := 0
  kvReserved := 0
  kvClaimed := 0
  nearCharge := 0
  farCharge := 0
  holdReq := false
  shortCores := []
  hid := 0
  src := 0
  cfg := PartCfg.reset
  bd := PartBound.reset

def Chan.reset : Chan where
  st := .off
  rate := 0
  retrains := 0
  retries := 0
  eccCorr := 0
  uncValid := false
  uncCount := 0
  uncAddr := 0
  poison := []
  tgRefused := false
  tgBusy := false
  tgStop := false
  tgReads := 1
  tgPasses := 1
  tgPattern := 0
  tgRows := 0
  tgFirst := 0
  tgErrors := 0
  tgChecked := 0
  tgFValid := false
  tgFRow := 0
  tgFSector := 0
  events := 0
  retrainEvents := 0

def Link.reset : Link where
  st := .down
  rcause := 0
  medium := 0
  peerValid := false
  peer := { link := 0, sizes := Vector.replicate 6 0, hash := 0, posValid := false, module := 0 }
  flitOk := false
  trained := false
  retrains := 0
  failovers := 0
  retries := 0
  fecUnc := 0
  fecCorr := 0
  rx := 0
  tx := 0
  vValid := false
  vCause := 0
  vPart := 0
  vSrc := 0
  haspCred := 16
  cred := Vector.replicate 16 (Vector.replicate 8 0)
  avail := Vector.replicate 16 (Vector.replicate 8 0)
  haspAvail := 16
  nextSeq := 0
  expSeq := 0
  retry := []
  replays := 0
  outq := []
  partSlots := []
  failover := false
  onPair := []
  failEvents := 0
  retrainEvents := 0
  lastBulk := false
  lastPart := Vector.replicate 4 15
  returned := []
  acks := false
  ackDue := false

def Eth.reset : Eth where
  st := .down
  fecLock := false
  phy := 0
  mac := 0
  udpPort := 51444
  bulkPcp := 3
  ctrlPcp := 5
  echo := false
  untagged := false
  vid := 0
  ip4Valid := false
  ip4 := 0
  ip6Hi := 0
  ip6Lo := 0
  tx := 0
  rx := 0
  dropHasp := 0
  dropCtrl := 0
  dropBulk := 0
  dropOther := 0
  pfcSent := 0
  pfcReceived := 0
  fecUnc := 0
  fecCorr := 0
  paused := false
  pausing := false
  events := 0

def Session.reset : Session where
  st := .free
  sid := 0
  maint := false
  pmask := 0
  quota := 0
  shasp := false
  keySlot := 0
  anyKey := false
  hello := []
  reply := []
  h2m := 0
  m2h := 0
  shared := 0
  port := 0
  mac := 0
  peer := .v4 0
  ctlIn := 1
  bulkIn := 1
  ctlNext := 1
  bulkNext := 1
  ctlOut := []
  bulkOut := []
  bulkWait := []
  tagFails := 0
  haspSeq := 0
  haspLast := []
  notices := []
  dropped := 0
  closeDue := false
  closeAfter := []
  aborted := []
  closeAck := none

def TierUnit.reset : TierUnit where
  bands := Vector.replicate 8 { valid := false, split := false, rows := 0, first := 0 }
  nretMax := 0
  nretPos := []
  evac := none
  retireQueue := []
  objCount := 0
  objBase := 0
  dirtyBase := 0
  tumbCount := 0
  tumbBase := 0
  evacPct := 25
  slowRo := false
  slowFree := 201326592
  slowLost := false
  evValid := false
  evOvf := false
  evCause := 0
  evUnit := 0
  evId := 0
  far := Vector.replicate 2 { st := .down, rate := 0, width := 0, cap := 0, errValid := false, poison := 0, events := 0,
                              replays := 0, retrains := 0 }
  farInterleave := false
  slow := Vector.replicate 8 { up := false, dies := 0xFFFF, lost := 0, rebuilds := 0, retired := 0, retries := 0,
                               wearMax := 0, wearMin := 0, progEvents := Vector.replicate 16 0,
                               parityEvents := Vector.replicate 16 0, blocks := [] }
  scrubReads := 0x100000
  maintPct := 10
  spread := 200
  patrolLen := 0
  slowObjs := []
  stripes := []
  stripeNext := 0
  moves := []

def FabUnit.reset : FabUnit where
  moduleId := 0
  links := Vector.replicate 24 Link.reset
  torus := Vector.replicate 6 1
  posValid := false
  origin := false
  sysHash := 0
  fabIn := []
  fabWait := []
  fabSent := []
  reqs := []
  nextTag := 0
  frozenPairs := []
  kvArrivals := []
  kvSent := []
  publishing := []
  hidsSeen := []

def EspUnit.reset : EspUnit where
  espSt := .none
  espLoads := 0
  sections := []
  espErrValid := false
  espErrOvf := false
  espErrCause := 0
  espErrSection := 0
  espErrOffset := 0
  layoutGen := 0
  retireGen := 0
  layoutFloor := 0
  retireFloor := 0
  partFloors := Vector.replicate 16 0
  imgCurrent := none
  imgStaged := none
  load := none
  loadsWaiting := []
  thresholds := Vector.replicate 9 0xFFFFFFFF

def FctUnit.reset : FctUnit where
  eth := Vector.replicate 2 Eth.reset
  frames := []
  otherFrames := []
  rto := 200000
  idle := 2000000000
  granted := 0
  authTagFail := 0
  authSetupFail := 0
  haspApplied := 0
  haspRefused := 0
  haspDropped := 0
  haspFabric := 0
  sessSel := 0
  sessions := Vector.replicate 64 Session.reset
  handles := []
  cmds := []

/-- A fresh module's spares: the last row of each die, numbers 80 to 87 and 168 to 175 (which cores are spares is
open: notes/assumptions/2.md). -/
def freshSpare (c : CoreId) : Bool := (80 ≤ c.val && c.val ≤ 87) || 168 ≤ c.val

/-- What each ledger slot of a module holds as it ships (R442; the channels in OFF are those that no retirement has
touched): the factory baseline (R394; notes/assumptions/2.md). -/
def factoryBody (n : Nat) : SlotBody :=
  match n with
  | 0 => .identity (Vector.replicate 2 0) (Vector.replicate 2 0x0000C8F400350000) (Vector.replicate 2 0)
      (Vector.replicate 2 (0, 0)) 200000 2000000000 false (List.replicate 32 true)
  | 1 => .cores ((List.finRange 176).map fun c => !freshSpare c) (List.replicate 176 false) (List.replicate 16 (false, 0, 0))
      (List.replicate 176 0)
  | 2 => .near (List.replicate 192 .off) [] none
  | 3 => .links (List.replicate 24 .down) [.down, .down] [.down, .down] (List.replicate 8 0xFFFF)
  | 4 => .images 0 0 0 0 (Vector.replicate 16 0)
  | 5 => .firmware 0 0 0 1
  | 6 => .security none none
  | 7 => .counters 15 [] []
  | 8 => .ftl true
  | 9 => .blocks (List.replicate 8 0) (List.replicate 8 [])
  | _ => .poison []

def RepUnit.reset : RepUnit where
  faultHeld := false
  failed := false
  pairStopped := Vector.replicate 2 false
  takeover := none
  waitPkts := []
  ledgerDue := []
  lent := []
  ledgerFallback := 0
  ledgerSeq := 1
  banks := #v[{ failed := false, slots := vtab fun n => { seq := 1, valid := true, body := factoryBody n.val } },
              { failed := false, slots := Vector.replicate 202 { seq := 0, valid := false, body := .empty } }]
  fns := Vector.replicate 32 { st := .off, queued := false, pend := [], qreqs := [], pref := true }
  lrValid := false
  lrOvf := false
  lrClass := 0
  lrUnit := 0
  fwVersion := 1
  fwFloor := 1
  fwState := 0
  fwCtrls := []
  fwSlots := Vector.replicate 2 { version := 0, img := [] }
  fwCurrent := 0
  fwLoad := none
  life := []

def SecUnit.reset : SecUnit where
  ownerHash := 0
  ownerLock := false
  ringVer := 0
  dbgDisable := false
  keyring := none
  keyPending := none
  provisioning := false
  pcause := 0
  debug := false
  challenge := none
  dbgUnit := 0
  dbgCtrl := 0
  dbgOffset := 0
  fwMeas := 0
  attests := 0
  dbgFail := 0
  rotFail := 0
  restartDue := none

def PwrUnit.reset : PwrUnit where
  grade := 1
  run := .starting
  pwrGood := true
  resetN := true
  holdN := Vector.replicate 2 true
  latchedCause := none
  thermN := true
  cap := 30
  capRefused := false
  nearImgRate := 32
  vin := 0
  pin := 0
  safe := false
  thermal := false
  nearRate := 32
  nearStepping := false
  nearAccess := 16
  lowWindows := 0
  sinceRaise := 16
  inlet := 0
  die0 := 0
  die1 := 0
  govUp := 0
  govDown := 0
  startTime := 0
  startDropped := 0
  startFailed := 0
  startStep := 0
  shutting := false
  shutReqs := []
  lastStop := 15
  pctlMhz := 500
  mctlMhz := 500

/-- The module right after RESET_N is released, before start-up (R9, R437). -/
def State.reset : State where
  pending := []
  free := 0
  mem := []
  poison := []
  cores := vtab Core.reset
  act := vtab fun c => !freshSpare c
  ret := Vector.replicate 176 false
  subst := Vector.replicate 16 (false, 0, 0)
  coreGen := 0
  parts := Vector.replicate 16 Part.reset
  chans := Vector.replicate 192 Chan.reset
  tier := TierUnit.reset
  fab := FabUnit.reset
  esp := EspUnit.reset
  fct := FctUnit.reset
  rep := RepUnit.reset
  sec := SecUnit.reset
  pwr := PwrUnit.reset

end Sys2Proof.Machine
end

