-- ==== Sys2Proof/Machine/Flags.lean ====
section
/-! DEFINITION. The completion statuses of R14, their combination under R15, and the fault causes of THR_FAULT. -/

namespace Sys2Proof.Machine

/-! ### Statuses (R14) -/

def stDone : Status := 0x0000
def stDeferred : Status := 0x0001
def stNotEvicted : Status := 0x0002
def stEmptyRows : Status := 0x0003
def stEscalated : Status := 0x0004
def stSuperseded : Status := 0x0005
def stStaleShard : Status := 0x0010
def stWeightLost : Status := 0x0011
def stAdmitRefused : Status := 0x0012
def stClaimFenced : Status := 0x0013
def stViolation : Status := 0x0020
def stBudget : Status := 0x0021
def stLeaseExpired : Status := 0x0022
def stAborted : Status := 0x0030
def stBadDesc : Status := 0x0040
def stBadImage : Status := 0x0041
def stAuthFailed : Status := 0x0042
def stRetired : Status := 0x0050

/-- A failure as a word in memory reports it; a code that is none of R14's failures is reported as RESOURCE_RETIRED, since
the module reports no code outside the table (DESIGN CHOICE, notes/assumptions/42.md). -/
def failStatus (v : Nat) : Status :=
  if [0x10, 0x11, 0x12, 0x13, 0x20, 0x21, 0x22, 0x30, 0x40, 0x41, 0x42, 0x50].contains v then BitVec.ofNat 16 v
  else stRetired

/-- A status of 0x0010 or above is failure (R14). -/
def isFailure (st : Status) : Bool := decide (0x10 ≤ st.toNat)

/-- The status reported when a further condition is met after the ones that gave `a`: the first failure stays, a
failure replaces a success, and of two successes the higher-numbered one counts (R15). -/
def combine (a b : Status) : Status :=
  if isFailure a then a else if isFailure b then b else if a.toNat ≤ b.toNat then b else a

/-! ### Causes of THR_FAULT and CORE_FREEZE -/

def cIllegal : Byte := 0x01
def cMisaligned : Byte := 0x02
def cAddress : Byte := 0x03
def cRegWidth : Byte := 0x04
def cAtomic : Byte := 0x05
def cPc : Byte := 0x06
def cUncorrectable : Byte := 0x07
def cUnreachable : Byte := 0x08
def cRetirement : Byte := 0x09

/-- Saturating addition on a field of n bits. -/
def satAdd {n : Nat} (a b : BitVec n) : BitVec n :=
  if 2 ^ n ≤ a.toNat + b.toNat then BitVec.allOnes n else a + b

/-- The conditions of CMP and CMPI on ra and its right operand (R37). -/
def cmpCond (fn : Nat) (a b : Word) : Option Bool :=
  match fn with
  | 0 => some (a == b)
  | 1 => some (a != b)
  | 2 => some (BitVec.slt a b)
  | 3 => some (BitVec.ult a b)
  | 4 => some (BitVec.sle a b)
  | 5 => some (BitVec.ule a b)
  | 6 => some ((a &&& b) != 0)
  | _ => none

/-- The logic of PLOG (R37). -/
def plogFn (fn : Nat) (a b : Bool) : Bool :=
  match fn with
  | 0 => a && b
  | 1 => a || b
  | 2 => xor a b
  | _ => a && !b

end Sys2Proof.Machine
end

