-- ==== Sys2Proof/Machine/Ops.lean ====
section
/-! DEFINITION. The operations the meanings share: fields of State, memory in its canonical form, the address map
(R22 to R27), access rights (R25, R306), places and poisoned sectors of the near tier (R231 to R237), notices and the
CONTROL stream (R346, R361), completion of host commands (R354, R358), and what freezes a master (R384). -/

namespace Sys2Proof.Machine

/-! ### Fields of State -/

def vget {α : Type} {n : Nat} (v : Vector α n) (i : Fin n) : α := v[i.val]

def vset {α : Type} {n : Nat} (v : Vector α n) (i : Fin n) (x : α) : Vector α n := v.set i.val x i.isLt

def vmod {α : Type} {n : Nat} (v : Vector α n) (i : Fin n) (f : α → α) : Vector α n := vset v i (f (vget v i))

/-- An element by a number that may be out of range. -/
def vat {α : Type} {n : Nat} (v : Vector α n) (i : Nat) : Option α := if h : i < n then some (vget v ⟨i, h⟩) else none

/-- A number as an index, if it is in range. -/
def toFin? (n i : Nat) : Option (Fin n) := if h : i < n then some ⟨i, h⟩ else none

def State.core (s : State) (c : CoreId) : Core := vget s.cores c

def State.setCore (s : State) (c : CoreId) (x : Core) : State := { s with cores := vset s.cores c x }

def State.modCore (s : State) (c : CoreId) (f : Core → Core) : State := s.setCore c (f (s.core c))

def State.thread (s : State) (c : CoreId) (t : ThreadId) : Thread := vget (s.core c).threads t

def State.setThread (s : State) (c : CoreId) (t : ThreadId) (x : Thread) : State :=
  s.modCore c fun k => { k with threads := vset k.threads t x }

def State.modThread (s : State) (c : CoreId) (t : ThreadId) (f : Thread → Thread) : State :=
  s.setThread c t (f (s.thread c t))

def State.modReg (s : State) (c : CoreId) (f : CoreRegs → CoreRegs) : State :=
  s.modCore c fun k => { k with reg := f k.reg }

def State.modArr (s : State) (c : CoreId) (f : ArrUnit → ArrUnit) : State :=
  s.modCore c fun k => { k with arr := f k.arr }

def State.modSts (s : State) (c : CoreId) (f : StsUnit → StsUnit) : State :=
  s.modCore c fun k => { k with sts := f k.sts }

def State.modKvc (s : State) (c : CoreId) (f : KvcUnit → KvcUnit) : State :=
  s.modCore c fun k => { k with kvc := f k.kvc }

def State.modCnv (s : State) (c : CoreId) (f : CnvUnit → CnvUnit) : State :=
  s.modCore c fun k => { k with cnv := f k.cnv }

def State.part (s : State) (p : PartId) : Part := vget s.parts p

def State.modPart (s : State) (p : PartId) (f : Part → Part) : State := { s with parts := vmod s.parts p f }

def State.modBound (s : State) (p : PartId) (f : PartBound → PartBound) : State :=
  s.modPart p fun x => { x with bd := f x.bd }

def State.chan (s : State) (c : ChanId) : Chan := vget s.chans c

def State.modChan (s : State) (c : ChanId) (f : Chan → Chan) : State := { s with chans := vmod s.chans c f }

def State.link (s : State) (l : LinkId) : Link := vget s.fab.links l

def State.modTier (s : State) (f : TierUnit → TierUnit) : State := { s with tier := f s.tier }

def State.modFab (s : State) (f : FabUnit → FabUnit) : State := { s with fab := f s.fab }

def State.modLink (s : State) (l : LinkId) (f : Link → Link) : State :=
  s.modFab fun x => { x with links := vmod x.links l f }

def State.modEsp (s : State) (f : EspUnit → EspUnit) : State := { s with esp := f s.esp }

def State.modFct (s : State) (f : FctUnit → FctUnit) : State := { s with fct := f s.fct }

def State.sess (s : State) (i : Fin 64) : Session := vget s.fct.sessions i

def State.modSess (s : State) (i : Fin 64) (f : Session → Session) : State :=
  s.modFct fun x => { x with sessions := vmod x.sessions i f }

def State.eth (s : State) (p : PortId) : Eth := vget s.fct.eth p

def State.modEth (s : State) (p : PortId) (f : Eth → Eth) : State := s.modFct fun x => { x with eth := vmod x.eth p f }

def State.modFar (s : State) (p : PortId) (f : FarPort → FarPort) : State :=
  s.modTier fun x => { x with far := vmod x.far p f }

def State.modRep (s : State) (f : RepUnit → RepUnit) : State := { s with rep := f s.rep }

def State.modSec (s : State) (f : SecUnit → SecUnit) : State := { s with sec := f s.sec }

def State.modPwr (s : State) (f : PwrUnit → PwrUnit) : State := { s with pwr := f s.pwr }

/-- The next free value of the run. -/
def State.fresh (s : State) : Word × State := (Config.free s.free, { s with free := s.free + 1 })

/-- Apply f to each element in turn. -/
def State.each {α : Type} (s : State) (xs : List α) (f : State → α → State) : State := xs.foldl f s

/-! ### Bytes and numbers (R6) -/

def leNat : List Byte → Nat
  | [] => 0
  | b :: r => b.toNat + 256 * leNat r

def leBytes : Nat → Nat → List Byte
  | 0, _ => []
  | n + 1, v => BitVec.ofNat 8 v :: leBytes n (v / 256)

/-- Bits [hi : lo] of a number. -/
def bitsOf (v hi lo : Nat) : Nat := v / 2 ^ lo % 2 ^ (hi - lo + 1)

def ofBool (b : Bool) : Nat := if b then 1 else 0

/-! ### Bases of the address map (R22) -/

def nearEnd : Nat := 0x4800000000
def farBase : Nat := 0x100000000000
def slotBase : Nat := 0x200000000000
def regBase : Nat := 0x300000000000
def coreRegBase : Nat := 0x300010000000

/-! ### Memory: a list of cells with rising addresses and no zero byte (INVENTORY.md, Memory and ordering) -/

/-- A byte of memory; an unlisted address reads zero (notes/assumptions/1.md). -/
def memGet : List Host.Cell → Nat → Byte
  | [], _ => 0
  | (k, v) :: r, a => if k = a then v else memGet r a

/-- A byte written, keeping the canonical form. -/
def memPut : List Host.Cell → Nat → Byte → List Host.Cell
  | [], a, b => if b = 0 then [] else [(a, b)]
  | (k, v) :: r, a, b =>
    if a < k then (if b = 0 then (k, v) :: r else (a, b) :: (k, v) :: r)
    else if a = k then (if b = 0 then r else (a, b) :: r)
    else (k, v) :: memPut r a b

def memPuts (m : List Host.Cell) (a : Nat) (bs : List Byte) : List Host.Cell :=
  match bs with
  | [] => m
  | b :: r => memPuts (memPut m a b) (a + 1) r

/-- Every address lies above `lo`, addresses rise, and no byte is the one an unlisted address reads as. -/
def memWfFrom (lo : Nat) : List Host.Cell → Bool
  | [] => true
  | (k, v) :: r => decide (lo ≤ k) && v != 0 && memWfFrom (k + 1) r

/-- The canonical form. -/
def Memory.wf (m : List Host.Cell) : Bool := memWfFrom 0 m

/-- Removal of every byte of a range. -/
def memClear (m : List Host.Cell) (a n : Nat) : List Host.Cell := m.filter fun c => c.1 < a || a + n ≤ c.1

/-- The address lies in a core's punnet, whose layout and bytes are not defined to masters (R23, R164). -/
def inPunnet (a : Nat) : Bool :=
  decide (slotBase ≤ a) && decide (a < regBase) && (a - slotBase) % 0x800000 / 0x20000 == 40

/-- A byte as a master or an engine reads it: memory's, or a free one in a punnet. -/
def State.rdB (s : State) (a : Nat) : Byte :=
  if inPunnet a then (Config.freeBytes s.free a).headD 0 else memGet s.mem a

def State.rd (s : State) (a n : Nat) : List Byte := (List.range n).map fun i => s.rdB (a + i)

def State.rdN (s : State) (a n : Nat) : Nat := leNat (s.rd a n)

/-- Bytes written by the module's own units to records, lists and metadata. -/
def State.put (s : State) (a : Nat) (bs : List Byte) : State := { s with mem := memPuts s.mem a bs }

def State.putN (s : State) (a n v : Nat) : State := s.put a (leBytes n v)

/-- Zeroing of a range (R314, R331). -/
def State.zero (s : State) (a n : Nat) : State := { s with mem := memClear s.mem a n }

/-! ### The address map (R22, R23, R26) -/

/-- The slot of core c (R22). -/
def slotOf (c : CoreId) : Nat := slotBase + c.val * 0x800000

/-- Channels retired with relocation, k (R233). -/
def State.nret (s : State) : Nat := s.tier.nretPos.length

/-- TIER_NEAR_TOP (R233). -/
def State.nearTop (s : State) : Nat := nearEnd - s.nret * 0x60000000

/-- FAR_SIZE (R240). -/
def State.farSize (s : State) : Nat :=
  let c0 := (vget s.tier.far 0).cap.toNat
  let c1 := (vget s.tier.far 1).cap.toNat
  min 0x40000000000 (if s.tier.farInterleave then 2 * min c0 c1 else c0 + c1)

/-- What a local address names (R22, R23, R26). -/
inductive Region where
  | near
  | far (off : Nat)
  | store (c : CoreId) (off : Nat)
  | sts (c : CoreId) (off : Nat)
  | punnet (c : CoreId)
  | txb (c : CoreId)
  | modReg (block off : Nat)
  | coreReg (c : CoreId) (u off : Nat)
  | unmapped
  deriving DecidableEq, Repr

/-- The module blocks that are mapped (R26). -/
def blockMapped (b : Nat) : Bool :=
  b ≤ 4 || (b = 8 || b = 9) || (0x10 ≤ b && b ≤ 0x20) || (b = 0x28 || b = 0x29) || (0x30 ≤ b && b ≤ 0x37) ||
  (0x100 ≤ b && b < 0x1C0) || (0x200 ≤ b && b < 0x218)

def regionOf (a : Nat) : Region :=
  if a < nearEnd then .near
  else if a < farBase then .unmapped
  else if a < farBase + 0x40000000000 then .far (a - farBase)
  else if a < slotBase then .unmapped
  else if a < regBase then
    match toFin? 176 ((a - slotBase) / 0x800000) with
    | none => .unmapped
    | some c =>
      let o := (a - slotBase) % 0x800000
      if o < 0x400000 then .store c o
      else if o < 0x500000 then .sts c (o - 0x400000)
      else if o < 0x520000 then .punnet c
      else if o < 0x530000 then .txb c
      else .unmapped
  else if a < coreRegBase then
    let b := (a - regBase) / 0x10000
    if blockMapped b then .modReg b ((a - regBase) % 0x10000) else .unmapped
  else
    match toFin? 176 ((a - coreRegBase) / 0x100000) with
    | none => .unmapped
    | some c =>
      let u := (a - coreRegBase) % 0x100000 / 0x10000
      if u < 8 then .coreReg c u (a % 0x10000) else .unmapped

/-- The number is active or redirected, and not that of a substitute (R20, R331). -/
def State.usable (s : State) (c : CoreId) : Bool :=
  let subs := s.subst.toList.filter fun e => e.1
  if subs.any fun e => e.2.1.toNat = c.val then true
  else vget s.act c && !(subs.any fun e => e.2.2.toNat = c.val)

/-- The partition that owns a core number. -/
def State.owner (s : State) (c : CoreId) : Option PartId := (s.core c).reg.part

/-- A core's slot or registers exist to masters: the number is usable (R25). -/
def State.coreHere (s : State) (c : CoreId) : Bool := s.usable c

/-! ### Access rights of a partition (R25, R306) -/

/-- A half-open range of local addresses. -/
abbrev Range := Nat × Nat

/-- The module areas: object table, dirty bitmaps and tumblers (R300). -/
def State.moduleRanges (s : State) : List Range :=
  [ (s.tier.objBase.toNat, s.tier.objBase.toNat + 128 * s.tier.objCount.toNat),
    (s.tier.dirtyBase.toNat, s.tier.dirtyBase.toNat + 2048 * s.tier.objCount.toNat),
    (s.tier.tumbBase.toNat, s.tier.tumbBase.toNat + 4096 * s.tier.tumbCount.toNat) ]

/-- The areas a partition's masters may read beside windows: its pools and the module areas (R300, R306, R307). -/
def State.readAreas (s : State) (p : PartId) : List Range :=
  let g := (s.part p).cfg
  [ (g.stsBase.toNat, g.stsBase.toNat + 128 * g.stsCount.toNat),
    (g.seqBase.toNat, g.seqBase.toNat + 128 * g.seqCount.toNat),
    (g.plistBase.toNat, g.plistBase.toNat + 4 * g.capMax.toNat * g.seqCount.toNat),
    (g.pgBase.toNat, g.pgBase.toNat + 1024 * g.pageKib.toNat * g.pgCount.toNat),
    (g.pgmetaBase.toNat, g.pgmetaBase.toNat + 16 * g.pgCount.toNat) ] ++ s.moduleRanges

/-- A window's range, cut at TIER_NEAR_TOP and FAR_SIZE (R25). -/
def State.windowRange (s : State) (w : Window) : Range :=
  let top := if w.base.toNat < nearEnd then s.nearTop else farBase + s.farSize
  (w.base.toNat, min top (w.base.toNat + w.size.toNat))

def State.windows (s : State) (p : PartId) (wr : Bool) : List Range :=
  ((s.part p).cfg.windows.filter fun w => !(wr && w.ro)).map s.windowRange

/-- The core slots of a partition: stores to the punnet and any access to the TXB are violations (R164, R213). -/
def State.slotRanges (s : State) (p : PartId) (wr : Bool) : List Range :=
  ((List.finRange 176).zip s.cores.toList).filterMap fun (c, k) =>
    if k.reg.part = some p && s.usable c then some (slotOf c, slotOf c + (if wr then 0x500000 else 0x520000)) else none

/-- Every range of memory a partition's masters may read or write. -/
def State.allowed (s : State) (p : PartId) (wr : Bool) : List Range :=
  s.windows p wr ++ (if wr then [] else s.readAreas p) ++ s.slotRanges p wr

/-- The end of the run of allowed bytes that starts at a. -/
def reach (rs : List Range) : Nat → Nat → Nat
  | 0, a => a
  | n + 1, a =>
    match rs.find? fun r => r.1 ≤ a && a < r.2 with
    | none => a
    | some r => reach rs n r.2

/-- The first address of [a, a + n) that no range holds. -/
def firstOutside (rs : List Range) (a n : Nat) : Option Nat :=
  let e := reach rs rs.length a
  if a + n ≤ e then none else some e

/-- The first address of [a, a + n) that some range holds. -/
def firstInside (rs : List Range) (a n : Nat) : Option Nat :=
  ((rs.filter fun r => r.1 < a + n && a < r.2 && r.1 < r.2).map fun r => max a r.1).min?

/-- The first address at which an access of partition p breaks R25; none if the access is allowed. A store into a module
area is a violation even where a window covers it (R247, R258, R300). -/
def State.violates (s : State) (p : PartId) (a n : Nat) (wr : Bool) : Option Nat :=
  if n = 0 then none
  else match firstOutside (s.allowed p wr) a n with
    | some x => some x
    | none => if wr then firstInside s.moduleRanges a n else none

def State.mayAccess (s : State) (p : PartId) (a n : Nat) (wr : Bool) : Bool := (s.violates p a n wr).isNone

/-- Byte-addressable space: the near-tier range, the far-tier window and the mapped part of a core slot (R43). -/
def byteSpace (a n : Nat) : Bool :=
  a + n ≤ nearEnd || (farBase ≤ a && a + n ≤ farBase + 0x40000000000) ||
  (slotBase ≤ a && a < slotBase + 176 * 0x800000 && (a - slotBase) % 0x800000 + n ≤ 0x530000)

def inNear (a n : Nat) : Bool := decide (a + n ≤ nearEnd)

/-- Core store of core c. -/
def inStore (c : CoreId) (a n : Nat) : Bool := decide (slotOf c ≤ a) && decide (a + n ≤ slotOf c + 0x400000)

/-- The near tier or the core store of c, where descriptors, records and bounds lie (R40, R51). -/
def inNearOrStore (c : CoreId) (a n : Nat) : Bool := inNear a n || inStore c a n

/-! ### Places of the near tier (R230, R231, R233) -/

def NR : Nat := 6291456

/-- The xor-fold of a row number (R231). -/
def rowHash (r : Nat) : Nat := (r % 256) ^^^ (r / 256 % 256) ^^^ (r / 65536 % 128)

/-- Home position and row of granule g among the bands (R231). -/
def bandPlace : List Band → Nat → Option (Nat × Nat)
  | [], _ => none
  | b :: rest, g =>
    let rows := b.rows.toNat
    let f := b.first.toNat
    if !b.valid then bandPlace rest g
    else if g < 192 * rows then
      if b.split then
        let d := g / (96 * rows)
        let h := g % (96 * rows)
        let r := f + h / 96
        some (96 * d + (h % 96 + rowHash r) % 96, r)
      else
        let r := f + g / 192
        some ((g % 192 + rowHash r) % 192, r)
    else bandPlace rest (g - 192 * rows)

/-- The home place of a near-tier address; with no image, one BOTH band over all rows (notes/assumptions/12.md). -/
def State.homePlace (s : State) (a : Nat) : Nat × Nat :=
  let g := a / 256
  match bandPlace s.tier.bands.toList g with
  | some x => x
  | none => ((g % 192 + rowHash (g / 192)) % 192, g / 192)

/-- The place after k retirements at the given positions, in retirement order (R233). -/
def relocate (pos : List ChanId) (q r : Nat) : Nat × Nat :=
  match (pos.map Fin.val).findIdx? fun x => decide (x = q) with
  | none => (q, r)
  | some j =>
    let k := pos.length
    let live := (List.range 192).filter fun x => !(pos.map Fin.val).contains x
    let L := j * (NR - 32768 * k) + r
    ((live[L % (192 - k)]?).getD 0, NR - 32768 * k + L / (192 - k))

/-- The place of a near-tier address; a granule whose evacuation copy is performed has its new one (R233, R236). -/
def State.placeOf (s : State) (a : Nat) : Nat × Nat :=
  let (q, r) := s.homePlace a
  let pos := match s.tier.evac with
    | some e => if e.copied.contains (a / 256) then s.tier.nretPos ++ [e.ch] else s.tier.nretPos
    | none => s.tier.nretPos
  relocate pos q r

/-- The channel that holds a near-tier address. -/
def State.chanOf (s : State) (a : Nat) : ChanId :=
  match toFin? 192 (s.placeOf a).1 with
  | some c => c
  | none => 0

/-- The far port of a far-window offset (R240). -/
def State.farPlace (s : State) (off : Nat) : PortId :=
  if s.tier.farInterleave then (if off / 4096 % 2 = 0 then 0 else 1)
  else if off < (vget s.tier.far 0).cap.toNat then 0 else 1

/-- The device address of a far-window offset on its port (R240). -/
def State.farDevice (s : State) (off : Nat) : Nat :=
  if s.tier.farInterleave then off / 8192 * 4096 + off % 4096
  else if off < (vget s.tier.far 0).cap.toNat then off else off - (vget s.tier.far 0).cap.toNat

/-- The far-window offset at which a device address of a port shows (R240). -/
def State.farOffset (s : State) (p : PortId) (dev : Nat) : Nat :=
  if s.tier.farInterleave then dev / 4096 * 8192 + p.val * 4096 + dev % 4096
  else if p = 0 then dev else (vget s.tier.far 0).cap.toNat + dev

/-- Where a byte of the far window that shows at address a in state s shows in state t, whose window mode differs: it stays
where it lies on its device (R240). None where no offset of the window reaches that place. -/
def State.farMoved (s t : State) (a : Nat) : Option Nat :=
  match regionOf a with
  | .far o =>
    let p := s.farPlace o
    let dev := s.farDevice o
    let new := t.farOffset p dev
    if t.farPlace new = p && decide (t.farDevice new = dev) && decide (new < 0x40000000000) then some (farBase + new) else none
  | _ => none

def isFarAddr (a : Nat) : Bool :=
  match regionOf a with
  | .far _ => true
  | _ => false

/-- The window mode changes: every far byte, and every poisoned far sector, stays where it lies on its device, and shows at
the offset that the new mode gives that place (R240). Bytes that no offset of the window reaches any more are gone
(notes/assumptions/12.md). -/
def State.setFarMode (s : State) (interleave : Bool) : State :=
  if s.tier.farInterleave = interleave then s
  else
    let t := s.modTier fun t => { t with farInterleave := interleave }
    let moved := s.mem.filterMap fun (x : Host.Cell) => (s.farMoved t x.1).map fun a => (a, x.2)
    { t with
      mem := moved.foldl (fun m x => memPut m x.1 x.2) (s.mem.filter fun x => !isFarAddr x.1)
      poison := (s.poison.filter fun x => !isFarAddr (x * 64)) ++
        s.poison.filterMap fun x => (s.farMoved t (x * 64)).map (· / 64) }

/-! ### Uncorrectable data (R229, R234, R237, R241) -/

/-- The sectors the state itself holds as poisoned. -/
def State.poisoned (s : State) : List Nat := s.poison ++ (s.chans.toList.map Chan.poison).flatten

/-- The address lies on a LOST channel or a far port that gives no data (R234, R241). -/
def State.deadAt (s : State) (a : Nat) : Bool :=
  match regionOf a with
  | .near => (s.chan (s.chanOf a)).st == .lost
  | .far o => let p := (vget s.tier.far (s.farPlace o)).st; p == .retired
  | _ => false

/-- Some channel is LOST or some far port is RETIRED. -/
def State.anyDead (s : State) : Bool :=
  s.chans.toList.any (fun c => c.st == .lost) || s.tier.far.toList.any (fun f => f.st == .retired)

/-- The first sector of [a, a + n) whose read is uncorrectable in this step: `bad` is what the memory reports. -/
def State.uncorrectable (s : State) (bad : BadSectors) (a n : Nat) : Option Nat :=
  if n = 0 then none else
  let lo := a / 64
  let hi := (a + n - 1) / 64
  let listed := (bad ++ s.poisoned).filter fun x => decide (lo ≤ x) && decide (x ≤ hi)
  let dead := if s.anyDead then ((List.range (hi - lo + 1)).find? fun i => s.deadAt ((lo + i) * 64)).map (lo + ·) else none
  match listed.min?, dead with
  | none, d => d
  | some x, none => some x
  | some x, some y => some (min x y)

def State.readable (s : State) (bad : BadSectors) (a n : Nat) : Bool := (s.uncorrectable bad a n).isNone

/-! ### Time counts and random choices -/

/-- A free number of elapsed cycles (R11, notes/assumptions/3.md). -/
def State.cycles (s : State) : Nat × State := let (v, s) := s.fresh; (v.toNat, s)

/-! ### The module's identity (R401) -/

/-- The first n bytes, the width that a standard or a layout gives them. -/
def sized (n : Nat) (bs : List Byte) : List Byte := (List.range n).map fun i => bs.getD i 0

/-- The ML-DSA-44 key pair of the module, from the seed that the key unit derives from UDS. -/
def identityKeys : List Byte × List Byte :=
  Config.mldsaKeyGen (leBytes 32 (Config.kmac256 Config.uds [] "FLQ8 identity").toNat)

def identityPk : List Byte := sized 1312 identityKeys.1

def identitySign (ctx : String) (msg : List Byte) : List Byte := sized 2420 (Config.mldsaSign identityKeys.2 ctx msg)

/-! ### Sessions, notices and the CONTROL stream (R344 to R347, R361) -/

def Session.isOpen (x : Session) : Bool := x.st == .openS || x.st == .frozen

/-- The session has the right to act for partition p (R350). -/
def Session.holds (x : Session) (p : PartId) : Bool := x.maint || x.pmask.getLsbD p.val

def pktHeader (type : Byte) (len : Nat) (sid : BitVec 32) (seq ackc ackb : Word) : List Byte :=
  [1, type] ++ leBytes 2 len ++ leBytes 4 sid.toNat ++ leBytes 8 seq.toNat ++ leBytes 8 ackc.toNat ++ leBytes 8 ackb.toNat

/-- An IPv4 packet; its DF bit is set (R339). -/
def isV4 : IpAddr → Bool
  | .v4 _ => true
  | .v6 _ => false

/-- Hand a frame of session i to the port its last valid packet came in on (R339, R341, R347). -/
def State.sendFrame (s : State) (i : Fin 64) (type : Byte) (pcp : BitVec 3) (seq : Word) (payload : List Byte) : State :=
  let x := s.sess i
  let setup := type = 2 || type = 5
  let hdr := pktHeader type payload.length x.sid seq (if setup then 0 else x.ctlIn) (if setup then 0 else x.bulkIn)
  let tag : BitVec 128 := if setup then 0 else Config.kmac128 x.m2h (hdr ++ payload) "FCT"
  let f : Frame := { port := x.port, mac := x.mac, vid := (s.eth x.port).vid, pcp := pcp, ip := x.peer,
                     df := isV4 x.peer, checksum := true, type := type, sid := x.sid, seq := seq,
                     ackc := if setup then 0 else x.ctlIn, ackb := if setup then 0 else x.bulkIn,
                     payload := payload, tag := tag }
  if (s.eth x.port).st == .up then
    (s.modFct fun u => { u with frames := u.frames ++ [f] }).modEth x.port fun e => { e with tx := e.tx + 1 }
  else s

/-- The windows of the module's streams (R346). -/
def ctlWindow : Nat := 256
def bulkWindow : Nat := 2048

/-- Queue entries as the next CONTROL packet of session i, and send it if the window lets it (R346). -/
def State.queueControl (s : State) (i : Fin 64) (entry : List Byte) : State :=
  let x := s.sess i
  let s' := s.modSess i fun x => { x with ctlOut := x.ctlOut ++ [(x.ctlNext, entry)], ctlNext := x.ctlNext + 1 }
  if x.ctlOut.length < ctlWindow then s'.sendFrame i 0x10 ((s.eth x.port).ctrlPcp) x.ctlNext entry else s'

def noticeBytes (n : Notice) (dropped : BitVec 16) : List Byte :=
  leBytes 2 n.code.toNat ++ [n.part, n.unit] ++ leBytes 2 dropped.toNat ++ [0, 0] ++ leBytes 8 n.id.toNat ++
  leBytes 8 n.detail.toNat ++ leBytes 8 0

/-- Give one session a notice; at 256 undelivered ones it is dropped and counted (R361). -/
def State.noticeTo (s : State) (i : Fin 64) (n : Notice) : State :=
  let x := s.sess i
  if 256 ≤ x.notices.length then s.modSess i fun x => { x with dropped := x.dropped + 1 }
  else
    (s.modSess i fun x => { x with notices := x.notices ++ [n], dropped := 0 }).queueControl i
      ([4, 0] ++ leBytes 2 36 ++ noticeBytes n x.dropped)

/-- The sessions a notice of PART p goes to (R361). -/
def Session.hears (x : Session) (part : Byte) : Bool :=
  if part = 0xFF then x.st == .openS
  else (x.st == .openS && x.pmask.getLsbD part.toNat) || (x.isOpen && x.maint)

/-- Send a notice to every session concerned (R361). -/
def State.notify (s : State) (n : Notice) : State :=
  s.each (List.finRange 64) fun s i => if (s.sess i).hears n.part then s.noticeTo i n else s

def nRetired : BitVec 16 := 1
def nPoisoned : BitVec 16 := 2
def nLinkRefused : BitVec 16 := 3
def nOverrun : BitVec 16 := 4
def nFrozen : BitVec 16 := 5
def nHasp : BitVec 16 := 6
def nImage : BitVec 16 := 7

def partByte (p : Option PartId) : Byte :=
  match p with
  | some p => BitVec.ofNat 8 p.val
  | none => 0xFF

/-- FROZEN notice (R361, R384): detail 0 thread, 1 core, 2 engine, 3 session, 4 remote module. -/
def State.noticeFrozen (s : State) (part : Byte) (detail id : Nat) : State :=
  s.notify { code := nFrozen, part := part, unit := 0, id := BitVec.ofNat 64 id, detail := BitVec.ofNat 64 detail }

/-! ### The health ledger (R392, R393, R395) -/

/-- ETH_CFG and ETH_IP4 as their registers show them. -/
def Eth.cfgWord (e : Eth) : Nat :=
  e.udpPort.toNat * 2 ^ 32 + e.bulkPcp.toNat * 2 ^ 20 + e.ctrlPcp.toNat * 2 ^ 16 + ofBool e.echo * 2 ^ 13 +
  ofBool e.untagged * 2 ^ 12 + e.vid.toNat

def Eth.ip4Word (e : Eth) : Nat := ofBool e.ip4Valid * 2 ^ 32 + e.ip4.toNat

/-- The hash by which the ledger knows a slot of the image store; zero for an empty one (R316, R392). -/
def storeHash (img : Option (List Byte)) : BitVec 256 :=
  match img with
  | some b => Config.sha3 b
  | none => 0

/-- Lifetime event counts, of the near-tier channels, the fabric links, the Ethernet ports and the NAND dies, as the ledger
knows them from before the last start and with what has happened since (R392). -/
def State.lifetime (s : State) : List Nat :=
  let now := (s.chans.toList.flatMap fun c => [c.retrainEvents, c.events]) ++
    (s.fab.links.toList.flatMap fun k => [k.retrainEvents, k.failEvents]) ++ s.fct.eth.toList.map Eth.events ++
    (s.tier.slow.toList.flatMap fun x => x.progEvents.toList ++ x.parityEvents.toList)
  now.zipIdx.map fun x => x.1 + s.rep.life.getD x.2 0

/-- The erase-count summary of the COUNTERS slot (R392). -/
def State.wear (s : State) : List (BitVec 16 × BitVec 16) := s.tier.slow.toList.map fun x => (x.wearMax, x.wearMin)

/-- The retired-block map of a channel (R392). -/
def SlowChan.retiredMap (x : SlowChan) : List (Fin 16 × Nat) :=
  (x.blocks.filter FlashBlock.retired).map fun b => (b.die, b.num)

/-- What an update of a slot writes: the module's present state (R392). -/
def State.slotBody (s : State) (n : Nat) : SlotBody :=
  match n with
  | 0 => .identity (s.fct.eth.map Eth.mac) (s.fct.eth.map fun e => BitVec.ofNat 64 e.cfgWord)
      (s.fct.eth.map fun e => BitVec.ofNat 64 e.ip4Word) (s.fct.eth.map fun e => (e.ip6Hi, e.ip6Lo)) s.fct.rto s.fct.idle
      s.fab.origin (s.rep.fns.toList.map Fn.pref)
  | 1 => .cores s.act.toList s.ret.toList s.subst.toList (s.cores.toList.map fun k => k.arr.colmap)
  | 2 => .near (s.chans.toList.map Chan.st) s.tier.nretPos (s.tier.evac.map Evac.ch)
  | 3 => .links (s.fab.links.toList.map Link.st) (s.fct.eth.toList.map Eth.st) (s.tier.far.toList.map FarPort.st)
      (s.tier.slow.toList.map SlowChan.dies)
  | 4 => .images (storeHash s.esp.imgCurrent) (storeHash s.esp.imgStaged) s.esp.layoutFloor s.esp.retireFloor s.esp.partFloors
  | 5 => .firmware (storeHash (some (vget s.rep.fwSlots 0).img)) (storeHash (some (vget s.rep.fwSlots 1).img)) s.rep.fwCurrent
      s.rep.fwFloor
  | 6 => .security s.sec.keyring s.sec.keyPending
  | 7 => .counters s.pwr.lastStop s.lifetime s.wear
  | 8 => .ftl (!s.tier.slowLost)
  | 9 => .blocks (s.tier.slow.toList.map SlowChan.retired) (s.tier.slow.toList.map SlowChan.retiredMap)
  | _ => .poison (match vat s.chans (n - 10) with
      | some c => c.poison
      | none => [])

/-- SEQ of a copy as the choice of bank compares it: an invalid copy is lowest. -/
def SlotCopy.rank (c : SlotCopy) : Nat := if c.valid then c.seq.toNat + 1 else 0

/-- The bank that takes an update of a slot: the one with the lower SEQ, bank 0 on a tie, or the one that works. -/
def State.bankFor (s : State) (n : Fin 202) : Option PortId :=
  let b (i : PortId) : LBank := vget s.rep.banks i
  match (b 0).failed, (b 1).failed with
  | true, true => none
  | true, false => some 1
  | false, true => some 0
  | false, false => some (if (vget (b 1).slots n).rank < (vget (b 0).slots n).rank then 1 else 0)

/-- A slot copy is written in a bank with the next SEQ. -/
def State.putSlot (s : State) (b : PortId) (n : Fin 202) (valid : Bool) (body : SlotBody) : State :=
  s.modRep fun r =>
    { r with ledgerSeq := r.ledgerSeq + 1,
             banks := vmod r.banks b fun k =>
               { k with slots := vset k.slots n { seq := r.ledgerSeq + 1, valid := valid, body := body } } }

/-- The module records its present state in a slot (R374, R393); during a takeover the write waits (R380). -/
def State.ledger (s : State) (n : Fin 202) : State :=
  if s.rep.takeover.isSome then
    s.modRep fun r => { r with ledgerDue := if r.ledgerDue.contains n then r.ledgerDue else r.ledgerDue ++ [n] }
  else match s.bankFor n with
  | some b => s.putSlot b n true (s.slotBody n.val)
  | none => s

/-- The slot that holds a retirement of a class (R374, R392). -/
def State.ledgerClass (s : State) (cls : Nat) : State :=
  if cls ≤ 1 then s.ledger 2 else if cls = 6 || cls = 7 then s.ledger 1 else if cls ≤ 9 then s.ledger 3 else s

/-! ### Writes of masters, engines and the module (R234, R237, R241, R249) -/

/-- The POISON tables in the ledger follow those of the channels (R237): the slot of each channel whose table is not the one
it had in `old` is written. -/
def State.ledgerPoison (s : State) (old : State) : State :=
  s.each (List.finRange 192) fun s c =>
    if (s.chan c).poison = (old.chan c).poison then s
    else match toFin? 202 (c.val + 10) with
      | some n => s.ledger n
      | none => s

/-- The channels' poison tables and the list of other poisoned sectors keep the sectors that satisfy p. -/
def State.filterPoison (s : State) (p : Nat → Bool) : State :=
  { s with poison := s.poison.filter p, chans := s.chans.map fun c => { c with poison := c.poison.filter p } }

/-- Poison-table entries whose 64 bytes a write covers leave their table (R237). -/
def State.clearPoison (s : State) (a n : Nat) : State :=
  if s.poisoned.isEmpty then s
  else (s.filterPoison fun x => !(decide (a ≤ x * 64) && decide (x * 64 + 64 ≤ a + n))).ledgerPoison s

/-- No sector is poisoned, and none lies on a LOST channel or a retired port. -/
def State.allSound (s : State) : Bool := s.poisoned.isEmpty && !s.anyDead

/-- A write to this byte is discarded (R234, R237, R241). -/
def State.discards (s : State) (a : Nat) : Bool := s.poisoned.contains (a / 64) || s.deadAt a

/-- A write as memory takes it: bytes of a sector that stays poisoned, of a LOST channel or of a retired port are
discarded. -/
def State.write (s : State) (a : Nat) (bs : List Byte) : State :=
  let s := s.clearPoison a bs.length
  if s.allSound then s.put a bs
  else s.each bs.zipIdx fun s x => if s.discards (a + x.2) then s else s.put (a + x.2) [x.1]

def State.writeN (s : State) (a n v : Nat) : State := s.write a (leBytes n v)

/-- n bytes written with zeros. -/
def State.wipe (s : State) (a n : Nat) : State :=
  let s := s.clearPoison a n
  if s.allSound then s.zero a n
  else s.each (List.range n) fun s i => if s.discards (a + i) then s else s.put (a + i) [0]

/-! ### Objects that hold an address (R247 to R249) -/

def State.objRec (s : State) (slot : Nat) : Nat := s.tier.objBase.toNat + 128 * slot

def State.objState (s : State) (slot : Nat) : Nat := (s.rdB (s.objRec slot + 6)).toNat % 8

def noAddr : Nat := 0xFFFFFFFFFFFFFFFF

/-- The address and length of the resident copy of an object, if it has one. -/
def State.objCopy (s : State) (slot : Nat) : Option (Nat × Nat) :=
  let r := s.objRec slot
  let n := s.rdN (r + 8) 4 * 65536
  let near := s.rdN (r + 16) 8
  let far := s.rdN (r + 24) 8
  if s.objState slot = 0 then none
  else if near ≠ noAddr then some (near, n)
  else if far ≠ noAddr then some (far, n)
  else none

/-- Mark extent e of the object in a slot dirty, counting it once (R249). -/
def State.setDirty (s : State) (slot e : Nat) : State :=
  let a := s.tier.dirtyBase.toNat + 2048 * slot + e / 8
  let b := (s.rdB a).toNat
  if b / 2 ^ (e % 8) % 2 = 1 then s
  else
    let r := s.objRec slot
    (s.writeN a 1 (b + 2 ^ (e % 8))).writeN (r + 32) 4 (s.rdN (r + 32) 4 + 1)

/-- Dirty bits of every extent that [a, a + n) touches in a resident copy (R249). -/
def State.markDirty (s : State) (a n : Nat) : State :=
  if n = 0 then s else
  s.each (List.range s.tier.objCount.toNat) fun s slot =>
    match s.objCopy slot with
    | none => s
    | some (b, len) =>
      let lo := max a b
      let hi := min (a + n) (b + len)
      if hi ≤ lo then s
      else s.each ((List.range ((hi - 1 - b) / 65536 - (lo - b) / 65536 + 1)).map (· + (lo - b) / 65536)) fun s e =>
        s.setDirty slot e

/-- A write of a master or an engine: memory takes it, and dirty bits are set (R249). -/
def State.store (s : State) (a : Nat) (bs : List Byte) : State := (s.write a bs).markDirty a bs.length

def State.storeN (s : State) (a n v : Nat) : State := s.store a (leBytes n v)

/-! ### FAULT_N, retirements and the TIER_EVENT latch (R374, R396) -/

/-- A partition is short of a number for which no core has been lent (R378, R396). -/
def State.shortPart (s : State) : Bool :=
  s.parts.toList.any fun p => p.shortCores.any fun c => !(s.rep.lent.any fun x => x.2 = c)

/-- A condition of R396 holds. -/
def State.faultCond (s : State) : Bool :=
  s.chans.toList.any (fun c => c.st == .lost) || s.tier.slowRo || s.tier.slowLost ||
  s.fct.eth.toList.all (fun e => e.st == .retired) || s.rep.pairStopped.toList.any id ||
  s.rep.banks.toList.any (fun b => b.failed) || s.rep.ledgerFallback != 0 || s.shortPart || s.rep.failed

/-- FAULT_N stays asserted until RESET_N once a condition of R396 has held. -/
def State.latchFault (s : State) : State := if s.faultCond then s.modRep fun r => { r with faultHeld := true } else s

/-- The ledger record, MOD_LASTRET, the RETIRED notice and FAULT_N of a retirement (R374). -/
def State.noteRetired (s : State) (part : Byte) (cls : Nat) (unit : Nat) (id : Nat) : State :=
  let s := (s.ledgerClass cls).modRep fun r =>
    if r.lrValid then { r with lrOvf := true }
    else { r with lrValid := true, lrClass := BitVec.ofNat 4 cls, lrUnit := BitVec.ofNat 16 unit }
  (s.notify { code := nRetired, part := part, unit := BitVec.ofNat 8 cls, id := BitVec.ofNat 64 id, detail := 0 }).latchFault

/-- The TIER_EVENT latch. -/
def State.tierEvent (s : State) (cause unit id : Nat) : State :=
  s.modTier fun t =>
    if t.evValid then { t with evOvf := true }
    else { t with evValid := true, evCause := BitVec.ofNat 6 cause, evUnit := BitVec.ofNat 8 unit,
                  evId := BitVec.ofNat 48 id }

/-- Whether the n-th event of a resource of a class crosses the image's threshold: COUNT is reached, and the events
lie within the window, which with COUNT above 1 only the clock could say, so a free bit says it (R303, R373). -/
def State.crosses (s : State) (cls n : Nat) : Bool × State :=
  let cnt := ((vat s.esp.thresholds cls).getD 0xFFFFFFFF).toNat
  if cnt = 0xFFFFFFFF || n < cnt then (false, s)
  else if cnt = 1 then (true, s)
  else let (v, s) := s.fresh; (v.getLsbD 0, s)

/-! ### Near-tier retirement (R234, R235) -/

/-- A channel that serves or is being evacuated. -/
def Chan.serves (x : Chan) : Bool := x.st == .serving || x.st == .evacuating

/-- Start the evacuation of a channel (R235, step 1): its own mapped granules and every granule already relocated. -/
def State.startEvac (s : State) (ch : ChanId) (cls : Nat) : State :=
  let k := s.nret
  ((s.modChan ch fun c => { c with st := .evacuating }).modTier fun t =>
    { t with evac := some { ch := ch, cls := cls, left := (k + 1) * (NR - 32768 * (k + 1)), copied := [] } }).ledger 2

/-- The event "retirement threshold crossed" of a channel, by a RETIRE class (R234). With k = MAX the channel is LOST. -/
def State.crossChan (s : State) (ch : ChanId) (cls : Nat) : State :=
  let t := s.tier
  if (s.chan ch).st != .serving then s
  else if t.evac.isSome then
    if t.retireQueue.any fun x => x.1 = ch then s
    else s.modTier fun t => { t with retireQueue := t.retireQueue ++ [(ch, cls)] }
  else if s.nret < t.nretMax.toNat then s.startEvac ch cls
  else ((s.modChan ch fun c => { c with st := .lost }).ledger 2).latchFault

/-- Queued retirements are judged in order, until one of them starts (R234, R235 step 5): at k = MAX each channel that waits
is LOST. -/
def State.nextRetirement (s : State) : List (ChanId × Nat) → State
  | [] => s.modTier fun t => { t with retireQueue := [] }
  | x :: rest =>
    let s := s.crossChan x.1 x.2
    if s.tier.evac.isSome then s.modTier fun t => { t with retireQueue := rest } else s.nextRetirement rest

/-- What an uncorrectable access to sector x leaves in the registers of its channel, port or store, with a crossing of
its threshold (R228, R234, R241, R303). -/
def State.noteUncorrectable (s : State) (x : Nat) : State :=
  match regionOf (x * 64) with
  | .near =>
    let ch := s.chanOf (x * 64)
    let s := s.modChan ch fun c =>
      { c with uncValid := true, uncAddr := if c.uncValid then c.uncAddr else BitVec.ofNat 46 (x * 64),
               uncCount := satAdd c.uncCount 1, events := c.events + 1 }
    let (x, s) := s.crosses 1 (s.chan ch).events
    if x then s.crossChan ch 1 else s
  | .far o => s.modFar (s.farPlace o) fun f => { f with errValid := true, poison := satAdd f.poison 1 }
  | .store c _ => s.modReg c fun r => { r with errEvents := r.errEvents + 1 }
  | .sts c _ => s.modReg c fun r => { r with errEvents := r.errEvents + 1 }
  | .punnet c => s.modReg c fun r => { r with errEvents := r.errEvents + 1 }
  | _ => s

/-! ### Freezing a thread, an engine and a session (R31, R384) -/

def threadName (c : CoreId) (t : ThreadId) : Nat := c.val * 256 + t.val

/-- A violation by a thread: FROZEN with THR_FAULT, a pending reset cancelled, the partition told (R31). -/
def State.freezeThread (s : State) (c : CoreId) (t : ThreadId) (cause : Byte) (addr : Nat) : State :=
  (s.modThread c t fun x =>
    { x with st := .frozen, resetPend := false, acc := none, held := none,
             fault := { valid := true, cause := cause, addr := BitVec.ofNat 46 addr } }).noticeFrozen
    (partByte (s.owner c)) 0 (threadName c t)

def State.modOp (s : State) (c : CoreId) (ticket : BitVec 32) (f : Op → Op) : State :=
  s.modCore c fun k => { k with ops := k.ops.map fun o => if o.ticket = ticket then f o else o }

def State.findOp (s : State) (c : CoreId) (ticket : BitVec 32) : Option Op := (s.core c).ops.find? fun o => o.ticket = ticket

/-- A violation by an operation: its list is frozen and the operation is held in its slot (R384). -/
def State.freezeEngine (s : State) (c : CoreId) (o : Op) (cause : Byte) (addr : Nat) : State :=
  let s := s.modReg c fun r =>
    { r with frzClist := r.frzClist || !o.move, frzMlist := r.frzMlist || o.move, frzCause := cause,
             frzAddr := BitVec.ofNat 46 addr, frzTicket := o.ticket }
  (s.modOp c o.ticket fun o => { o with phase := .heldBy }).noticeFrozen (partByte (s.owner c)) 2 (threadName c 0)

/-- A violation by a session (R349, R357): FROZEN, with a notice to each partition of the command's PART. -/
def State.freezeSession (s : State) (i : Fin 64) (part : Byte) : State :=
  let sid := (s.sess i).sid.toNat
  (s.modSess i fun x => if x.st == .openS then { x with st := .frozen } else x).noticeFrozen part 3 sid

/-! ### Completion of operations: what finishes one (R49 is OP_COMPLETE's) -/

/-- A collective that ran keeps its work, since its failure is written to its successor (R289), and so does work whose
passes and drains may still be under way (R86, R87). -/
def Work.kept : Work → Work
  | .coll w => .coll w
  | .array a => .array a
  | .fused f a => .fused f a
  | _ => .none

/-- The operation's status and result words are known; OP_COMPLETE completes it. -/
def State.finish (s : State) (c : CoreId) (ticket : BitVec 32) (st : Status) (result : BitVec 128) : State :=
  s.modOp c ticket fun o =>
    { o with phase := .finished st, result := result, work := o.work.kept, tags := [], xfers := [] }

/-- Success statuses gathered so far (R15). -/
def State.addSuccess (s : State) (c : CoreId) (ticket : BitVec 32) (st : Status) : State :=
  s.modOp c ticket fun o => { o with success := combine o.success st }

/-- A result of up to sixteen bytes, byte 8 of the record first. -/
def resultOf (bs : List Byte) : BitVec 128 := BitVec.ofNat 128 (leNat bs)

/-- Two 32-bit and one 64-bit result words at bytes 8, 12 and 16 of the record. -/
def result3 (w0 w1 w2 : Nat) : BitVec 128 := resultOf (leBytes 4 w0 ++ leBytes 4 w1 ++ leBytes 8 w2)

/-- The 32-byte completion record of R358. -/
def recordBytes (handle : BitVec 32) (st : Status) (part : Byte) (flags : Nat) (result : BitVec 128) (cyc : Nat) :
    List Byte :=
  leBytes 4 handle.toNat ++ leBytes 2 st.toNat ++ [part, BitVec.ofNat 8 flags] ++ leBytes 16 result.toNat ++ leBytes 8 cyc

/-! ### Host commands (R353, R354, R358) -/

def State.findCmd (s : State) (h : BitVec 32) : Option HCmd := s.fct.cmds.find? fun c => c.handle = h

def State.modCmd (s : State) (h : BitVec 32) (f : HCmd → HCmd) : State :=
  s.modFct fun u => { u with cmds := u.cmds.map fun c => if c.handle = h then f c else c }

def HSlot.handle (x : HSlot) : BitVec 32 := x.gen ++ x.slot

def State.findSlot (s : State) (h : BitVec 32) : Option HSlot := s.fct.handles.find? fun x => x.handle = h

/-- GEN + 1, skipping 0 (R354). -/
def nextGen (g : BitVec 18) : BitVec 18 := if g + 1 = 0 then 1 else g + 1

def State.modSlot (s : State) (h : BitVec 32) (f : HSlot → HSlot) : State :=
  s.modFct fun u => { u with handles := u.handles.map fun x => if x.handle = h then f x else x }

/-- The bytes of data that a command takes from the host: WRITE, the loads, and the security commands that carry data
(R352, R420). -/
def HCmd.wants (c : HCmd) : Nat :=
  let o := c.opc.toNat
  if o = 0x20 then leNat ((c.args.drop 24).take 8)
  else if o = 0x30 || o = 0x31 || (0x63 ≤ o && o ≤ 0x65) || o = 0x67 then leNat ((c.args.drop 12).take 4)
  else 0

/-- A command completes: its record is queued on its session's CONTROL stream, or discarded for an orphan (R354). What
is still to come of its data is to be discarded (R362). -/
def State.completeCmd (s : State) (h : BitVec 32) (st : Status) (flags : Nat) (result : BitVec 128) (cyc : Nat) : State :=
  match s.findCmd h, s.findSlot h with
  | some c, some x =>
    let s := s.modFct fun u => { u with cmds := u.cmds.filter fun c => c.handle ≠ h }
    let s := if c.xfer < c.wants && x.st == .issued then
        s.modSess c.sess fun y => { y with aborted := y.aborted ++ [c.htag] } else s
    match x.st with
    | .issued =>
      let rec32 := recordBytes h st c.part flags result cyc
      let s := s.modSlot h fun y => { y with st := .reported, status := st, seq := (s.sess c.sess).ctlNext }
      s.queueControl c.sess ([3, 0] ++ leBytes 2 36 ++ rec32)
    | .orphan =>
      (s.modSlot h fun y => { y with st := .free, gen := nextGen y.gen }).modFct fun u => { u with granted := u.granted - 1 }
    | _ => s
  | _, _ => s

/-- FLAGS of a command that the module or a partition controller performs without a core operation (R358). -/
def cmdFlags (c : HCmd) : Nat := 1 + (if c.waited then 4 else 0)

/-- Completion of a command with no engine cycles. -/
def State.endCmd (s : State) (h : BitVec 32) (st : Status) (result : BitVec 128) : State :=
  match s.findCmd h with
  | some c => s.completeCmd h st (cmdFlags c) result 0
  | none => s

/-! ### The hasp (R364) and the die of things (R16) -/

/-- The partition is stopped: by a hasp, by an orderly shut-down (R440), or in the failed state (R380). -/
def State.stopped (s : State) (p : PartId) : Bool := (s.part p).src != 0 || s.pwr.shutting || s.rep.failed

/-- The partition of a core is stopped. -/
def State.coreStopped (s : State) (c : CoreId) : Bool :=
  match s.owner c with
  | some p => s.stopped p
  | none => false

def dieOfCore (c : CoreId) : PortId := if c.val < 88 then 0 else 1
def dieOfChan (c : ChanId) : PortId := if c.val < 96 then 0 else 1

/-- Command-ready, and neither stopped nor failed. -/
def State.ready (s : State) : Bool := s.pwr.run == .ready && !s.rep.failed

end Sys2Proof.Machine
end

