-- ==== Sys2Proof/Machine/FabOps.lean ====
section
/-! DEFINITION. The fabric as its users see it: global addresses (R27), routes and virtual channels (R274, R275),
credits and arbitration of a link (R267, R276), requests and their tags (R278). -/

namespace Sys2Proof.Machine

/-! ### Global addresses (R27, R272) -/

def localPart (g : Nat) : Nat := g % 2 ^ 46
def modulePart (g : Nat) : Nat := g / 2 ^ 46

/-- Coordinate d of a module ID. -/
def coord (id d : Nat) : Nat := id / 8 ^ d % 8

def State.torusSize (s : State) (d : Nat) : Nat := ((vat s.fab.torus d).getD 1).toNat

def State.isLocal (s : State) (g : Nat) : Bool := modulePart g = s.fab.moduleId.toNat

/-- The module ID lies within the configured size of every dimension. -/
def State.moduleExists (s : State) (id : Nat) : Bool := (List.range 6).all fun d => coord id d < s.torusSize d

/-- Partition p has fabric credits (R276, R277). -/
def State.hasCredits (s : State) (p : PartId) : Bool :=
  s.fab.links.toList.any fun l => (vget l.cred p).toList.any fun x => x != 0

/-- A remote access of partition p may be sent (R27, R277). -/
def State.mayRemote (s : State) (p : PartId) (g : Nat) : Bool := s.moduleExists (modulePart g) && s.hasCredits p

/-- The global address of a place of this module (R27). -/
def State.globalOf (s : State) (g : Nat) : Nat := s.fab.moduleId.toNat * 2 ^ 46 + localPart g

/-! ### Links and virtual channels -/

def msgSlots (m : Msg) : Nat := (24 + m.data.length + 47) / 48

/-- v = 2·CLASS + VC (R267). -/
def msgChan (m : Msg) : Fin 8 := ⟨2 * m.cls.toNat % 8 + m.vc.toNat % 2, by omega⟩

def linkNo (d dir pair : Nat) : LinkId := (toFin? 24 (d * 4 + dir * 2 + pair)).getD 0

/-- The link whose index differs only in bit 0 (R271). -/
def pairOf (l : LinkId) : LinkId := (toFin? 24 (if l.val % 2 = 0 then l.val + 1 else l.val - 1)).getD 0

/-- The link takes new messages of its own hop. -/
def Link.takes (l : Link) : Bool := l.st == .up && !l.failover

/-- What becomes of a message that is to leave this module: it goes on a link and a VC, or its hop cannot be made. -/
inductive Hop where
  | here
  | out (l : LinkId) (vc : BitVec 1)
  | unreachable (l : LinkId)
  deriving DecidableEq, Repr

/-- The even link of a pair, which queues the messages of both while neither is UP. -/
def evenOf (l : LinkId) : LinkId := if l.val % 2 = 0 then l else pairOf l

/-- The next hop of a message for `dest` on pair `pair`; `came` is the link and VC it came in on (R271, R274, R275). While
neither link of a pair is UP, the even one queues the messages of both, in order. -/
def State.nextHop (s : State) (dest : Nat) (pair : Nat) (came : Option (LinkId × BitVec 1)) : Hop :=
  let own := s.fab.moduleId.toNat
  match (List.range 6).find? fun d => coord own d != coord dest d with
  | none => .here
  | some d =>
    let n := s.torusSize d
    let c := coord own d
    let delta := (coord dest d + n - c) % n
    let dir0 := if delta ≤ n - delta then 0 else 1
    let up (x : LinkId) := (s.link x).st == .up
    let dir := if n = 2 && !up (linkNo d 0 0) && !up (linkNo d 0 1) then 1 else dir0
    let l := linkNo d dir pair
    let crosses := (dir = 0 && c + 1 = n) || (dir = 1 && c = 0)
    let kept := match came with
      | some (x, v) => x.val / 4 = d && v == 1
      | none => false
    let vc : BitVec 1 := if crosses || kept then 1 else 0
    if (s.link l).takes then .out l vc
    else if (s.link (pairOf l)).st == .up then .out (pairOf l) vc
    else if (s.link l).st == .retired && (s.link (pairOf l)).st == .retired then .unreachable l
    else if (s.link l).st == .up then .out l vc
    else .out (evenOf l) vc

/-! ### Sending on a link (R265, R267, R268) -/

def Link.creditsFor (l : Link) (m : Msg) : Nat :=
  if m.cls = 0 then l.haspAvail.toNat
  else match toFin? 16 m.part.toNat with
    | some p => ((vat (vget l.avail p) (msgChan m).val).getD 0).toNat
    | none => 0

def Link.canSend (l : Link) (m : Msg) : Bool := decide ((msgSlots m) ≤ l.creditsFor m)

/-- The message among `ms` whose partition comes first after the last one served; first come first within it. -/
def nextOfPart (last : PartId) (ms : List Msg) : Option Msg :=
  ((List.range 16).map fun i => (last.val + 1 + i) % 16).findSome? fun p => ms.find? fun m => m.part.toNat = p

/-- The earliest message of each partition and channel that may go, of one class. -/
def Link.ready (l : Link) (cls : Nat) : List Msg :=
  let q := l.outq.filter fun m => m.cls.toNat = cls
  (q.zipIdx.filter fun x =>
    l.canSend x.1 && !((q.take x.2).any fun m => m.part = x.1.part && m.vc = x.1.vc)).map Prod.fst

/-- The message that takes the next slots: HASP, then RSP, then REQ and BULK alternating (R267). -/
def Link.choose (l : Link) : Option Msg :=
  let pick (cls : Nat) := nextOfPart ((vat l.lastPart cls).getD 15) (l.ready cls)
  match pick 0 with
  | some m => some m
  | none =>
    match pick 2 with
    | some m => some m
    | none =>
      if l.lastBulk then (match pick 1 with | some m => some m | none => pick 3)
      else (match pick 3 with | some m => some m | none => pick 1)

/-- Spend the message's credits. -/
def Link.spend (l : Link) (m : Msg) : Link :=
  let n := BitVec.ofNat 8 (msgSlots m)
  if m.cls = 0 then { l with haspAvail := l.haspAvail - n }
  else match toFin? 16 m.part.toNat with
    | some p => { l with avail := vmod l.avail p fun v => vmod v (msgChan m) fun x => x - n }
    | none => l

/-- The chosen message leaves its queue: its credits are spent and the turns go on. -/
def Link.took (k : Link) (m : Msg) : Link :=
  let k := k.spend m
  { k with outq := k.outq.erase m,
           lastBulk := if m.cls = 1 then false else if m.cls = 3 then true else k.lastBulk,
           lastPart := match toFin? 4 m.cls.toNat, toFin? 16 m.part.toNat with
             | some c, some p => vset k.lastPart c p
             | _, _ => k.lastPart }

/-- Messages for one flit, in the order of R267, until the next one does not fit in its 13 slots. -/
def Link.fill (k : Link) (room : Nat) : Nat → List Msg × Link
  | 0 => ([], k)
  | n + 1 =>
    match k.choose with
    | none => ([], k)
    | some m =>
      if room < msgSlots m then ([], k)
      else
        let (ms, k) := (k.took m).fill (room - msgSlots m) n
        (m :: ms, k)

/-- A flit as it leaves now: with the highest SEQ received in order, and the oldest credits to return (R265). -/
def Link.flit (k : Link) (kind : BitVec 4) (seq ack : BitVec 12) (msgs : List Msg) (train : Option TrainInfo) :
    OutFlit × Link :=
  ({ kind := kind, seq := seq, ackv := k.acks, ack := ack, credit := k.returned.head?, msgs := msgs, train := train },
   { k with returned := k.returned.drop 1, ackDue := false })

/-- A flit leaves the module on a link. -/
def State.emit (s : State) (l : LinkId) (f : OutFlit) : State := s.modFab fun u => { u with fabSent := u.fabSent ++ [(l, f)] }

/-- One DATA flit leaves the link with the messages whose turn it is, if the link is UP, a message may go, and the retry
buffer has room (R267, R268). -/
def State.sendFlit (s : State) (l : LinkId) : Option State :=
  let k := s.link l
  if k.st != .up || 256 ≤ k.retry.length then none else
  match k.fill 13 13 with
  | ([], _) => none
  | (ms, k) =>
    let (f, k) := k.flit 0 k.nextSeq (k.expSeq - 1) ms none
    let s := s.modLink l fun _ => { k with retry := k.retry ++ [f], nextSeq := k.nextSeq + 1, tx := k.tx + 1 }
    let s := if (s.link (pairOf l)).failover then
        s.modLink (pairOf l) fun k => { k with onPair := k.onPair ++ [f.seq] } else s
    some (s.emit l f)

/-- Flits leave the link until nothing may go. -/
def State.pumpN (s : State) (l : LinkId) : Nat → State
  | 0 => s
  | n + 1 =>
    match s.sendFlit l with
    | none => s
    | some s' => s'.pumpN l n

/-- IDLE flits carry the ACK and the credit returns for which no DATA flit leaves (R268). -/
def State.idleN (s : State) (l : LinkId) : Nat → State
  | 0 => s
  | n + 1 =>
    let k := s.link l
    if k.st != .up || !(k.ackDue || !k.returned.isEmpty) then s
    else
      let (f, k) := k.flit 1 0 (k.expSeq - 1) [] none
      ((s.modLink l fun _ => k).emit l f).idleN l n

def State.pump (s : State) (l : LinkId) : State :=
  let s := s.pumpN l (s.link l).outq.length
  s.idleN l ((s.link l).returned.length + 1)

/-- RETRY with the SEQ that the receiver expects (R268). -/
def State.sendRetry (s : State) (l : LinkId) : State :=
  let (f, k) := (s.link l).flit 2 0 (s.link l).expSeq [] none
  (s.modLink l fun _ => k).emit l { f with ackv := true }

/-- What this module's TRAIN flits say on a link (R270). -/
def State.trainInfo (s : State) (l : LinkId) : TrainInfo :=
  { link := BitVec.ofNat 5 l.val, sizes := s.fab.torus, hash := s.fab.sysHash, posValid := s.fab.posValid,
    module := s.fab.moduleId }

/-- A TRAIN flit leaves on a link that trains. -/
def State.sendTrain (s : State) (l : LinkId) : State :=
  s.emit l { kind := 3, seq := 0, ackv := false, ack := 0, credit := none, msgs := [], train := some (s.trainInfo l) }

/-- Queue a message on a link. -/
def State.enqueue (s : State) (l : LinkId) (m : Msg) : State :=
  (s.modLink l fun k => { k with outq := k.outq ++ [m] }).pump l

def opRead : Byte := 0x01
def opWrite : Byte := 0x02
def opAmo : Byte := 0x03
def opRdata : Byte := 0x10
def opAck : Byte := 0x11
def opNack : Byte := 0x12
def opBwrite : Byte := 0x20
def opBadd : Byte := 0x21
def opHasp : Byte := 0x30

def nackViolation : Byte := 0x01
def nackUncorrectable : Byte := 0x02
def nackUnreachable : Byte := 0x03
def nackRetired : Byte := 0x04

/-- The response to a request (R278): RDATA, ACK or NACK. -/
def State.response (s : State) (m : Msg) (op fn : Byte) (data : List Byte) : Msg :=
  { cls := 2, vc := 0, op := op, part := m.part, fn := fn, dest := m.src, src := s.fab.moduleId, tag := m.tag,
    len := BitVec.ofNat 16 data.length, addr := m.addr, data := data }

/-- Send a message toward its destination (R274); a hop that cannot be made answers a request with NACK UNREACHABLE,
and drops anything else (R279). -/
def State.forward (s : State) (m : Msg) (pair : Nat) (came : Option (LinkId × BitVec 1)) : State :=
  match s.nextHop m.dest.toNat pair came with
  | .here => s.modFab fun f => { f with fabIn := f.fabIn ++ [((came.map Prod.fst).getD 0, m)] }
  | .out l vc => s.enqueue l { m with vc := vc }
  | .unreachable l =>
    if m.cls = 1 || m.cls = 3 then
      let r := s.response m opNack nackUnreachable []
      match s.nextHop r.dest.toNat pair none with
      | .here => s.modFab fun f => { f with fabIn := f.fabIn ++ [(l, r)] }
      | .out x vc => s.enqueue x { r with vc := vc }
      | .unreachable _ => s
    else s

/-- The die on which a local address lies, which is where a response to it starts (R16, R274). -/
def State.dieOf (s : State) (a : Nat) : Nat :=
  match regionOf a with
  | .near => (dieOfChan (s.chanOf a)).val
  | .far o => (s.farPlace o).val
  | .store c _ => (dieOfCore c).val
  | .sts c _ => (dieOfCore c).val
  | .punnet c => (dieOfCore c).val
  | .txb c => (dieOfCore c).val
  | .coreReg c _ _ => (dieOfCore c).val
  | _ => 0

/-! ### Requests of this module (R278, R366) -/

/-- A transaction tag that no request in flight has. -/
def State.freeTag (s : State) : BitVec 16 :=
  let used := s.fab.reqs.map Req.tag
  match (List.range 65536).find? fun i => !used.contains (s.fab.nextTag + BitVec.ofNat 16 i) with
  | some i => s.fab.nextTag + BitVec.ofNat 16 i
  | none => s.fab.nextTag

/-- A request of partition p from a master on a die: it gets a tag and is sent, or waits while p is stopped (R366).
`len` is LEN of R266. -/
def State.request (s : State) (p : PartId) (die : PortId) (owner : ReqOwner) (op fn : Byte) (g len : Nat)
    (data : List Byte) : BitVec 16 × State :=
  let tag := s.freeTag
  let cls : BitVec 2 := if op = opBwrite || op = opBadd then 3 else 1
  let m : Msg := { cls := cls, vc := 0, op := op, part := BitVec.ofNat 4 p.val, fn := fn,
                   dest := BitVec.ofNat 18 (modulePart g), src := s.fab.moduleId, tag := tag,
                   len := BitVec.ofNat 16 len, addr := BitVec.ofNat 46 (localPart g), data := data }
  let s := s.modFab fun f => { f with reqs := f.reqs ++ [{ tag := tag, owner := owner }], nextTag := tag + 1 }
  (tag, if s.stopped p then s.modFab fun f => { f with fabWait := f.fabWait ++ [(die, m)] }
        else s.forward m die.val none)

/-- Messages of partition p held by a hasp are sent when it runs again (R367). -/
def State.releaseWaiting (s : State) (p : PartId) : State :=
  let mine := s.fab.fabWait.filter fun x => x.2.part.toNat = p.val
  let s := s.modFab fun f => { f with fabWait := f.fabWait.filter fun x => x.2.part.toNat ≠ p.val }
  s.each mine fun s x => s.forward x.2 x.1.val none

end Sys2Proof.Machine
end

