-- ==== Sys2Proof/Machine/Operands.lean ====
section
/-! DEFINITION. Operand forms: the fields of an instruction word and a thread's registers (R30, R36), the fields of a
descriptor (R40, R41), the checks at issue (R45, R46), issue itself (R44, R47), and the start of an operation at the
head of its list (R48, R51, R53). -/

namespace Sys2Proof.Machine

/-! ### Fields of an instruction word (R36) -/

/-- The word as a number. -/
def wNat (w : IWord) : Nat := w.word.toNat

/-- Bits [hi : lo] of the word as a number. -/
def wBits (w : IWord) (hi lo : Nat) : Nat := bitsOf (wNat w) hi lo

def wMaj (w : IWord) : Nat := wBits w 31 26
def wPred (w : IWord) : Nat := (w.word.extractLsb' 23 3).toNat
def wPinv (w : IWord) : Bool := w.word.getLsbD 22
def wRd (w : IWord) : BitVec 6 := w.word.extractLsb' 16 6
def wRa (w : IWord) : BitVec 6 := w.word.extractLsb' 10 6
def wRb (w : IWord) : BitVec 6 := w.word.extractLsb' 4 6
def wFn (w : IWord) : Nat := (w.word.extractLsb' 0 4).toNat
def wImm10 (w : IWord) : Word := (w.word.extractLsb' 0 10).signExtend 64
def wImm16 (w : IWord) : BitVec 16 := w.word.extractLsb' 0 16
def wOff22 (w : IWord) : Word := (w.word.extractLsb' 0 22).signExtend 64
def wOrd (w : IWord) : BitVec 2 := w.word.extractLsb' 2 2
def wAfn (w : IWord) : BitVec 2 := w.word.extractLsb' 0 2
def wPd (w : IWord) : BitVec 3 := w.word.extractLsb' 1 3

/-! ### The instruction that a word encodes (R37, R38) -/

/-- The instructions of R37; a SEM and a SYS by what they do. -/
inductive IName where
  | alu | addi | andi | ori | xori | shli | shri | srai | cmp | cmpi | plog | movk | movs | br | call | jr
  | ldb | ldh | ldw | ldd | ldws | stb | sth | stw | std | fence | amo64 | amo32 | amof | semAcquire | semRelease
  | tiss | twait | tpoll | halt | yield | rdcyc | rdid | rdpart
  deriving DecidableEq, Repr

/-- The instruction of a SYS function; 0x5 to 0xF are reserved. -/
def sysName (fn : Nat) : Option IName :=
  match fn with
  | 0 => some .halt
  | 1 => some .yield
  | 2 => some .rdcyc
  | 3 => some .rdid
  | 4 => some .rdpart
  | _ => none

/-- The instruction of a major opcode, from the fields that select one: FN of SYS and bit 0 of SEM (R37). Every code
that is not listed is reserved. -/
def majName (maj fn : Nat) : Option IName :=
  match maj with
  | 0x01 => some .alu
  | 0x02 => some .addi
  | 0x03 => some .andi
  | 0x04 => some .ori
  | 0x05 => some .xori
  | 0x06 => some .shli
  | 0x07 => some .shri
  | 0x08 => some .srai
  | 0x09 => some .cmp
  | 0x0A => some .cmpi
  | 0x0B => some .plog
  | 0x0C => some .movk
  | 0x0D => some .movk
  | 0x0E => some .movk
  | 0x0F => some .movk
  | 0x10 => some .movs
  | 0x11 => some .br
  | 0x12 => some .call
  | 0x13 => some .jr
  | 0x18 => some .ldb
  | 0x19 => some .ldh
  | 0x1A => some .ldw
  | 0x1B => some .ldd
  | 0x1C => some .ldws
  | 0x20 => some .stb
  | 0x21 => some .sth
  | 0x22 => some .stw
  | 0x23 => some .std
  | 0x28 => some .fence
  | 0x29 => some .amo64
  | 0x2A => some .amo32
  | 0x2B => some .amof
  | 0x2C => some (if fn % 2 = 0 then .semAcquire else .semRelease)
  | 0x30 => some .tiss
  | 0x31 => some .twait
  | 0x32 => some .tpoll
  | 0x38 => sysName fn
  | _ => none

/-- The function codes and the fields that must be zero are legal in an instruction's word (R37, R38). -/
def legalFields (n : IName) (w : IWord) : Bool :=
  match n with
  | .alu => wFn w < 14
  | .shli => wBits w 9 6 = 0
  | .shri => wBits w 9 6 = 0
  | .srai => wBits w 9 6 = 0
  | .cmp => wFn w < 7 && wBits w 21 19 = 0
  | .cmpi => wBits w 18 16 < 6
  | .plog => wBits w 10 0 = 0
  | .jr => wBits w 21 16 = 0 && wBits w 9 0 = 0
  | .fence => wBits w 21 2 = 0
  | .amof => wBits w 1 0 < 2
  | .tiss => wBits w 9 0 = 0
  | .twait => wBits w 15 7 = 0
  | .tpoll => wBits w 15 10 = 0
  | _ => true

/-- The instruction that a word encodes; none where R38 makes the encoding illegal. -/
def instrOf (w : IWord) : Option IName :=
  match majName (wMaj w) (wFn w) with
  | some n => if legalFields n w then some n else none
  | none => none

/-! ### Registers of a thread (R30) -/

/-- General register r; g0 reads as zero. -/
def Thread.reg (x : Thread) (r : BitVec 6) : Word := if r = 0 then 0 else x.g[r.toNat]

/-- General register r written; a write to g0 is discarded. -/
def Thread.setReg (x : Thread) (r : BitVec 6) (v : Word) : Thread :=
  if r = 0 then x else { x with g := x.g.set r.toNat v }

/-- Predicate p; p0 reads as true. -/
def Thread.predicate (x : Thread) (p : Nat) : Bool := p = 0 || x.pred.getLsbD p

/-- Predicate p written; a write to p0 is discarded. -/
def Thread.setPred (x : Thread) (p : Nat) (v : Bool) : Thread :=
  if p = 0 || 8 ≤ p then x
  else { x with pred := if v then x.pred ||| ((1 : Byte) <<< p) else x.pred &&& ~~~((1 : Byte) <<< p) }

/-- The guard of R36: PRED must be true, or false with PINV. -/
def Thread.guard (x : Thread) (w : IWord) : Bool := x.predicate (wPred w) != wPinv w

/-! ### Fields of a descriptor (R6, R40) -/

/-- n bytes at byte b of a descriptor, as a number. -/
def dN (d : Desc) (b n : Nat) : Nat := (d >>> (8 * b)).toNat % 2 ^ (8 * n)

def d8 (d : Desc) (b : Nat) : Nat := dN d b 1
def d16 (d : Desc) (b : Nat) : Nat := dN d b 2
def d32 (d : Desc) (b : Nat) : Nat := dN d b 4
def d64 (d : Desc) (b : Nat) : Nat := dN d b 8

/-- Bits [hi : lo] of byte b. -/
def dBits (d : Desc) (b hi lo : Nat) : Nat := bitsOf (d8 d b) hi lo

def dOpc (d : Desc) : Nat := d8 d 0
def dTypeA (d : Desc) : Nat := dBits d 1 3 0
def dTypeB (d : Desc) : Nat := dBits d 1 7 4
def dTypeOut (d : Desc) : Nat := dBits d 2 3 0
def dBmode (d : Desc) : Nat := dBits d 2 5 4
def dTmode (d : Desc) : Nat := dBits d 2 7 6
def dRnd (d : Desc) : Nat := dBits d 3 1 0
def dPadz (d : Desc) : Bool := dBits d 3 2 2 = 1
def dEsc (d : Desc) : Nat := dBits d 3 4 3
def dOrder (d : Desc) : Nat := d16 d 4
def dCrec (d : Desc) : Nat := d64 d 8
def dWaitV (d : Desc) : Bool := bitsOf (dOrder d) 15 15 = 1
def dWait (d : Desc) : Nat := bitsOf (dOrder d) 14 8
def dSigV (d : Desc) : Bool := bitsOf (dOrder d) 7 7 = 1
def dSig (d : Desc) : Nat := bitsOf (dOrder d) 6 0

/-- A descriptor as its 128 bytes in memory. -/
def descOf (bs : List Byte) : Desc := BitVec.ofNat 1024 (leNat bs)

/-- Bytes 16 to 31 replaced by a bounds record (R51). -/
def setBounds (d : Desc) (v : Nat) : Desc :=
  BitVec.ofNat 1024 (d.toNat % 2 ^ 128 + v % 2 ^ 128 * 2 ^ 128 + d.toNat / 2 ^ 256 * 2 ^ 256)

/-- Every byte from 16 up to 127 that is in no listed field (first byte, bytes) is zero (R7). -/
def onlyFields (d : Desc) (fs : List (Nat × Nat)) : Bool :=
  (List.range 112).all fun i =>
    let b := i + 16
    fs.any (fun f => f.1 ≤ b && b < f.1 + f.2) || d8 d b = 0

/-- The operations the chapters define (R42). -/
def opcDefined (o : Nat) : Bool :=
  [0x01, 0x02, 0x03, 0x10, 0x20, 0x21, 0x22, 0x28, 0x29, 0x2A, 0x2B, 0x2C, 0x2D, 0x2E, 0x30, 0x31, 0x32, 0x38, 0x39,
   0x3A, 0x3B, 0x40, 0x41, 0x42, 0x43, 0x50, 0x51, 0x52, 0x53, 0x58, 0x5C, 0x5D, 0x60, 0x61, 0x62, 0x63, 0x64, 0x65,
   0x66, 0x67, 0x68, 0x69, 0x6A, 0x6B, 0x70, 0x71, 0x72, 0x73, 0x74, 0x75, 0x7E].contains o

/-- The operation joins the move list (R53). -/
def onMoveList (o : Nat) : Bool := (1 ≤ o && o ≤ 3) || (0x60 ≤ o && o ≤ 0x7F)

/-- CREC is 0 or an address at which a record can be written (R40). -/
def crecLegal (c : CoreId) (a : Nat) : Bool := a = 0 || (a % 32 = 0 && a < 2 ^ 46 && inNearOrStore c a 32)

/-- The operations that have an operand B, and those that have a typed result (R40 and the chapters' descriptors). -/
def hasTypeB (o : Nat) : Bool := [0x10, 0x20, 0x21, 0x22, 0x30, 0x40, 0x41, 0x50, 0x51, 0x52, 0x53].contains o
def hasTypeOut (o : Nat) : Bool := hasTypeB o || [0x31, 0x32, 0x42, 0x58].contains o

/-- The TYPE fields fail R13 or R40: a reserved code, FP32C, which is no type of any descriptor's operand, or a code in
the field of an operand that the operation does not have. -/
def typesBad (d : Desc) : Bool :=
  dTypeA d > 11 || dTypeB d > 11 || dTypeOut d > 11 || (!hasTypeB (dOpc d) && dTypeB d != 0) ||
  (!hasTypeOut (dOpc d) && dTypeOut d != 0)

/-- The header fails R7, R13, R40, R41, R42 or R46 (R45). -/
def headerBad (c : CoreId) (d : Desc) (fromThread : Bool) : Bool :=
  !opcDefined (dOpc d) || typesBad d || dBmode d > 1 || dRnd d > 1 ||
  dBits d 3 7 5 != 0 || d16 d 6 != 0 || (dBmode d = 1 && d64 d 24 != 0) || !crecLegal c (dCrec d) ||
  (fromThread && dSigV d && 112 ≤ dSig d)

/-! ### Issue (R44, R45, R47) -/

/-- The wait of a new operation on token t: the operation bound to it last, or the status the token retains (R47). -/
def Core.waitOn (k : Core) (t : Nat) : Option (BitVec 32) × Status :=
  match vat k.tokens t with
  | none => (none, stDone)
  | some tok =>
    if !tok.bound then (none, stDone)
    else if tok.busy then
      match (k.ops.filter fun o => o.sig.any fun x => x.toNat = t).getLast? with
      | some o => (some o.ticket, stDone)
      | none => (none, tok.status)
    else (none, tok.status)

/-- How an operation comes to be issued: by a thread, for a host command, or for a boundary list. -/
structure Issue where
  host : Option (BitVec 32)
  boundary : Bool
  waited : Bool
  after : Option (Option (BitVec 32) × Status)
  sig : Option (BitVec 7)
  deriving DecidableEq, Repr

def byThread (d : Desc) : Issue :=
  { host := none, boundary := false, waited := false, after := none,
    sig := if dSigV d then some (BitVec.ofNat 7 (dSig d)) else none }

/-- The operation that a descriptor makes on core k. -/
def newOp (k : Core) (d : Desc) (bad : Bool) (i : Issue) : Op :=
  let w := match i.after with
    | some x => x
    | none => if dWaitV d then k.waitOn (dWait d) else (none, stDone)
  { ticket := k.next, desc := d, bounds := 0, move := onMoveList (dOpc d), bad := bad, host := i.host,
    waited := i.waited, boundary := i.boundary, held := false, dep := w.1, depSt := w.2,
    sig := if bad && i.host.isNone && dSig d ≥ 112 then none else i.sig,
    phase := .queued, success := stDone, result := 0, tags := [], xfers := [], work := .none }

/-- A ticket that is at or after the latch of the step fence (R321). -/
def afterLatch (latch t : BitVec 32) : Bool := (t - latch).toNat < 2 ^ 31

/-- The operation belongs to the next step and waits behind the fence (R321). -/
def Core.behindFence (k : Core) (o : Op) : Bool := k.fenced && !o.boundary && afterLatch k.latch o.ticket

/-- Append to the lists; a boundary operation goes ahead of the next step's operations (R53). -/
def Core.append (k : Core) (o : Op) : List Op :=
  if o.boundary then (k.ops.takeWhile fun x => !k.behindFence x) ++ [o] ++ (k.ops.dropWhile fun x => !k.behindFence x)
  else k.ops ++ [o]

/-- Issue an operation: it takes a slot and a ticket, its wait is resolved, and it binds its token (R44, R47). -/
def Core.issue (k : Core) (d : Desc) (bad : Bool) (i : Issue) : Core :=
  let o := newOp k d bad i
  let k' := { k with ops := k.append o, next := k.next + 1 }
  match o.sig with
  | none => k'
  | some t =>
    let x : Token := { busy := true, bound := true, status := 0,
                       ticket := match i.host with | some h => h | none => o.ticket }
    { k' with tokens := k'.tokens.set t.toNat x }

/-- A free slot (R31, R53). -/
def Core.slotFree (k : Core) : Bool := decide (k.ops.length < 64)

/-! ### Trouble of an operation's accesses (R229, R384) -/

/-- What can go wrong with an access of an operation. -/
inductive Trouble where
  | violation (a : Nat)
  | lost (sector : Nat)
  deriving DecidableEq, Repr

/-- The first address at which the core's partition may not access a range. -/
def State.coreViolates (s : State) (c : CoreId) (a n : Nat) (wr : Bool) : Option Nat :=
  if n = 0 then none else
  match s.owner c with
  | none => some a
  | some p => s.violates p a n wr

/-- A record address in the near tier at which the core's partition may write no record (R45). -/
def State.crecOutside (s : State) (c : CoreId) (d : Desc) : Bool :=
  let a := dCrec d
  a ≠ 0 && crecLegal c a && inNear a 32 && (s.coreViolates c a 32 true).isSome

/-- A descriptor that the partition controller issues fails at issue (R45). -/
def State.ctlBad (s : State) (c : CoreId) (d : Desc) : Bool := headerBad c d false || s.crecOutside c d

def State.readTrouble (s : State) (c : CoreId) (bad : BadSectors) (a n : Nat) : Option Trouble :=
  match s.coreViolates c a n false with
  | some x => some (.violation x)
  | none => (s.uncorrectable bad a n).map .lost

def State.writeTrouble (s : State) (c : CoreId) (a n : Nat) : Option Trouble :=
  (s.coreViolates c a n true).map .violation

/-- The outcome of trouble: the list is frozen and the operation held, or it completes RESOURCE_RETIRED. -/
def State.trouble (s : State) (c : CoreId) (o : Op) (t : Trouble) : State :=
  match t with
  | .violation a => s.freezeEngine c o cAddress a
  | .lost x => (s.noteUncorrectable x).finish c o.ticket stRetired 0

/-- Go on unless one of the accesses has trouble; the first one counts (R15). -/
def State.unless (s : State) (c : CoreId) (o : Op) (ts : List (Option Trouble)) (f : State → State) : State :=
  match ts.findSome? id with
  | some t => s.trouble c o t
  | none => f s

def State.badDesc (s : State) (c : CoreId) (o : Op) : State := s.finish c o.ticket stBadDesc 0

/-! ### The start of an operation (R48, R51, R53) -/

/-- The first operation of a list that has not started. -/
def Core.head (k : Core) (move : Bool) : Option Op := k.ops.find? fun o => o.move == move && o.phase == .queued

/-- Move-list operations in progress (R282). -/
def Core.moving (k : Core) : Nat := k.ops.countP fun o => o.move && o.phase != .queued

/-- The head of the list that an OPC joins, if it may start now: its wait is met, the step fence does not hold it, and
its list is not frozen. -/
def Core.startable (k : Core) (opc : Nat) : Option Op :=
  match k.head (onMoveList opc) with
  | none => none
  | some o =>
    let frozen := k.reg.frzCore || (if o.move then k.reg.frzMlist else k.reg.frzClist)
    if dOpc o.desc = opc && o.dep.isNone && !k.behindFence o && !frozen && !(o.move && 8 ≤ k.moving) then some o
    else none

/-- The bounds record of an AT_ISSUE operation: its bytes, or what goes wrong (R51). -/
def State.boundsOf (s : State) (c : CoreId) (bad : BadSectors) (d : Desc) : Option (Option Trouble) × Desc :=
  if dBmode d = 0 then (none, d)
  else
    let a := d64 d 16
    if a % 16 ≠ 0 || !inNearOrStore c a 16 then (some none, d)
    else match s.readTrouble c bad a 16 with
      | some t => (some (some t), d)
      | none => (none, setBounds d (s.rdN a 16))

/-- Start the head of a list if it is an operation of this OPC: checks at issue, of its header and those that `early`
makes of the descriptor, its wait, the hasp, the bounds record, and then what its chapter says (R15, R48, R51, R77,
R366). -/
def State.startIf (s : State) (c : CoreId) (opc : Nat) (bad : BadSectors) (early : Desc → Bool)
    (run : State → Op → State) : State :=
  match (s.core c).startable opc with
  | none => s
  | some o =>
    if o.bad || early o.desc then s.badDesc c o
    else if isFailure o.depSt then s.finish c o.ticket o.depSt 0
    else if s.coreStopped c && !o.boundary then s.finish c o.ticket stAborted 0
    else
      let s := s.modOp c o.ticket fun o => { o with phase := .running }
      match s.boundsOf c bad o.desc with
      | (some none, _) => s.badDesc c o
      | (some (some t), _) => s.trouble c o t
      | (none, d) =>
        let s := s.modOp c o.ticket fun o => { o with desc := d }
        run s { o with desc := d, phase := .running }

/-- As `startIf`, of an operation whose chapter makes no check at issue. -/
def State.startOp (s : State) (c : CoreId) (opc : Nat) (bad : BadSectors) (run : State → Op → State) : State :=
  s.startIf c opc bad (fun _ => false) run

/-- A running operation by its ticket. -/
def State.running (s : State) (c : CoreId) (ticket : BitVec 32) : Option Op :=
  (s.core c).ops.find? fun o => o.ticket = ticket && o.phase == .running

/-- The running operation of a ticket goes on, unless its core is frozen; while its partition is stopped it completes
ABORTED_BY_HASP (R366, R376). -/
def State.resumeOp (s : State) (c : CoreId) (ticket : BitVec 32) (f : Op → State) : State :=
  match s.running c ticket with
  | none => s
  | some o =>
    if (s.core c).reg.frzCore then s
    else if s.coreStopped c && !o.boundary then s.finish c ticket stAborted o.result
    else f o

end Sys2Proof.Machine
end

