-- ==== Sys2Proof/Machine/Regs.lean ====
section
/-! DEFINITION. What every register reads as, by its block or unit and offset (R7, R8, R26 and the register tables of
the chapters). `none` says that no register is there. -/

namespace Sys2Proof.Machine

/-- A field's value at its lowest bit. -/
def at' (v lo : Nat) : Nat := v * 2 ^ lo

/-- Bit i of the result says whether p holds of i. -/
def mapBits (n base : Nat) (p : Nat → Bool) : Nat :=
  (List.range n).foldl (fun a i => a + if p (base + i) then 2 ^ i else 0) 0

/-- An array of registers at first, first + 8, …: the index of the one at off. -/
def regIndex (first count off : Nat) : Option Nat :=
  if first ≤ off && (off - first) % 8 = 0 && (off - first) / 8 < count then some ((off - first) / 8) else none

/-! ### Codes of states -/

def TState.code : TState → Nat
  | .idle => 0
  | .ready => 1
  | .waitMem => 2
  | .waitIssue => 3
  | .waitToken => 4
  | .frozen => 5

def BankSt.code : BankSt → Nat
  | .free => 0
  | .filling => 1
  | .full => 2
  | .draining => 3

def PState.code : PState → Nat
  | .absent => 0
  | .step => 1
  | .quiesce => 2
  | .boundary => 3
  | .hinge => 4
  | .held => 5

def ChanSt.code : ChanSt → Nat
  | .off => 0
  | .training => 1
  | .serving => 2
  | .evacuating => 3
  | .retired => 4
  | .lost => 5

def PortSt.code : PortSt → Nat
  | .down => 0
  | .training => 1
  | .up => 2
  | .retired => 3

def LinkSt.code : LinkSt → Nat
  | .down => 0
  | .training => 1
  | .up => 2
  | .failover => 3
  | .retired => 4
  | .refused => 5

def SessSt.code : SessSt → Nat
  | .free => 0
  | .setup => 1
  | .openS => 2
  | .frozen => 3

def EspSt.code : EspSt → Nat
  | .none => 0
  | .loaded => 1
  | .validating => 2
  | .holding => 3
  | .applying => 4

def FnSt.code : FnSt → Nat
  | .off => 0
  | .starting => 1
  | .on => 2
  | .stopping => 3
  | .retired => 4

/-! ### Values derived from the state -/

/-- The sections' fields as the registers of core c show them: those of its partition, or the reset values. -/
def State.cfgOf (s : State) (c : CoreId) : PartCfg :=
  match s.owner c with
  | some p => (s.part p).cfg
  | none => PartCfg.reset

/-- Physical columns in use (R99, ARR_WIDTH). -/
def Core.width (k : Core) : Nat := 64 - ((List.range 64).countP fun i => k.arr.colmap.getLsbD i)

/-! ### Sector tags (R55, R80, notes/assumptions/39.md) -/

/-- The accesses of a thread that have not returned or been performed. -/
def Thread.accesses (x : Thread) : Nat :=
  x.stores.length + (match x.acc with
    | some a => if a.kind == .heldStore then 0 else 1
    | none => 0)

/-- Reserved thread tags in use: one for each access of the threads that is under way, up to 16. -/
def Core.threadTags (k : Core) : Nat := min 16 (k.threads.toList.map Thread.accesses).sum

/-- Reserved drain tags in use: one for each sector that a draining bank writes, up to 16. -/
def Core.drainTags (k : Core) : Nat :=
  min 16 (k.arr.banks.toList.map fun b => if b.st == .draining then b.writing else 0).sum

/-- Shared tags in use: those of the operands being staged, and one for each message of the tier mover port that is
under way, up to 224. -/
def State.sharedTags (s : State) (c : CoreId) : Nat :=
  min 224 (((s.core c).arr.prep.map PassRef.tags).sum + s.fab.reqs.countP fun r => match r.owner with
    | .op k _ => k = c
    | _ => false)

/-- A free accumulator bank. -/
def ArrUnit.freeBank (a : ArrUnit) : Option (Fin 2) := (List.finRange 2).find? fun b => (vget a.banks b).st == .free

/-- The bank that a tile of an operation fills. -/
def ArrUnit.bankOf (a : ArrUnit) (r : PassRef) : Option (Fin 2) :=
  (List.finRange 2).find? fun b =>
    let k := vget a.banks b
    k.st == .filling && k.ticket = r.ticket && k.tile = r.tile && k.rerun = r.rerun

/-- DRN_STATUS.HOLD: the next pass starts an output tile and no bank is free. -/
def ArrUnit.holds (a : ArrUnit) : Bool :=
  match a.prep with
  | [] => false
  | r :: _ => (a.bankOf r).isNone && a.freeBank.isNone

/-- The head of a list waits on its token. -/
def Core.headWaits (k : Core) (move : Bool) : Bool :=
  match k.head move with
  | some o => o.dep.isSome
  | none => false

def KvcUnit.used (u : KvcUnit) : Nat := (u.punnet.map fun r => (r.bytes.length + 63) / 64).sum

def KvcUnit.lines (u : KvcUnit) : Nat := ((u.punnet.filter PunnetRow.live).map PunnetRow.seq).eraseDups.length

def stsUsed (u : StsUnit) : Nat := (u.stsSlices.map fun x => (x.2.2 + 63) / 64 * 64).sum

/-- Bytes of the state store below the workspace (R133). -/
def stsLimit (u : StsUnit) : Nat := 0x100000 - u.stsWork.toNat * 1024

def Part.leasesActive (p : Part) : Nat := p.leases.toList.countP fun l => l.used

/-- The leases that a pre-emption waits on: those of the threads of the cores it names (R335). -/
def Part.leasesWaited (p : Part) : Nat :=
  if p.waitLease then p.leases.toList.countP fun l => l.used && !l.expired && p.waitCores.contains l.core else 0

def Part.leasesHeld (p : Part) : Nat := p.leases.toList.countP fun l => l.used && !l.expired

/-- Band of R328 of a cap in 10 W units. -/
def capBand (cap : Nat) : Nat := if cap ≥ 75 then 3 else if cap ≥ 60 then 2 else if cap ≥ 45 then 1 else 0

/-- Some item of R431 is below its image point. -/
def State.governing (s : State) : Bool :=
  s.cores.toList.any (fun k => k.reg.freqMhz.toNat < k.reg.imgMhz.toNat) || s.pwr.nearRate.toNat < s.pwr.nearImgRate.toNat ||
  s.pwr.nearAccess.toNat < 16

def hashWord (h : BitVec 256) (i : Nat) : Nat := (h.extractLsb' (64 * i) 64).toNat

/-- The record of R318 of an applied section. -/
def Section.record (x : Section) : List Byte :=
  [x.kind, x.part] ++ leBytes 4 x.gen.toNat ++ leBytes 32 x.hash.toNat

/-- Sections in the order of R318: module sections by kind, then by partition and kind. -/
def secKey (x : Section) : Nat := (if x.part = 0xFF then 0 else x.part.toNat + 1) * 256 + x.kind.toNat

def insertSec (x : Section) : List Section → List Section
  | [] => [x]
  | y :: r => if secKey x < secKey y then x :: y :: r else y :: insertSec x r

def sortSections (xs : List Section) : List Section := xs.foldl (fun a x => insertSec x a) []

/-- ESP_MEAS (R318); zero before any image (its reset value). -/
def State.espMeas (s : State) : BitVec 256 :=
  if s.esp.sections.isEmpty then 0 else Config.sha3 ((sortSections s.esp.sections).flatMap Section.record)

/-- The keyring's hash as SEC_RING shows it. -/
def State.ringHash (s : State) : BitVec 256 :=
  match s.sec.keyring with
  | some k => Config.sha3 k.bytes
  | none => 0

/-! ### Per-core units (R26) -/

def Thread.regRead (x : Thread) (off : Nat) : Option Nat :=
  let shown := x.st == .idle || x.st == .frozen
  if off = 0 then some x.st.code
  else if off = 8 then some (at' x.pc.toNat 2)
  else if off = 0x10 then
    some (at' (ofBool x.fault.valid) 63 + at' x.fault.cause.toNat 48 + x.fault.addr.toNat)
  else if off = 0x18 then some (x.pred ||| 1).toNat
  else match regIndex 0x200 64 off with
    | some i => some (if shown then (x.reg (BitVec.ofNat 6 i)).toNat else 0)
    | none => none

def Token.read (t : Token) : Nat :=
  at' (ofBool t.busy) 63 + at' (ofBool t.bound) 62 + at' t.status.toNat 32 + t.ticket.toNat

/-- Unit u of core c at an offset. -/
def State.coreRegRead (s : State) (c : CoreId) (u off : Nat) : Option Nat :=
  let k := s.core c
  let r := k.reg
  let g := s.cfgOf c
  match u with
  | 0 =>
    if off = 0 then
      some (at' ((r.part.map Fin.val).getD 0) 20 + at' (if r.silicon.toNat < 88 then 0 else 1) 16 +
        at' r.silicon.toNat 8 + c.val)
    else if off = 8 then
      some (at' (ofBool (r.freqMhz.toNat < r.imgMhz.toNat)) 32 + at' r.imgMhz.toNat 16 + r.freqMhz.toNat)
    else if off = 0x10 then some r.cyc.toNat
    else if off = 0x18 then
      some (at' (ofBool r.elogValid) 63 + at' (ofBool r.elogOvf) 62 + at' r.elogStatus.toNat 32 + r.elogTicket.toNat)
    else if off = 0x20 then some (at' k.threadTags 24 + at' k.drainTags 16 + s.sharedTags c)
    else if off = 0x28 then
      some (at' (ofBool r.frzCore) 63 + at' (ofBool r.frzClist) 62 + at' (ofBool r.frzMlist) 61 +
        at' (ofBool r.retiring) 60 + at' r.frzCause.toNat 48 + r.frzAddr.toNat)
    else if off = 0x30 then some r.frzTicket.toNat
    else none
  | 1 =>
    let a := k.arr
    if off = 0 then some k.width
    else if off = 8 then some a.colmap.toNat
    else if off = 0x10 then
      some (at' (vget a.banks 1).st.code 10 + at' (vget a.banks 0).st.code 8 + at' (min 15 a.pend) 4 + ofBool a.bcast)
    else if off = 0x18 then some a.beats.toNat
    else if off = 0x20 then
      some (at' a.bubHold.toNat 48 + at' a.bubWtile.toNat 32 + at' a.bubFeed.toNat 16 + a.bubBcast.toNat)
    else if off = 0x28 then
      some (at' (ofBool a.perrValid) 63 + at' a.perrCol.toNat 48 + at' a.perrRow.toNat 40 + a.perrCount.toNat)
    else if off = 0x30 then some a.passes.toNat
    else none
  | 2 =>
    match toFin? 32 (off / 0x400) with
    | some t => (vget k.threads t).regRead (off % 0x400)
    | none => none
  | 3 =>
    if off = 0 then some g.lookahead.toNat
    else if off = 8 then
      some (at' (ofBool (k.headWaits true)) 17 + at' (ofBool (k.headWaits false)) 16 + at' k.arr.prep.length 8 +
        min 127 k.ops.length)
    else if off = 0x10 then some k.next.toNat
    else if off = 0x18 then some g.route.toNat
    else if off = 0x20 then some (at' k.arr.tpFetch.toNat 32 + k.arr.tpTxb.toNat)
    else none
  | 4 =>
    if off = 0 then some (at' (ofBool k.arr.holds) 32 + k.completed.toNat)
    else if off = 8 then some g.policy.toNat
    else if off = 0x10 then some (at' g.escPip.toNat 16 + g.escSat.toNat)
    else if off = 0x18 then some (at' k.arr.trips.toNat 32 + k.arr.reruns.toNat)
    else if off = 0x20 then some (at' k.arr.reseeds.toNat 32 + ofBool k.arr.rngHealth)
    else match regIndex 0x100 128 off with
      | some i => (vat k.tokens i).map Token.read
      | none => none
  | 5 =>
    let u := k.sts
    if off = 0 then
      some (at' u.stsGroup.toNat 48 + at' u.stsSize.toNat 40 + at' u.stsIndex.toNat 32 + u.stsWork.toNat)
    else if off = 8 then some g.stsBase.toNat
    else if off = 0x10 then some (at' g.stsCount.toNat 16 + g.stsFirst.toNat)
    else if off = 0x18 then some (at' u.stsSlices.length 32 + (stsLimit u - stsUsed u) / 1024)
    else if off = 0x20 then
      let deferred := (k.ops.map fun o => match o.work with
        | .ctl w => w.waiting.length
        | _ => 0).sum
      let pinned := (u.stsPins.map fun x => x.2.length).sum
      some (at' deferred 16 + min pinned 1024)
    else if off = 0x28 then
      some (at' (ofBool u.driftValid) 63 + at' (ofBool u.driftOvf) 62 + at' u.driftStream.toNat 32 + u.driftCount.toNat)
    else if off = 0x30 then some (at' (ofBool u.stsUnc) 63 + at' u.stsErrStream.toNat 32 + u.stsCorr.toNat)
    else if off = 0x38 then some u.stsCyc.toNat
    else none
  | 6 =>
    let u := k.kvc
    if off = 0 then some g.pgBase.toNat
    else if off = 8 then some g.pgmetaBase.toNat
    else if off = 0x10 then some (at' g.pgCount.toNat 32 + g.pageKib.toNat)
    else if off = 0x18 then some g.seqBase.toNat
    else if off = 0x20 then some (at' g.seqCount.toNat 32 + g.seqFirst.toNat)
    else if off = 0x28 then some (at' g.capMax.toNat 56 + g.plistBase.toNat)
    else if off = 0x30 then some (at' u.used 32 + at' u.lines 16 + g.punnetSectors.toNat)
    else if off = 0x38 then
      match s.owner c with
      | some p => some (at' (s.part p).kvFree.toNat 32 + (s.part p).kvReserved.toNat)
      | none => some 0
    else if off = 0x40 then
      some (at' u.flFull.toNat 48 + at' u.flRoom.toNat 32 + at' u.flOther.toNat 16 + u.flCopies.toNat)
    else if off = 0x48 then some (at' (ofBool u.kvUnc) 63 + at' u.kvErrSeq.toNat 32 + u.kvCorr.toNat)
    else none
  | 7 =>
    let u := k.cnv
    if off = 0 then some (at' u.elPasses.toNat 32 + u.elSectors.toNat)
    else if off = 8 then some u.cnvWait.toNat
    else if off = 0x10 then some (at' u.xRun.toNat 48 + at' u.xUp.toNat 40 + at' u.xDown.toNat 32 + ofBool u.xActive)
    else if off = 0x18 then some (at' (ofBool u.cfValid) 63 + at' u.cfCore.toNat 40 + at' u.cfStatus.toNat 16)
    else none
  | _ => none

/-! ### Module blocks (R26) -/

def State.modBlock (s : State) (off : Nat) : Option Nat :=
  let spares := (List.finRange 176).countP fun c => !vget s.act c && !vget s.ret c
  let active := (List.finRange 176).countP fun c => vget s.act c
  if off = 0 then
    some (at' s.fab.moduleId.toNat 46 + at' 0xB1 24 + at' s.pwr.grade.toNat 20 + at' (ofBool s.sec.ownerLock) 16 +
      at' active 8 + spares)
  else if off = 8 then some s.coreGen.toNat
  else if off = 0x100 then
    some (at' (ofBool s.rep.failed) 9 + at' (ofBool s.rep.faultHeld) 8 + at' (ofBool s.shortPart) 7 +
      at' (ofBool (s.rep.banks.toList.any (fun b => b.failed) || s.rep.ledgerFallback != 0)) 6 +
      at' (ofBool (s.rep.pairStopped.toList.any id)) 5 +
      at' (ofBool (s.fct.eth.toList.all fun e => e.st == .retired)) 4 + at' (ofBool s.tier.slowLost) 3 +
      at' (ofBool s.tier.slowRo) 2 + at' (ofBool (s.chans.toList.any fun c => c.st == .lost)) 1 +
      ofBool (s.rep.fwState = 2))
  else if off = 0x108 || off = 0x120 then some 0
  else if off = 0x110 || off = 0x118 then
    let n := if off = 0x110 then 0 else 16
    some (((List.range 16).map fun i =>
      match vat s.rep.fns (n + i) with
      | some f => at' (ofBool f.queued * 8 + f.st.code) (4 * i)
      | none => 0).sum)
  else if off = 0x128 then
    some (at' (ofBool (vget s.rep.banks 1).failed) 63 + at' (ofBool (vget s.rep.banks 0).failed) 62 +
      at' s.rep.ledgerFallback.toNat 48 + s.rep.ledgerSeq.toNat % 2 ^ 48)
  else if off = 0x130 then some (at' s.rep.fwVersion.toNat 32 + s.rep.fwFloor.toNat)
  else if off = 0x138 then some (at' s.rep.fwCtrls.length 8 + s.rep.fwState.toNat)
  else if off = 0x140 then
    some (at' (ofBool s.rep.lrValid) 63 + at' (ofBool s.rep.lrOvf) 62 + at' s.rep.lrClass.toNat 48 + s.rep.lrUnit.toNat)
  else match regIndex 0x10 3 off with
    | some i => some (mapBits 64 (64 * i) fun c => (vat s.act c).getD false)
    | none => match regIndex 0x28 3 off with
      | some i => some (mapBits 64 (64 * i) fun c => (vat s.ret c).getD false)
      | none => match regIndex 0x40 16 off with
        | some i => (vat s.subst i).map fun e => at' (ofBool e.1) 63 + at' e.2.2.toNat 8 + e.2.1.toNat
        | none => none

def State.pwrBlock (s : State) (off : Nat) : Option Nat :=
  let p := s.pwr
  match off with
  | 0x00 => some (at' (ofBool p.capRefused) 8 + p.cap.toNat)
  | 0x08 => some (at' p.vin.toNat 32 + at' p.pin.toNat 16 + at' (capBand p.cap.toNat) 8 + at' (ofBool p.safe) 2 +
      at' (ofBool p.thermal) 1 + ofBool s.governing)
  | 0x10 => some (at' p.nearRate.toNat 8 + p.nearAccess.toNat)
  | 0x18 => some (at' p.inlet.toNat 32 + at' p.die1.toNat 16 + p.die0.toNat)
  | 0x20 => some (at' p.govUp.toNat 32 + p.govDown.toNat)
  | 0x28 => some (at' p.startTime.toNat 32 + at' p.startDropped.toNat 16 + at' p.startFailed.toNat 3 + p.startStep.toNat)
  | 0x30 => some 0
  | 0x38 => some p.lastStop.toNat
  | _ => none

/-- SEC_DBGDATA is withheld while debug is locked (R360, R419). -/
def State.debugWord (s : State) : Nat :=
  if s.sec.debug && s.sec.dbgUnit.toNat ≤ 2 then
    (Config.debugData s.sec.dbgUnit s.sec.dbgCtrl s.sec.dbgOffset).toNat
  else 0

def State.secBlock (s : State) (off : Nat) : Option Nat :=
  let x := s.sec
  if off = 0 then
    some (at' x.ringVer.toNat 48 % 2 ^ 55 + at' x.pcause.toNat 8 + at' (ofBool x.dbgDisable) 3 + at' (ofBool x.debug) 2 +
      at' (ofBool x.ownerLock) 1 + ofBool x.provisioning)
  else if off = 0xE8 then some (at' x.dbgUnit.toNat 28 + at' x.dbgCtrl.toNat 24 + x.dbgOffset.toNat)
  else if off = 0xF0 then some s.debugWord
  else if off = 0xF8 then some (at' x.attests.toNat 32 + at' x.dbgFail.toNat 16 + x.rotFail.toNat)
  else match regIndex 0x08 8 off with
    | some i =>
      match x.keyring with
      | none => some 0
      | some k => (vat k.entries i).map fun e =>
          at' (ofBool e.valid) 63 + at' (ofBool e.revoked) 62 + at' e.roles.toNat 16 + e.pmask.toNat
    | none =>
      let pick (first : Nat) (h : BitVec 256) : Option Nat := (regIndex first 4 off).map (hashWord h)
      match pick 0x48 x.ownerHash with
      | some v => some v
      | none => match pick 0x68 s.ringHash with
        | some v => some v
        | none => match pick 0x88 x.fwMeas with
          | some v => some v
          | none => match pick 0xA8 (Config.sha3 identityPk) with
            | some v => some v
            | none => pick 0xC8 Config.romMeas

def Part.exists (p : Part) : Bool := p.st != .absent

def State.espBlock (s : State) (off : Nat) : Option Nat :=
  let e := s.esp
  let held (p : Nat) : Bool := match vat s.parts p with
    | some x => x.st == .held
    | none => false
  let defd (p : Nat) : Bool := match vat s.parts p with
    | some x => x.exists
    | none => false
  if off = 0 then
    some (at' e.espLoads.toNat 32 + at' (ofBool e.imgStaged.isSome) 16 + at' (min 255 e.loadsWaiting.length) 8 + e.espSt.code)
  else if off = 8 then some (at' (mapBits 16 0 held) 16 + mapBits 16 0 defd)
  else if off = 0x30 then some (at' e.retireGen.toNat 32 + e.layoutGen.toNat)
  else if off = 0x38 then
    some (at' (ofBool e.espErrValid) 63 + at' (ofBool e.espErrOvf) 62 + at' e.espErrCause.toNat 48 +
      at' e.espErrSection.toNat 40 + e.espErrOffset.toNat)
  else if off = 0x40 then some (at' e.retireFloor.toNat 32 + e.layoutFloor.toNat)
  else match regIndex 0x10 4 off with
    | some i => some (hashWord s.espMeas i)
    | none => match regIndex 0x80 16 off with
      | some i => (vat s.parts i).map fun p => if p.exists then at' 1 63 + p.cfg.gen.toNat else 0
      | none => match regIndex 0x100 16 off with
        | some i => (vat e.partFloors i).map fun x => x.toNat
        | none => none

def HSlot.inUse (x : HSlot) : Bool := x.st != .free

def State.fctBlock (s : State) (off : Nat) : Option Nat :=
  let f := s.fct
  let count (p : Session → Bool) : Nat := f.sessions.toList.countP p
  let sel := vget f.sessions f.sessSel.toFin
  match off with
  | 0x00 => some f.rto.toNat
  | 0x08 => some f.idle.toNat
  | 0x10 => some (at' f.granted 16 + f.handles.countP HSlot.inUse)
  | 0x18 => some (at' (count fun x => x.st == .setup) 16 + at' (count fun x => x.st == .frozen) 8 + count Session.isOpen)
  | 0x20 => some (at' f.authTagFail.toNat 32 + f.authSetupFail.toNat)
  | 0x28 => some (at' f.haspApplied.toNat 48 + at' f.haspRefused.toNat 32 + at' f.haspDropped.toNat 16 + f.haspFabric.toNat)
  | 0x30 => some f.sessSel.toNat
  | 0x38 => some (at' sel.sid.toNat 32 + at' sel.quota 17 + at' sel.pmask.toNat 1 + ofBool sel.maint)
  | 0x40 =>
    some (at' (f.handles.countP fun x => x.inUse && x.st != .orphan && x.sess = f.sessSel.toFin) 17 +
      at' (ofBool sel.shasp) 16 + sel.st.code)
  | _ => match regIndex 0x100 16 off with
    | some i => (vat s.parts i).map fun p => at' p.hid.toNat 32 + p.src.toNat
    | none => none

def State.ethBlock (s : State) (p : PortId) (off : Nat) : Option Nat :=
  let e := s.eth p
  match off with
  | 0x00 => some (at' (ofBool e.fecLock) 16 + at' e.phy.toNat 8 + e.st.code)
  | 0x08 => some e.mac.toNat
  | 0x10 => some e.cfgWord
  | 0x18 => some e.ip4Word
  | 0x20 => some e.ip6Hi.toNat
  | 0x28 => some e.ip6Lo.toNat
  | 0x30 => some (at' e.tx.toNat 32 + e.rx.toNat)
  | 0x38 => some (at' e.dropHasp.toNat 48 + at' e.dropCtrl.toNat 32 + at' e.dropBulk.toNat 16 + e.dropOther.toNat)
  | 0x40 => some (at' e.pfcSent.toNat 32 + e.pfcReceived.toNat)
  | 0x48 => some (at' e.fecUnc.toNat 32 + e.fecCorr.toNat)
  | _ => none

def State.partBlock (s : State) (p : PartId) (off : Nat) : Option Nat :=
  let x := s.part p
  let g := x.cfg
  let b := x.bd
  let v : Option Nat :=
    match off with
    | 0x00 => some (at' b.stage.toNat 24 + at' (ofBool b.late) 16 + x.st.code)
    | 0x08 => some 0
    | 0x10 => some (at' x.hinges.toNat 32 + x.steps.toNat)
    | 0x18 => some (at' g.ctrl.toNat 48 + at' (ofBool g.yields) 32 + at' g.hingeEvery.toNat 16 + g.share.toNat)
    | 0x20 => some g.budget.toNat
    | 0x28 => some g.leaseMax.toNat
    | 0x30 => some (at' (ofBool x.wdogValid) 63 + at' (ofBool x.wdogOvf) 62 + at' x.wdogCount.toNat 32 + x.wdogStep.toNat)
    | 0x38 => some (at' x.stMax.toNat 32 + x.stLast.toNat)
    | 0x40 => some x.engine.toNat
    | 0x48 => some (at' (ofBool b.listErr) 63 + at' b.bRefused.toNat 32 + at' b.bAdmitted.toNat 16 + b.bEntries.toNat)
    | 0x50 => some (at' x.leasesWaited 40 + at' x.leasesActive 32 + x.leExpired.toNat)
    | 0x70 => some 0
    | _ => (regIndex 0x58 3 off).map fun i => mapBits 64 (64 * i) fun c => x.cores.any fun k => k.val = c
  if x.exists then v else v.map fun _ => 0

def Band.read (b : Band) : Nat :=
  at' (ofBool b.valid) 63 + at' (ofBool b.split) 62 + at' b.rows.toNat 32 + b.first.toNat

def State.tierBlock (s : State) (off : Nat) : Option Nat :=
  let t := s.tier
  if off = 0 then some s.nearTop
  else if off = 0x48 then
    match t.evac with
    | some e => some (at' t.nretMax.toNat 60 + at' s.nret 56 + at' 1 55 + at' e.ch.val 32 + e.left)
    | none => some (at' t.nretMax.toNat 60 + at' s.nret 56)
  else if off = 0x50 then
    some (((List.range 8).map fun j => at' (((t.nretPos[j]?).map Fin.val).getD 0xFF) (8 * j)).sum)
  else if off = 0x58 then some (at' t.objCount.toNat 46 + t.objBase.toNat)
  else if off = 0x60 then some t.dirtyBase.toNat
  else if off = 0x68 then some (at' t.tumbCount.toNat 46 + t.tumbBase.toNat)
  else if off = 0x70 then some t.evacPct.toNat
  else if off = 0x78 then some (at' (ofBool t.slowRo) 63 + t.slowFree.toNat)
  else if off = 0x200 then
    some (at' (ofBool t.evValid) 63 + at' (ofBool t.evOvf) 62 + at' t.evCause.toNat 56 + at' t.evUnit.toNat 48 + t.evId.toNat)
  else match regIndex 8 8 off with
    | some i => (vat t.bands i).map Band.read
    | none => match regIndex 0x100 16 off with
      | some i => (vat s.parts i).map fun p => at' p.cfg.farBudget.toNat 32 + p.cfg.nearBudget.toNat
      | none => match regIndex 0x180 16 off with
        | some i => (vat s.parts i).map fun p => at' p.farCharge.toNat 32 + p.nearCharge.toNat
        | none => none

def State.farBlock (s : State) (p : PortId) (off : Nat) : Option Nat :=
  let f := vget s.tier.far p
  match off with
  | 0x00 => some s.farSize
  | 0x08 => some (at' f.rate.toNat 16 + at' f.width.toNat 8 + f.st.code)
  | 0x10 => some (ofBool s.tier.farInterleave)
  | 0x18 => some f.cap.toNat
  | 0x20 => some (at' (ofBool f.errValid) 63 + at' f.poison.toNat 48 + at' f.events.toNat 32 + f.replays.toNat)
  | _ => none

def State.slowBlock (s : State) (c : Fin 8) (off : Nat) : Option Nat :=
  let x := vget s.tier.slow c
  match off with
  | 0x00 => some (at' (ofBool x.up) 16 + x.dies.toNat)
  | 0x08 => some (at' x.lost.toNat 48 + at' x.rebuilds.toNat 32 + at' x.retired.toNat 16 + x.retries.toNat)
  | 0x10 => some (at' x.wearMax.toNat 16 + x.wearMin.toNat)
  | 0x18 => some (at' s.tier.scrubReads.toNat 32 + at' s.tier.maintPct.toNat 24 + s.tier.spread.toNat)
  | _ => none

def Chan.regRead (x : Chan) (off : Nat) : Option Nat :=
  match off with
  | 0x00 => some (at' x.rate.toNat 8 + x.st.code)
  | 0x08 => some (at' x.retrains.toNat 48 + at' x.retries.toNat 24 + x.eccCorr.toNat)
  | 0x10 => some (at' (ofBool x.uncValid) 63 + at' x.uncCount.toNat 48 + x.uncAddr.toNat)
  | 0x18 => some x.poison.length
  | 0x20 => some (at' (ofBool x.tgRefused) 18 + at' (ofBool x.tgBusy) 17 + at' x.tgReads.toNat 8 + at' x.tgPasses.toNat 2 +
      x.tgPattern.toNat)
  | 0x28 => some (at' x.tgRows.toNat 32 + x.tgFirst.toNat)
  | 0x30 => some (at' x.tgErrors.toNat 32 + x.tgChecked.toNat)
  | 0x38 => some (at' (ofBool x.tgFValid) 63 + at' x.tgFRow.toNat 2 + x.tgFSector.toNat)
  | _ => none

def State.fabBlock (s : State) (l : LinkId) (off : Nat) : Option Nat :=
  let k := s.link l
  match off with
  | 0x00 => some (at' k.rcause.toNat 32 + at' k.medium.toNat 8 + k.st.code)
  | 0x08 => some (at' (ofBool k.peerValid) 63 + at' k.peer.link.toNat 24 + (if k.peer.posValid then k.peer.module.toNat else 0))
  | 0x10 => some (((List.range 6).map fun d => at' (s.torusSize d) (4 * d)).sum)
  | 0x18 => some (at' (ofBool s.fab.posValid) 63 + at' (ofBool s.fab.origin) 32 + s.fab.moduleId.toNat)
  | 0x20 => some s.fab.sysHash.toNat
  | 0x28 => some (at' k.retrains.toNat 48 + at' k.failovers.toNat 32 + k.retries.toNat)
  | 0x30 => some (at' k.fecUnc.toNat 32 + k.fecCorr.toNat)
  | 0x38 => some (at' k.rx.toNat 32 + k.tx.toNat)
  | 0x40 => some (at' (ofBool k.vValid) 63 + at' k.vCause.toNat 52 + at' k.vPart.toNat 48 + k.vSrc.toNat)
  | 0x48 => some k.haspCred.toNat
  | _ => match regIndex 0x100 16 off with
    | some p => (vat k.cred p).map fun v => ((List.range 8).map fun i => at' (((vat v i).getD 0).toNat) (8 * i)).sum
    | none => none

/-- Module block b at an offset. -/
def State.modRegRead (s : State) (b off : Nat) : Option Nat :=
  if b = 0 then s.modBlock off
  else if b = 1 then s.pwrBlock off
  else if b = 2 then s.secBlock off
  else if b = 3 then s.espBlock off
  else if b = 4 then s.fctBlock off
  else if b = 8 then s.ethBlock 0 off
  else if b = 9 then s.ethBlock 1 off
  else if 0x10 ≤ b && b < 0x20 then (toFin? 16 (b - 0x10)).bind fun p => s.partBlock p off
  else if b = 0x20 then s.tierBlock off
  else if b = 0x28 then s.farBlock 0 off
  else if b = 0x29 then s.farBlock 1 off
  else if 0x30 ≤ b && b < 0x38 then (toFin? 8 (b - 0x30)).bind fun c => s.slowBlock c off
  else if 0x100 ≤ b && b < 0x1C0 then (toFin? 192 (b - 0x100)).bind fun c => (s.chan c).regRead off
  else if 0x200 ≤ b && b < 0x218 then (toFin? 24 (b - 0x200)).bind fun l => s.fabBlock l off
  else none

/-- The register at a local address, if one is there and its block or core is mapped (R25, R26). -/
def State.regAt (s : State) (a : Nat) : Option Nat :=
  if a % 8 ≠ 0 then none else
  match regionOf a with
  | .modReg b off => s.modRegRead b off
  | .coreReg c u off => if s.usable c then s.coreRegRead c u off else none
  | _ => none

/-- The address lies in a register block. -/
def isRegAddr (a : Nat) : Bool :=
  match regionOf a with
  | .modReg _ _ => true
  | .coreReg _ _ _ => true
  | _ => false

end Sys2Proof.Machine
end

