-- ==== Sys2Proof/Machine/ArrayOps.lean ====
section
/-! DEFINITION. The matrix array as its operations share it: layouts of operands (R72, R73, R105), views of an
operation's operands and result, the passes' sums (R95 to R97, R110, R211), and the drain of an output tile (R93, R94,
R111 to R122). -/

namespace Sys2Proof.Machine

/-! ### Where an element lies (R72, R73) -/

/-- An element of an operand: its block's first byte, or its own byte where the type has no blocks; the places of the
block's scale byte and pip word; its index in the block. `none` of a view is an element fed as exact zero. -/
structure Spot where
  e : Nat
  sc : Option Nat
  pp : Option Nat
  i : Nat
  deriving DecidableEq, Repr

def ceilDiv (a b : Nat) : Nat := (a + b - 1) / b

def up64 (n : Nat) : Nat := ceilDiv n 64 * 64

/-- Bytes of a row record of L elements (R72). -/
def recBytes (t : Nat) (pips : Bool) (L : Nat) : Nat :=
  if isBlock t then ceilDiv L 32 * (4 * elemW t) + ceilDiv L 32 + (if pips then 4 * ceilDiv L 32 else 0)
  else L * (elemW t / 8)

/-- The padded extent of a row record. -/
def extent (t : Nat) (pips : Bool) (L : Nat) : Nat := up64 (recBytes t pips L)

/-- Element j of the row record at r. -/
def recSpot (t : Nat) (pips : Bool) (L r j : Nat) : Spot :=
  let nb := ceilDiv L 32
  if isBlock t then
    { e := r + j / 32 * (4 * elemW t), sc := some (r + nb * (4 * elemW t) + j / 32),
      pp := if pips then some (r + nb * (4 * elemW t) + nb + 4 * (j / 32)) else none, i := j % 32 }
  else { e := r + j * (elemW t / 8), sc := none, pp := none, i := 0 }

/-- Bytes of a stationary tile of TW columns (R73). -/
def tileBytes (t tw : Nat) (pips : Bool) : Nat :=
  up64 (tw * 32 * elemW t + (if isBlock t then tw * 8 else 0) + (if pips then tw * 32 else 0))

/-- Row k of column q of the tile at r (R73). -/
def tileSpot (t : Nat) (pips : Bool) (tw r q k : Nat) : Spot :=
  let w := elemW t
  if isBlock t then
    { e := r + q * 32 * w + k / 32 * (4 * w), sc := some (r + tw * 32 * w + q * 8 + k / 32),
      pp := if pips then some (r + tw * 32 * w + tw * 8 + q * 32 + 4 * (k / 32)) else none, i := k % 32 }
  else { e := r + q * 32 * w + k * (w / 8), sc := none, pp := none, i := 0 }

/-- The code of an element (R105). -/
def State.codeAt (s : State) (t : Nat) (x : Spot) : Nat :=
  let w := elemW t
  if isBlock t then
    let lo := w * x.i
    s.rdN (x.e + lo / 8) 2 / 2 ^ (lo % 8) % 2 ^ w
  else s.rdN x.e (w / 8)

def State.scaleAt (s : State) (x : Spot) : Nat :=
  match x.sc with
  | some a => (s.rdB a).toNat
  | none => 127

/-- The value of an element with its pips and its scale (R106 to R109). -/
def State.valAt (s : State) (t : Nat) (x : Option Spot) : Val :=
  match x with
  | none => Val.zero
  | some x =>
    let c := s.codeAt t x
    if isBlock t then
      let pips := match x.pp with
        | some a => pipsOf (BitVec.ofNat 32 (s.rdN a 4))
        | none => []
      blockVal t c (s.scaleAt x) pips x.i
    else if t = 8 then decBf16 (BitVec.ofNat 16 c)
    else if t = 9 then decF16 (BitVec.ofNat 16 c)
    else decF32 (BitVec.ofNat 32 c)

/-- The sectors an element's bytes, scale and pip word lie in (R92). -/
def spotSectors (t : Nat) (x : Option Spot) : List Nat :=
  match x with
  | none => []
  | some x =>
    let w := elemW t
    let lo := if isBlock t then x.e + w * x.i / 8 else x.e
    let hi := if isBlock t then x.e + (w * x.i + w - 1) / 8 else x.e + w / 8 - 1
    [lo / 64, hi / 64] ++ (match x.sc with | some a => [a / 64] | none => []) ++
      (match x.pp with | some a => [a / 64] | none => [])

/-! ### Views -/

/-- What an array operation reads and writes: element k of streaming row r, of stationary column n, and where column n
of the result of row r lies (its record and its element there). -/
structure View where
  ta : Nat
  tb : Nat
  tout : Nat
  outPips : Bool
  accum : Bool
  ref : Nat
  len : Nat
  rnd : Bool
  esc : Nat
  a : Nat → Nat → Option Spot
  b : Nat → Nat → Option Spot
  out : Nat → Nat → Nat × Nat
  writes : Nat → Nat → Bool

/-- INT32 accumulation (R97). -/
def View.int (v : View) : Bool := v.tout = 11

/-- Rows that enter together (R70). -/
def rateG (tb : Nat) : Nat :=
  if tb = 6 || tb = 7 then 8 else if tb = 0 then 4 else if isBlock tb then 2 else 1

/-- The pairs of R70. -/
def pairLegal (ta tb : Nat) : Bool := if isBlock tb then isBlock ta else (tb = 8 || tb = 9) && (ta = 8 || ta = 9)

/-- TYPE_OUT under R71. -/
def outLegal (ta tb tout : Nat) : Bool := tout ≤ 10 || (tout = 11 && ta = 5 && tb = 5)

/-- Policies of R118: 0 OFF, 1 REPORT, 2 ESCALATE. -/
def State.policy (s : State) (c : CoreId) (esc : Nat) : Nat := if esc = 0 then (s.cfgOf c).policy.toNat else esc - 1

/-- TYPE_OUT of 6 bits or narrower (R118). -/
def narrowOut (t : Nat) : Bool := isBlock t && elemW t ≤ 6

/-- Widening can follow (R118, R121). -/
def State.mayWiden (s : State) (c : CoreId) (esc tout : Nat) : Bool := s.policy c esc = 2 && narrowOut tout

/-! ### Areas of an operand (R74, R77) -/

/-- The module bits are zero or this module's. -/
def State.herePart (s : State) (g : Nat) : Bool := modulePart g = 0 || s.isLocal g

/-- The range lies in the near tier, the far-tier window or a core store of the partition's cores. -/
def State.areaOk (s : State) (c : CoreId) (g n : Nat) : Bool :=
  let a := localPart g
  s.herePart g &&
  (decide (a + n ≤ nearEnd) || (decide (farBase ≤ a) && decide (a + n ≤ farBase + 0x40000000000)) ||
   match regionOf a with
   | .store k off => s.owner k = s.owner c && decide (off + n ≤ 0x400000)
   | _ => false)

/-- The range lies in the core's own store. -/
def ownStore (c : CoreId) (g n : Nat) : Bool := inStore c (localPart g) n

/-- The extent of rows of records: the bytes from the first to the end of the last, the gaps between records included, for
the area and overlap checks of R77 (DESIGN CHOICE, notes/assumptions/40.md). -/
def rowsExtent (rows stride ext : Nat) : Nat := if rows = 0 then 0 else (rows - 1) * stride + ext

/-- Alignment and stride of R74 with the area of R77. -/
def State.rowsOk (s : State) (c : CoreId) (g rows stride ext : Nat) : Bool :=
  g % 64 = 0 && stride % 64 = 0 && ext ≤ stride && s.areaOk c g (rowsExtent rows stride ext)

/-- The trouble of reading or writing rows of records at a local address. -/
def State.rowsTrouble (s : State) (c : CoreId) (a : Nat) (rows : List Nat) (stride n : Nat) (wr : Bool) :
    Option Trouble :=
  rows.findSome? fun i => (s.coreViolates c (a + i * stride) n wr).map .violation

/-- Bits of a mask at a, for m below n. -/
def State.maskRows (s : State) (a n : Nat) : List Nat :=
  (List.range n).filter fun m => a = 0 || (s.rdB (localPart a + m / 8)).toNat / 2 ^ (m % 8) % 2 = 1

/-! ### Tiles and passes (R79) -/

def chunksOf {α : Type} (n : Nat) : Nat → List α → List (List α)
  | 0, _ => []
  | fuel + 1, xs => if xs.isEmpty then [] else xs.take n :: chunksOf n fuel (xs.drop n)

/-- Groups of at most n. -/
def groups {α : Type} (n : Nat) (xs : List α) : List (List α) := chunksOf n xs.length xs

/-- The 32-element blocks of reduction indices lo up to hi. -/
def blocksOf (lo hi : Nat) : List (List Nat) :=
  groups 32 ((List.range (hi - lo)).map (· + lo))

/-- K-tiles of a plain reduction of length k: each one's blocks. -/
def kTiles (k : Nat) : List (List (List Nat)) :=
  (List.range (ceilDiv k 256)).map fun t => blocksOf (256 * t) (min k (256 * t + 256))

/-- The passes over columns n0 up to n1 of a tile of tw columns with the blocks of each K-tile, split where the tile is
wider than the array, whatever its columns in bounds (R102). -/
def passesOver (width tw n0 n1 : Nat) (kt : List (List (List Nat))) : List PassSpec :=
  kt.flatMap fun bs =>
    if tw ≤ width then [{ c0 := n0, c1 := n1, blocks := bs }]
    else [{ c0 := n0, c1 := min n1 (n0 + width), blocks := bs }, { c0 := n0 + width, c1 := n1, blocks := bs }]

/-- Output tiles of a plain product: columns in tiles of tw, groups of fed rows (R79). -/
def plainTiles (width tw n group : Nat) (rows : List Nat) (kt : List (List (List Nat))) : List TileSpec :=
  (List.range (ceilDiv n tw)).flatMap fun nt =>
    (groups group rows).map fun g =>
      { rows := g, n0 := nt * tw, n1 := min n (nt * tw + tw),
        passes := passesOver width tw (nt * tw) (min n (nt * tw + tw)) kt }

/-- References to the passes of a tile; a tile without passes has one that only takes its bank (R190). -/
def refsOf (ticket : BitVec 32) (tile : Nat) (t : TileSpec) (rerun : Bool) : List PassRef :=
  (List.range (max 1 t.passes.length)).map fun p =>
    { ticket := ticket, tile := tile, pass := p, rerun := rerun, counted := !rerun && t.passes.length != 0 }

def arrayWork (ticket : BitVec 32) (d : Desc) (m k n : Nat) (tiles : List TileSpec) : ArrayWork :=
  { desc := d, m := m, k := k, n := n, tiles := tiles,
    todo := tiles.zipIdx.flatMap fun x => refsOf ticket x.2 x.1 false,
    left := tiles.length, drained := [], lost := [], widened := false, passes := 0, escalated := 0, sat := 0, pip := 0 }

/-! ### Access to an operation's array work -/

def Op.arr (o : Op) : Option ArrayWork :=
  match o.work with
  | .array a => some a
  | .fused _ a => a
  | _ => none

def Op.setArr (o : Op) (a : ArrayWork) : Op :=
  match o.work with
  | .fused f _ => { o with work := .fused f (some a) }
  | _ => { o with work := .array a }

def State.setArr (s : State) (c : CoreId) (ticket : BitVec 32) (a : ArrayWork) : State :=
  s.modOp c ticket fun o => o.setArr a

/-- The array work of a ticket. -/
def State.arrOf (s : State) (c : CoreId) (ticket : BitVec 32) : Option ArrayWork :=
  (s.findOp c ticket).bind Op.arr

/-- Result words of R104. -/
def ArrayWork.result (a : ArrayWork) (first : Nat) : BitVec 128 :=
  resultOf (leBytes 4 first ++ leBytes 4 a.escalated ++ leBytes 4 a.sat ++ leBytes 4 a.pip)

/-- The status of array work that has drained its last tile (R122, R444). -/
def ArrayWork.status (a : ArrayWork) : Status :=
  if !a.lost.isEmpty then stRetired else if a.widened then stEscalated else stDone

/-! ### The sums of a pass (R95 to R97, R110) -/

/-- Element n of row r at index k, exactly. -/
def State.product (s : State) (v : View) (r n k : Nat) : Val := (s.valAt v.ta (v.a r k)).mul (s.valAt v.tb (v.b n k))

/-- One FP32 sum carried through the blocks of a pass: a block type adds each block's exact sum with one rounding, and
BF16 and FP16 add each product. -/
def State.sumF32 (s : State) (v : View) (r n : Nat) (blocks : List (List Nat)) (acc : BitVec 32) : BitVec 32 :=
  let terms : List (List Nat) := if isBlock v.tb then blocks else blocks.flatten.map fun k => [k]
  terms.foldl (fun acc ks => toF32 ((decF32 acc).add (Val.sum (ks.map fun k => s.product v r n k)))) acc

/-- Two's-complement value of an MXINT8 code. -/
def int8 (c : Nat) : Int := if c < 128 then c else (c : Int) - 256

def State.intAt (s : State) (t : Nat) (x : Option Spot) : Int × Nat :=
  match x with
  | none => (0, 127)
  | some x => (int8 (s.codeAt t x), s.scaleAt x)

/-- INT32 accumulation of one block (R97): the new sum and whether the block or its saturation is counted. A block with
D = 0 adds 0 and counts nothing for every e: R97 saturates a term whose e is above 31 and gives that one no sign (DESIGN
CHOICE, notes/assumptions/40.md). -/
def State.intBlock (s : State) (v : View) (r n : Nat) (ks : List Nat) (acc : Int) : Int × Nat :=
  let xs := ks.map fun k => (s.intAt v.ta (v.a r k), s.intAt v.tb (v.b n k))
  match xs with
  | [] => (acc, 0)
  | x :: _ =>
    if x.1.2 = 255 || x.2.2 = 255 then (acc, 1)
    else
      let d := (xs.map fun y => y.1.1 * y.2.1).foldl (· + ·) 0
      let e : Int := (x.1.2 : Int) + x.2.2 - v.ref
      let lo : Int := -2147483648
      let hi : Int := 2147483647
      if d = 0 then (acc, 0)
      else
        let big := decide (31 < e)
        let term : Int :=
          if big then (if d < 0 then lo else hi)
          else if 0 ≤ e then d * (2 : Int) ^ e.toNat else d / (2 : Int) ^ (-e).toNat
        let sum := acc + term
        let clip := decide (sum < lo) || decide (hi < sum)
        (max lo (min hi sum), (if big then 1 else 0) + (if clip then 1 else 0))

def State.sumInt (s : State) (v : View) (r n : Nat) (blocks : List (List Nat)) (acc : BitVec 32) : BitVec 32 × Nat :=
  let x := blocks.foldl (fun (p : Int × Nat) ks => let q := s.intBlock v r n ks p.1; (q.1, p.2 + q.2)) (acc.toInt, 0)
  (BitVec.ofInt 32 x.1, x.2)

/-- The bank after a pass of a tile: its sums, and the saturations of R97. -/
def State.landSums (s : State) (v : View) (t : TileSpec) (p : PassSpec) (sums : List (List (BitVec 32))) :
    List (List (BitVec 32)) × Nat :=
  let rows := (t.rows.zip sums).map fun x =>
    let cells := x.2.zipIdx.map fun y =>
      let n := t.n0 + y.2
      if n < p.c0 || p.c1 ≤ n then (y.1, 0)
      else if v.int then s.sumInt v x.1 n p.blocks y.1
      else (s.sumF32 v x.1 n p.blocks y.1, 0)
    (cells.map Prod.fst, (cells.map Prod.snd).sum)
  (rows.map Prod.fst, (rows.map Prod.snd).sum)

/-- The sectors a pass reads of its operands (R92). -/
def passSectors (v : View) (t : TileSpec) (p : PassSpec) : List Nat :=
  let ks := p.blocks.flatten
  (t.rows.flatMap fun r => ks.flatMap fun k => spotSectors v.ta (v.a r k)) ++
  (((List.range (p.c1 - p.c0)).map (· + p.c0)).flatMap fun n => ks.flatMap fun k => spotSectors v.tb (v.b n k))

/-- The first uncorrectable sector that a pass reads. -/
def State.passLost (s : State) (bad : BadSectors) (v : View) (t : TileSpec) (p : PassSpec) : Option Nat :=
  if bad.isEmpty && s.poisoned.isEmpty && !s.anyDead then none
  else (passSectors v t p).find? fun x => (s.uncorrectable bad (x * 64) 1).isSome

/-! ### The drain (R93, R94, R111 to R117) -/

/-- What the drain of a tile gives: the state with C written, and the counts. -/
structure Drained where
  s : State
  sat : Nat
  pip : Nat
  wide : Nat

/-- n generator roundings (R113), or RNE. -/
def State.rounds (s : State) (stochastic : Bool) (n : Nat) : (Nat → Rnd) × State :=
  if stochastic then (fun i => some ((Config.free (s.free + i)).truncate 16), { s with free := s.free + n })
  else (fun _ => none, s)

/-- Bytes of w-bit codes packed from bit 0 (R105). -/
def packCodes (w : Nat) (cs : List Nat) : List Byte :=
  let v := cs.zipIdx.foldl (fun a x => a + x.1 * 2 ^ (w * x.2)) 0
  leBytes (ceilDiv (w * cs.length) 8) v

/-- A block of a record written: its in-bound element bytes, its scale, and with pips its pip word (R93). `held` says
which elements' sums are held: a byte that holds none of them is not written, and the others have zero codes (R444). -/
def State.putBlock (s : State) (t : Nat) (pips : Bool) (L r blk : Nat) (held : Nat → Bool) (b : BlockOut) : State :=
  let x := recSpot t pips L r (32 * blk)
  let n := min 32 (L - 32 * blk)
  let w := elemW t
  let codes := b.codes.take n
  let s :=
    if (List.range n).all held then s.store x.e (packCodes w codes)
    else
      let bytes := packCodes w (codes.zipIdx.map fun y => if held y.2 then y.1 else 0)
      s.each bytes.zipIdx fun s y =>
        if (List.range n).any fun i => held i && w * i / 8 ≤ y.2 && y.2 ≤ (w * i + w - 1) / 8 then s.store (x.e + y.2) [y.1]
        else s
  let s := match x.sc with
    | some a => s.storeN a 1 b.scale
    | none => s
  match x.pp with
  | some a => s.storeN a 4 b.pip.toNat
  | none => s

/-- Counts of one block at a type: saturations, and 1 if its pip demand exceeds P (R117). -/
def blockCounts (p : Nat) (b : BlockOut) : Nat × Nat := (b.sat, if p < b.demand then 1 else 0)

/-- The record format of a drain: block type and pips, after widening MXFP8 E4M3 without pips (R120). -/
def drainType (v : View) (widened : Bool) : Nat × Bool := if widened then (3, false) else (v.tout, v.outPips)

/-- One block of row r drained: `x` holds its columns' sums, in-bound first, none for a column whose output tile is lost,
which counts as zero (R444, notes/assumptions/40.md). Counts are at TYPE_OUT (R122). -/
def State.drainBlock (d : Drained) (v : View) (widened : Bool) (row col blk : Nat) (x : List (Option (BitVec 32))) : Drained :=
  let P := if v.outPips then 2 else 0
  let (r, _) := v.out row col
  let (rnd, s) := d.s.rounds v.rnd 32
  let full := x.map (fun y => y.getD 0) ++ List.replicate (32 - x.length) 0
  let held (i : Nat) : Bool := match x[i]? with
    | some (some _) => true
    | _ => false
  let narrow := quantBlock v.tout P rnd full
  let (sat, pip) := blockCounts P narrow
  if !v.writes row col then { d with s := s }
  else if widened then
    let wide := quantBlock 3 0 rnd full
    { s := s.putBlock 3 false v.len r blk held wide, sat := d.sat + sat, pip := d.pip + pip, wide := d.wide + wide.sat }
  else { s := s.putBlock v.tout v.outPips v.len r blk held narrow, sat := d.sat + sat, pip := d.pip + pip, wide := d.wide }

/-- The carry store's sum of a column of a row (R111), none where the output tile that holds the column was lost: the
block is then quantised with 0 there and written without that tile's bytes (DESIGN CHOICE, notes/assumptions/40.md). -/
def State.carried (s : State) (c : CoreId) (ticket : BitVec 32) (row col : Nat) : Option (BitVec 32) :=
  ((s.core c).arr.carry.find? fun x => x.1 = (ticket, row, col)).map Prod.snd

/-- One row of a tile drained as blocks aligned to its record (R111). -/
def State.drainBlocks (c : CoreId) (ticket : BitVec 32) (v : View) (widened : Bool) (t : TileSpec) (d : Drained)
    (row : Nat) (sums : List (BitVec 32)) : Drained :=
  let cols := sums.zipIdx.map fun y => t.n0 + y.2
  let s := d.s.modArr c fun a =>
    { a with carry := (sums.zip cols).map (fun y => ((ticket, row, y.2), y.1)) ++
        a.carry.filter fun x => !(x.1.1 = ticket && x.1.2.1 = row && cols.contains x.1.2.2) }
  (cols.filter fun n => let j := (v.out row n).2; j % 32 = 31 || j + 1 = v.len).foldl
    (fun d n =>
      let j := (v.out row n).2
      let blk := j / 32
      let first := n - j % 32
      let x := (List.range (j % 32 + 1)).map fun i => d.s.carried c ticket row (first + i)
      State.drainBlock d v widened row n blk x)
    { d with s := s }

/-- One element of a tile drained to BF16, FP16, FP32 or INT32 (R94, R97, R116). -/
def State.drainElem (d : Drained) (v : View) (row n : Nat) (x : BitVec 32) : Drained :=
  let (r, j) := v.out row n
  if !v.writes row n then d
  else
    let a := r + j * (elemW v.tout / 8)
    if v.tout = 10 then
      let y := if v.accum then fadd (BitVec.ofNat 32 (d.s.rdN a 4)) x else x
      { d with s := d.s.storeN a 4 y.toNat }
    else if v.tout = 11 then { d with s := d.s.storeN a 4 x.toNat }
    else
      let (rnd, s) := d.s.rounds v.rnd 1
      let y := narrowFloat v.tout (rnd 0) x
      { d with s := s.storeN a 2 y.1.toNat, sat := d.sat + ofBool y.2 }

/-- The whole tile drained. -/
def State.drainTile (s : State) (c : CoreId) (ticket : BitVec 32) (v : View) (widened : Bool) (t : TileSpec)
    (sums : List (List (BitVec 32))) : Drained :=
  (t.rows.zip sums).foldl
    (fun d x =>
      if isBlock v.tout then State.drainBlocks c ticket v widened t d x.1 x.2
      else x.2.zipIdx.foldl (fun d y => State.drainElem d v x.1 (t.n0 + y.2) y.1) d)
    { s := s, sat := 0, pip := 0, wide := 0 }

/-- Old values that ACCUM reads are uncorrectable for some element of the tile. -/
def State.accumLost (s : State) (v : View) (t : TileSpec) : Option Nat :=
  if !v.accum || (s.poisoned.isEmpty && !s.anyDead) then none
  else (t.rows.flatMap fun r => ((List.range (t.n1 - t.n0)).map fun i =>
      let (b, j) := v.out r (t.n0 + i); (b + 4 * j) / 64)).find? fun x => (s.uncorrectable [] (x * 64) 1).isSome

end Sys2Proof.Machine
end

