-- ==== Sys2Proof/Machine/Views.lean ====
section
/-! DEFINITION. The fields of the array operations' descriptors and the views and tiles they make: MATMUL (R76, R79),
MATMUL_DX and MATMUL_DW (R216 to R218), CONV and CONV_T (R185 to R195), CONV_DX and CONV_DW (R219, R220). -/

namespace Sys2Proof.Machine

/-! ### Matrix products (R76, R216) -/

/-- The fields of R76. -/
structure Mat where
  m : Nat
  k : Nat
  n : Nat
  a : Nat
  b : Nat
  c : Nat
  mask : Nat
  aStride : Nat
  bStride : Nat
  cStride : Nat
  bmask : Nat
  accum : Bool
  aPips : Bool
  bPips : Bool
  outPips : Bool
  layout : Nat
  wload : Bool
  tw : Nat
  ref : Nat

def matOf (d : Desc) : Mat where
  m := dN d 16 5
  k := dN d 21 5
  n := dN d 26 5
  a := d64 d 32
  b := d64 d 40
  c := d64 d 48
  mask := d64 d 56
  aStride := d64 d 64
  bStride := d64 d 72
  cStride := d64 d 80
  bmask := d64 d 88
  accum := dBits d 96 0 0 = 1
  aPips := dBits d 96 1 1 = 1
  bPips := dBits d 96 2 2 = 1
  outPips := dBits d 96 3 3 = 1
  layout := dBits d 96 5 4
  wload := dBits d 96 6 6 = 1
  tw := dBits d 97 6 0
  ref := dN d 98 2

/-- Pip flags only with types of 4 bits or less (R13, R77). -/
def pipOk (pips : Bool) (t : Nat) : Bool := !pips || (isBlock t && elemW t ≤ 4)

def matView (d : Desc) (g : Mat) (a b : Nat → Nat → Option Spot) (out : Nat → Nat → Nat × Nat) (len : Nat)
    (writes : Nat → Nat → Bool) : View :=
  { ta := dTypeA d, tb := dTypeB d, tout := dTypeOut d, outPips := g.outPips, accum := g.accum, ref := g.ref, len := len,
    rnd := dRnd d = 1, esc := dEsc d, a := a, b := b, out := out, writes := writes }

/-- Element (k, n) of a B in its layout (R72, R73). -/
def matB (d : Desc) (g : Mat) (n k : Nat) : Spot :=
  let tb := dTypeB d
  if g.layout = 0 then recSpot tb g.bPips g.k (localPart g.b + n * g.bStride) k
  else
    let kt := k / 256
    let nt := n / g.tw
    tileSpot tb g.bPips g.tw (localPart g.b + (nt * ceilDiv g.k 256 + kt) * tileBytes tb g.tw g.bPips) (n % g.tw) (k % 256)

def matmulView (d : Desc) : View :=
  let g := matOf d
  matView d g (fun r k => some (recSpot (dTypeA d) g.aPips g.k (localPart g.a + r * g.aStride) k))
    (fun n k => some (matB d g n k)) (fun r n => (localPart g.c + r * g.cStride, n)) g.n (fun _ _ => true)

/-- dX = dY·Wᵀ: the reduction runs over n and the columns over k (R210, R217). -/
def dxView (d : Desc) : View :=
  let g := matOf d
  matView d g (fun r n => some (recSpot (dTypeA d) g.aPips g.n (localPart g.a + r * g.aStride) n))
    (fun k n => some (matB d g n k)) (fun r k => (localPart g.c + r * g.cStride, k)) g.k (fun _ _ => true)

/-- Bit of the block mask for element (n, k) (R218). -/
def State.blockBit (s : State) (mask K n k : Nat) : Bool :=
  let b := n / 64 * ceilDiv K 64 + k / 64
  mask = 0 || (s.rdB (localPart mask + b / 8)).toNat / 2 ^ (b % 8) % 2 = 1

/-- dW = Xᵀ·dY: rows are lanes n, the reduction runs over m and the columns over k (R210, R217, R218). -/
def State.dwView (s : State) (d : Desc) : View :=
  let g := matOf d
  matView d g (fun n m => some (recSpot (dTypeA d) g.aPips g.n (localPart g.a + m * g.aStride) n))
    (fun k m => some (recSpot (dTypeB d) g.bPips g.k (localPart g.b + m * g.bStride) k))
    (fun n k => (localPart g.c + n * g.cStride, k)) g.k (fun n k => s.blockBit g.bmask g.k n k)

/-! ### Convolutions (R185 to R188) -/

/-- The fields of R188. -/
structure Geo where
  oh : Nat
  ow : Nat
  ot : Nat
  cin : Nat
  cout : Nat
  kh : Nat
  kw : Nat
  kt : Nat
  tapk : Nat
  x : Nat
  w : Nat
  y : Nat
  bmask : Nat
  xX : Nat
  yX : Nat
  xY : Nat
  yY : Nat
  xT : Nat
  yT : Nat
  accum : Bool
  xPips : Bool
  wPips : Bool
  outPips : Bool
  wload : Bool
  pfn : Nat
  sh : Nat
  sw : Nat
  st : Nat
  dh : Nat
  dw : Nat
  dt : Nat
  ih : Nat
  iw : Nat
  it : Nat
  tw : Nat
  padT : Nat
  padB : Nat
  padL : Nat
  padR : Nat
  padF : Nat
  padK : Nat
  offH : Nat
  offW : Nat
  offT : Nat
  dwStride : Nat
  padz : Bool

def geoOf (d : Desc) : Geo where
  oh := d16 d 16
  ow := d16 d 18
  ot := d16 d 20
  cin := d16 d 22
  cout := d16 d 24
  kh := dBits d 26 3 0
  kw := dBits d 26 7 4
  kt := dBits d 27 1 0
  tapk := dBits d 27 5 2
  x := d64 d 32
  w := d64 d 40
  y := d64 d 48
  bmask := d64 d 56
  xX := d32 d 64
  yX := d32 d 68
  xY := d64 d 72
  yY := d64 d 80
  xT := d32 d 88
  yT := d32 d 92
  accum := dBits d 96 0 0 = 1
  xPips := dBits d 96 1 1 = 1
  wPips := dBits d 96 2 2 = 1
  outPips := dBits d 96 3 3 = 1
  wload := dBits d 96 4 4 = 1
  pfn := dBits d 96 6 5
  sh := dBits d 97 3 0
  sw := dBits d 97 7 4
  st := dBits d 98 1 0
  dh := dBits d 99 6 0
  dw := dBits d 100 6 0
  dt := dBits d 101 1 0
  ih := d16 d 102
  iw := d16 d 104
  it := d8 d 106
  tw := dBits d 107 6 0
  padT := d8 d 108
  padB := d8 d 109
  padL := d8 d 110
  padR := d8 d 111
  padF := d8 d 112
  padK := d8 d 113
  offH := d16 d 114
  offW := d16 d 116
  offT := dBits d 118 1 0
  dwStride := d64 d 120
  padz := dPadz d

def Geo.taps (g : Geo) : Nat := g.kt * g.kh * g.kw
def Geo.cinp (g : Geo) : Nat := ceilDiv g.cin 32 * 32
def Geo.coutp (g : Geo) : Nat := ceilDiv g.cout 32 * 32
def Geo.outPixels (g : Geo) : Nat := g.ot * g.oh * g.ow
def Geo.inPixels (g : Geo) : Nat := g.it * g.ih * g.iw

/-- (t, y, x) of a pixel number, x fastest. -/
def pixel (h w p : Nat) : Nat × Nat × Nat := (p / (h * w), p / w % h, p % w)

/-- (kt, kh, kw) of a tap number (R186). -/
def Geo.tap (g : Geo) (τ : Nat) : Nat × Nat × Nat := (τ / (g.kh * g.kw), τ / g.kw % g.kh, τ % g.kw)

/-- Where a tap reads: a pixel, a pixel inside a declared band, or none (R192, R195). -/
inductive Pos where
  | at (t y x : Nat)
  | band (t y x : Nat)
  | outside
  deriving DecidableEq, Repr

def Pos.real : Pos → Bool
  | .at _ _ _ => true
  | _ => false

/-- The pixel lies in a declared band (R192). -/
def Geo.inBand (g : Geo) (t y x : Nat) : Bool :=
  g.padz && (decide (y < g.padT) || decide (g.ih ≤ y + g.padB) || decide (x < g.padL) || decide (g.iw ≤ x + g.padR) ||
    decide (t < g.padF) || decide (g.it ≤ t + g.padK))

def Geo.pos (g : Geo) (t y x : Nat) : Pos := if g.inBand t y x then .band t y x else .at t y x

/-- The input pixel of output pixel p through tap τ (R186). -/
def Geo.fwd (g : Geo) (p τ : Nat) : Pos :=
  let (ot, oy, ox) := pixel g.oh g.ow p
  let (a, b, c) := g.tap τ
  g.pos (ot * g.st + (g.offT + a) * g.dt) (oy * g.sh + (g.offH + b) * g.dh) (ox * g.sw + (g.offW + c) * g.dw)

/-- q with n = q·s and q below lim. -/
def quotIn (n : Int) (s lim : Nat) : Option Nat :=
  if n < 0 || s = 0 then none
  else if n.toNat % s = 0 && n.toNat / s < lim then some (n.toNat / s) else none

/-- The input pixel of output pixel p of CONV_T through tap τ (R195). -/
def Geo.trans (g : Geo) (p τ : Nat) : Pos :=
  let (ot, oy, ox) := pixel g.oh g.ow p
  let (a, b, c) := g.tap τ
  match quotIn ((ot : Int) + g.offT - a * g.dt) g.st g.it, quotIn ((oy : Int) + g.offH - b * g.dh) g.sh g.ih,
        quotIn ((ox : Int) + g.offW - c * g.dw) g.sw g.iw with
  | some t, some y, some x => g.pos t y x
  | _, _, _ => .outside

/-- The dY pixel that dX pixel p receives through tap τ (R220). -/
def Geo.back (g : Geo) (p τ : Nat) : Pos :=
  let (t, y, x) := pixel g.ih g.iw p
  let (a, b, c) := g.tap τ
  match quotIn ((t : Int) - (g.offT + a) * g.dt) g.st g.ot, quotIn ((y : Int) - (g.offH + b) * g.dh) g.sh g.oh,
        quotIn ((x : Int) - (g.offW + c) * g.dw) g.sw g.ow with
  | some t, some y, some x => .at t y x
  | _, _, _ => .outside

def Geo.xAt (g : Geo) (t y x : Nat) : Nat := localPart g.x + t * g.xT + y * g.xY + x * g.xX
def Geo.yAt (g : Geo) (t y x : Nat) : Nat := localPart g.y + t * g.yT + y * g.yY + x * g.yX

def Geo.yPix (g : Geo) (p : Nat) : Nat := let (t, y, x) := pixel g.oh g.ow p; g.yAt t y x
def Geo.xPix (g : Geo) (p : Nat) : Nat := let (t, y, x) := pixel g.ih g.iw p; g.xAt t y x

/-- Element (channel c of tap τ, output channel o) of the forward weight tiles (R187). -/
def Geo.wSpot (g : Geo) (tb : Nat) (o τ c : Nat) : Spot :=
  let tg := ceilDiv g.taps g.tapk
  let ctn := if 1 < g.tapk then 1 else ceilDiv g.cin 256
  let ct := if 1 < g.tapk then 0 else c / 256
  let row := if 1 < g.tapk then τ % g.tapk * g.cinp + c else c % 256
  let tile := (o / g.tw * tg + τ / g.tapk) * ctn + ct
  tileSpot tb g.wPips g.tw (localPart g.w + tile * tileBytes tb g.tw g.wPips) (o % g.tw) row

def geoView (d : Desc) (g : Geo) (a b : Nat → Nat → Option Spot) (out : Nat → Nat → Nat × Nat) (len : Nat)
    (writes : Nat → Nat → Bool) : View :=
  { ta := dTypeA d, tb := dTypeB d, tout := dTypeOut d, outPips := g.outPips, accum := g.accum, ref := 0, len := len,
    rnd := dRnd d = 1, esc := dEsc d, a := a, b := b, out := out, writes := writes }

/-- CONV and CONV_T: reduction index τ·CINP + c. `xAt` finds an input pixel's record. -/
def convView (d : Desc) (pos : Nat → Nat → Pos) (xAt : Nat → Nat → Nat → Nat) : View :=
  let g := geoOf d
  geoView d g
    (fun p k => match pos p (k / g.cinp) with
      | .at t y x => some (recSpot (dTypeA d) g.xPips g.cin (xAt t y x) (k % g.cinp))
      | _ => none)
    (fun n k => some (g.wSpot (dTypeB d) n (k / g.cinp) (k % g.cinp)))
    (fun p n => (g.yPix p, n)) g.cout (fun _ _ => true)

/-- CONV_DX: reduction index τ·COUTP + o. -/
def convDxView (d : Desc) : View :=
  let g := geoOf d
  geoView d g
    (fun p k => match g.back p (k / g.coutp) with
      | .at t y x => some (recSpot (dTypeA d) g.xPips g.cout (g.yAt t y x) (k % g.coutp))
      | _ => none)
    (fun n k => some (g.wSpot (dTypeB d) (k % g.coutp) (k / g.coutp) n))
    (fun p n => (g.xPix p, n)) g.cin (fun _ _ => true)

/-- CONV_DW: rows are lanes o, columns τ·CIN + c, and the reduction runs over output pixels. -/
def State.convDwView (s : State) (d : Desc) : View :=
  let g := geoOf d
  geoView d g
    (fun o p => some (recSpot (dTypeA d) g.xPips g.cout (g.yPix p) o))
    (fun n p => match g.fwd p (n / g.cin) with
      | .at t y x => some (recSpot (dTypeB d) g.wPips g.cin (g.xAt t y x) (n % g.cin))
      | _ => none)
    (fun o n => (localPart g.w + (n / g.cin * g.cout + o) * g.dwStride, n % g.cin)) g.cin
    (fun o n => s.blockBit g.bmask g.cin o (n % g.cin))

/-! ### Tiles of the convolutions -/

/-- Tap groups of a forward convolution: the taps of group i among the taps used (R187). -/
def Geo.tapGroups (g : Geo) : List (List Nat) := groups g.tapk (List.range g.taps)

/-- K-tiles of one tap group: blocks of channels of each tap (R187). -/
def tapTiles (cin cinp : Nat) (taps : List Nat) : List (List (List Nat)) :=
  match taps with
  | [τ] => (List.range (ceilDiv cin 256)).map fun t =>
      (blocksOf (256 * t) (min cin (256 * t + 256))).map fun b => b.map (τ * cinp + ·)
  | ts => [ts.flatMap fun τ => (blocksOf 0 cin).map fun b => b.map (τ * cinp + ·)]

/-- The taps of a group all read no pixel, for every pixel of the group (R193). -/
def elided (pos : Nat → Nat → Pos) (px taps : List Nat) : Bool := px.all fun p => taps.all fun τ => !(pos p τ).real

/-- Tiles of a convolution: parts of the pixels that no group spans, each with its tap groups; and how many passes were
elided (R190, R193, R195). -/
def convTiles (pos : Nat → Nat → Pos) (width tw n cin cinp : Nat) (parts : List (List Nat × List (List Nat))) :
    List TileSpec × Nat :=
  let ts := (List.range (ceilDiv n tw)).flatMap fun nt =>
    let n0 := nt * tw
    let n1 := min n (nt * tw + tw)
    parts.flatMap fun part =>
      (groups 1024 part.1).map fun px =>
        let live := part.2.filter fun taps => !elided pos px taps
        let dead := part.2.filter fun taps => elided pos px taps
        let count (tg : List (List Nat)) : Nat := (passesOver width tw n0 n1 (tg.flatMap (tapTiles cin cinp))).length
        ({ rows := px, n0 := n0, n1 := n1, passes := passesOver width tw n0 n1 (live.flatMap (tapTiles cin cinp)) : TileSpec },
         count dead)
  (ts.map Prod.fst, (ts.map Prod.snd).sum)

/-- Phases of R195 and R220: each phase's pixels among `px`, and the taps it uses one by one. -/
def phaseParts (g : Geo) (px : List Nat) (phase : Nat → Nat × Nat × Nat) : List (List Nat × List (List Nat)) :=
  (List.range g.st).flatMap fun a => (List.range g.sh).flatMap fun b => (List.range g.sw).map fun c =>
    (px.filter fun p => phase p == (a, b, c),
     ((List.range g.taps).filter fun τ =>
        let (i, j, k) := g.tap τ
        (i * g.dt % g.st, j * g.dh % g.sh, k * g.dw % g.sw) == (a, b, c)).map fun τ => [τ])

def Geo.transPhase (g : Geo) (p : Nat) : Nat × Nat × Nat :=
  let (t, y, x) := pixel g.oh g.ow p
  ((t + g.offT) % g.st, (y + g.offH) % g.sh, (x + g.offW) % g.sw)

def Geo.backPhase (g : Geo) (p : Nat) : Nat × Nat × Nat :=
  let (t, y, x) := pixel g.ih g.iw p
  ((((t : Int) - g.offT * g.dt) % g.st).toNat, (((y : Int) - g.offH * g.dh) % g.sh).toNat,
   (((x : Int) - g.offW * g.dw) % g.sw).toNat)

/-- Tiles of CONV_DW (R220): for each tap, each tile of input channels, each group of fed lanes, its runs of 256
output pixels that are not elided; and the passes elided. -/
def State.convDwTiles (s : State) (g : Geo) (width group : Nat) : List TileSpec × Nat :=
  let runs := groups 256 (List.range g.outPixels)
  let ts := (List.range g.taps).flatMap fun τ =>
    let live := runs.filter fun ps => ps.any fun p => (g.fwd p τ).real
    (List.range (ceilDiv g.cin width)).flatMap fun ct =>
      let c0 := ct * width
      let c1 := min g.cin (ct * width + width)
      let lanes := (List.range g.cout).filter fun o =>
        (List.range (c1 - c0)).any fun i => s.blockBit g.bmask g.cin o (c0 + i)
      (groups group lanes).map fun ls =>
        ({ rows := ls, n0 := τ * g.cin + c0, n1 := τ * g.cin + c1,
           passes := passesOver width width (τ * g.cin + c0) (τ * g.cin + c1) (live.map fun ps => groups 32 ps) : TileSpec },
         runs.length - live.length)
  (ts.map Prod.fst, (ts.map Prod.snd).sum)

/-- The view of an array operation (R79, R190, R217, R220), but for the layers of FUSED. -/
def State.plainView (s : State) (d : Desc) : View :=
  let g := geoOf d
  match dOpc d with
  | 0x10 => matmulView d
  | 0x41 => convView d g.trans g.xAt
  | 0x50 => dxView d
  | 0x51 => s.dwView d
  | 0x52 => convDxView d
  | 0x53 => s.convDwView d
  | _ => convView d g.fwd g.xAt

end Sys2Proof.Machine
end

