-- ==== Sys2Proof/Machine/Drain.lean ====
section
/-! DEFINITION. Monitors and trips (R117 to R122), the drain of vector-unit outputs (R125), the start of an array
operation's work, and what stopping, losing or completing it does (R87, R104, R444). -/

namespace Sys2Proof.Machine

/-- A tile trips (R119). -/
def State.tripped (s : State) (c : CoreId) (sat pip : Nat) : Bool :=
  let g := s.cfgOf c
  (g.escSat != 0xFFFF && decide (g.escSat.toNat < sat)) || (g.escPip != 0xFFFF && decide (g.escPip.toNat < pip))

/-- DRN_MONCNT. -/
def State.countTrips (s : State) (c : CoreId) (trips reruns : Nat) : State :=
  s.modArr c fun a => { a with trips := a.trips + BitVec.ofNat 32 trips, reruns := a.reruns + BitVec.ofNat 32 reruns }

/-- What the drain of a vector-unit result gave. -/
structure VecOut where
  s : State
  widened : Bool
  escalated : Nat
  sat : Nat
  pip : Nat

/-- An output tile that the vector unit formed, with its FP32 results. -/
abbrev VecTile := TileSpec × List (List (BitVec 32))

/-- The carry store forgets an operation. -/
def State.dropCarry (s : State) (c : CoreId) (ticket : BitVec 32) : State :=
  s.modArr c fun a => { a with carry := a.carry.filter fun x => x.1.1 ≠ ticket }

/-- The tiles of a vector-unit operation drained in order, with widening from the first trip on; the tiles already drained
are drained again at once, before any tile that is still to come (R120, R125, R179; that none was prepared is a DESIGN
CHOICE, notes/assumptions/45.md). -/
def State.vectorDrain (s : State) (c : CoreId) (ticket : BitVec 32) (v : View) (tiles : List VecTile) : VecOut :=
  let pol := s.policy c v.esc
  let may := s.mayWiden c v.esc v.tout
  let again (o : VecOut) (t : VecTile) : VecOut :=
    let d := o.s.drainTile c ticket v true t.1 t.2
    { o with s := d.s.countTrips c 0 1, escalated := o.escalated + 1, sat := o.sat + d.wide }
  let (o, _) := tiles.foldl
    (fun (x : VecOut × List VecTile) t =>
      let (o, done) := x
      let d := o.s.drainTile c ticket v o.widened t.1 t.2
      let trip := pol != 0 && d.s.tripped c d.sat d.pip
      let s := if trip then d.s.countTrips c 1 0 else d.s
      let done := done ++ [t]
      let first := trip && may && !o.widened
      let o := { o with s := s, widened := o.widened || first, sat := o.sat + (if pol = 0 then 0 else d.sat + d.wide),
                        pip := o.pip + (if pol = 0 then 0 else d.pip) }
      (if first then done.foldl again o else o, done))
    ({ s := s, widened := false, escalated := 0, sat := 0, pip := 0 }, [])
  { o with s := o.s.dropCarry c ticket }

/-! ### Array work of an operation -/

/-- FUSED fields (R198). -/
structure Fus where
  layers : Nat
  exch : Bool
  run : Nat
  lt : Nat
  up : Nat
  down : Nat
  cnt : Nat

def fusOf (d : Desc) : Fus where
  layers := dBits d 16 2 0
  exch := dBits d 17 0 0 = 1
  run := d16 d 18
  lt := d64 d 32
  up := d8 d 112
  down := d8 d 113
  cnt := d32 d 116

/-- RA_i, RB_i and SROWS_i (R198), i from 1. -/
def fusRa (d : Desc) (i : Nat) : Nat := d8 d (96 + 4 * i)
def fusRb (d : Desc) (i : Nat) : Nat := d8 d (97 + 4 * i)
def fusSrows (d : Desc) (i : Nat) : Nat := d16 d (98 + 4 * i)

/-- Where layer i + 1 finds virtual row v of its input (R202): the core whose row it is, and that core's row number; i
is 0 for the first layer, whose rows are all its own. -/
def fusRow (c : CoreId) (d : Desc) (i ohPrev v : Nat) : CoreId × Nat :=
  let f := fusOf d
  let ra := fusRa d i
  if i = 0 || !f.exch then (c, v)
  else if v < ra then ((toFin? 176 f.up).getD c, fusSrows d i - ra + v)
  else if v < ra + ohPrev then (c, v - ra)
  else ((toFin? 176 f.down).getD c, v - ra - ohPrev)

/-- The address of an input pixel of layer i + 1 (R202). -/
def fusAt (c : CoreId) (d : Desc) (i ohPrev : Nat) (g : Geo) (t v x : Nat) : Nat :=
  let (k, r) := fusRow c d i ohPrev v
  if k = c then g.xAt t v x
  else g.xAt t (fusRa d i + r) x - slotOf c + slotOf k

/-- OH of the layer before the one that runs, in pixels of its output rows. -/
def FusedWork.ohPrev (f : FusedWork) : Nat :=
  match f.layer with
  | 0 => 0
  | i + 1 => ((f.layers[i]?).map fun d => (geoOf d).oh).getD 0

/-- The view of an operation's array work: that of its descriptor, or of the layer a FUSED runs. -/
def State.viewOf (s : State) (c : CoreId) (o : Op) (a : ArrayWork) : View :=
  match o.work with
  | .fused f _ =>
    let g := geoOf a.desc
    convView a.desc g.fwd (fusAt c o.desc f.layer f.ohPrev g)
  | _ => s.plainView a.desc

/-- The first trouble among what the passes of some tiles read and write. -/
def State.viewTrouble (s : State) (c : CoreId) (v : View) (tiles : List TileSpec) (mayWiden : Bool) : Option Trouble :=
  let rd := ((tiles.flatMap fun t => t.passes.flatMap (passSectors v t)).eraseDups).findSome? fun x =>
    s.coreViolates c (x * 64) 64 false
  let n := max (recBytes v.tout v.outPips v.len) (if mayWiden then recBytes 3 false v.len else 0)
  let wr := ((tiles.flatMap fun t => t.rows.map fun r => (v.out r t.n0).1).eraseDups).findSome? fun a =>
    s.coreViolates c a n true
  match rd, wr with
  | some x, _ => some (.violation x)
  | none, some x => some (.violation x)
  | none, none => none

/-- The records that array operations in progress are still to write (R56). -/
def State.undrained (s : State) (c : CoreId) : List (Nat × Nat) :=
  (s.core c).ops.flatMap fun o =>
    match o.arr with
    | none => []
    | some a =>
      if o.phase != .running || a.left = 0 then []
      else
        let v := s.viewOf c o a
        let n := recBytes (drainType v a.widened).1 (drainType v a.widened).2 v.len
        (a.tiles.zipIdx.filter fun x => !a.lost.contains x.2).flatMap fun x => x.1.rows.map fun r => ((v.out r x.1.n0).1, n)

/-- Two ranges share a sector. -/
def sameSector (a n b m : Nat) : Bool := decide (a / 64 * 64 < up64 (b + m)) && decide (b / 64 * 64 < up64 (a + n))

/-- Writes of the vector unit to these ranges wait: an array operation that started earlier is still to write one of
their sectors (R56). -/
def State.writesWait (s : State) (c : CoreId) (ws : List (Nat × Nat)) : Bool :=
  let u := s.undrained c
  !u.isEmpty && ws.any fun w => u.any fun x => sameSector x.1 x.2 w.1 w.2

/-- The vector-unit operation that could start waits for the writes that go first (R56). -/
def State.drainFirst (s : State) (c : CoreId) (opc : Nat) (bad : BadSectors) (writes : Desc → List (Nat × Nat)) : Bool :=
  match (s.core c).startable opc with
  | none => false
  | some o => s.writesWait c (writes (s.boundsOf c bad o.desc).2)

/-- Start a vector-unit operation, once the writes that go first are made (R56). -/
def State.startVec (s : State) (c : CoreId) (opc : Nat) (bad : BadSectors) (early : Desc → Bool)
    (writes : Desc → List (Nat × Nat)) (run : State → Op → State) : State :=
  if s.drainFirst c opc bad writes then s else s.startIf c opc bad early run

/-- The sector ranges of rows of records at a global address. -/
def rowRanges (g rows stride n : Nat) : List (Nat × Nat) := (List.range rows).map fun i => (localPart g + i * stride, n)

/-- An array operation whose descriptor is legal goes into passes; with none to make it is done (R78, R79). -/
def State.startArray (s : State) (c : CoreId) (o : Op) (m k n : Nat) (tiles : List TileSpec) (elidedPasses : Nat) :
    State :=
  let w := arrayWork o.ticket o.desc m k n tiles
  let v := s.plainView o.desc
  s.unless c o [s.viewTrouble c v tiles (s.mayWiden c v.esc v.tout)] fun s =>
    let s := s.modCnv c fun u => { u with elPasses := u.elPasses + BitVec.ofNat 32 elidedPasses }
    if tiles.isEmpty then s.finish c o.ticket stDone 0
    else s.modOp c o.ticket fun o => { o with work := .array w }

/-- References of a tile removed from a list. -/
def dropRefs (ticket : BitVec 32) (tile : Nat) (xs : List PassRef) : List PassRef :=
  xs.filter fun r => !(r.ticket = ticket && r.tile = tile)

def freeBankState (b : Bank) : Bank := { b with st := .free, sums := [], sat := 0, pip := 0, dead := false, writing := 0 }

/-- The pass belongs to the tile that a bank is bound to. -/
def Bank.holds (b : Bank) (r : PassRef) : Bool := b.ticket = r.ticket && b.tile = r.tile && b.rerun = r.rerun

/-- A bank that fills for an abandoned tile: FREE at once, or once every beat that has entered has landed (R87). -/
def ArrUnit.killBank (a : ArrUnit) (b : Bank) : Bank :=
  if a.flight.any b.holds then { b with dead := true } else freeBankState b

/-! ### The weight registers and the busy period (R82 to R86) -/

/-- The layer that runs is an intermediate one. -/
def FusedWork.inter (f : FusedWork) : Bool := f.layer + 1 < f.layers.length

/-- The operation still expands into passes: some are not prepared, or layers of a stripe are to come. -/
def Op.expands (o : Op) : Bool :=
  o.phase == .running &&
  match o.work with
  | .array a => !a.todo.isEmpty
  | .fused f none => !f.waitRdone
  | .fused f (some a) => !a.todo.isEmpty || f.inter
  | _ => false

/-- WLOAD of an array operation's descriptor (R76, R188). -/
def wloadOf (d : Desc) : Bool := if dOpc d = 0x10 then (matOf d).wload else if dOpc d < 0x50 then (geoOf d).wload else false

/-- The weights a pass needs: their element width and WLOAD; none of an output tile without passes (R82, R85, R193). -/
def State.weightsOf (s : State) (c : CoreId) (r : PassRef) : Option (Nat × Bool) :=
  match s.arrOf c r.ticket with
  | none => none
  | some a => match (a.tiles[r.tile]?).bind fun t => t.passes[r.pass]? with
    | none => none
    | some _ => some (elemW (dTypeB a.desc), wloadOf a.desc)

/-- How many tiles from the front of those prepared stand in pending entries: a register of E entries holds E - 1
pending ones, E is 2 where the element width changes, and a WLOAD tile is never pending, nor any behind it (R82, R84,
R85). -/
def pendRun : Option Nat → Nat → List (Nat × Bool) → Nat
  | _, n, [] => n
  | prev, n, (w, wload) :: rest =>
    let entries := if prev = none || prev = some w then 32 / w else 2
    if wload || entries ≤ n + 1 then n else pendRun (some w) (n + 1) rest

/-- The weight bus fills the pending entries, or loads the next tile by row broadcast (R82 to R85); the busy period ends
when no tile operation is prepared or being prepared (R86). -/
def State.fillWeights (s : State) (c : CoreId) : State :=
  let k := s.core c
  let ws := k.arr.prep.filterMap fun r => s.weightsOf c r
  let more := !k.arr.prep.isEmpty || k.ops.any Op.expands
  s.modArr c fun a =>
    { a with pend := pendRun (a.active.map Prod.snd) 0 ws, busy := a.busy && more,
             bcast := match ws with
               | [] => false
               | x :: _ => x.2 }

/-- Stopped array work: passes not entered are dropped, banks that fill are abandoned and FULL ones freed (R87). -/
def State.abandon (s : State) (c : CoreId) (ticket : BitVec 32) : State :=
  (s.modArr c fun a =>
    { a with prep := a.prep.filter fun r => r.ticket ≠ ticket,
             banks := a.banks.map fun b =>
               if b.ticket ≠ ticket then b
               else if b.st == .full then freeBankState b
               else if b.st == .filling then a.killBank b
               else b,
             carry := a.carry.filter fun x => x.1.1 ≠ ticket }).fillWeights c

/-- What stopped array work still brings to its result words: passes in flight that will have completed, and the counts
of a bank that drains to its end (R86, R87, R104). -/
def ArrUnit.owed (a : ArrUnit) (ticket : BitVec 32) : List Nat :=
  let drains := a.banks.toList.filter fun b => b.st == .draining && b.ticket = ticket
  [a.flight.countP fun r => r.ticket = ticket && r.counted, 0, (drains.map Bank.sat).sum, (drains.map Bank.pip).sum]

/-- A bank still drains for the operation, or beats of its abandoned tiles are still in the array: pieces in flight
(R86, R87). -/
def Core.drainsFor (k : Core) (ticket : BitVec 32) : Bool :=
  k.arr.banks.toList.any fun b => (b.st == .draining || b.dead) && b.ticket = ticket

end Sys2Proof.Machine
end

