-- ==== Sys2Proof/Machine/Thread.lean ====
section
/-! DEFINITION. Threads: issue of an instruction (R33, R36, R38), the arithmetic, logic and control-flow instructions
and SYS (R37), and THR_CTL (R31, R32). -/

namespace Sys2Proof.Machine

/-! ### Life of a thread -/

/-- A thread set IDLE: its fault is cleared when asked, and its EXPIRED leases are freed (R31, R334). -/
def State.idleThread (s : State) (c : CoreId) (t : ThreadId) (clearFault : Bool) : State :=
  let s := s.modThread c t fun x =>
    { x with st := .idle, resetPend := false, acc := none, held := none, yielded := false, coreHeld := false,
             fault := if clearFault then { valid := false, cause := 0, addr := 0 } else x.fault }
  match s.owner c with
  | none => s
  | some p => s.modPart p fun x =>
      { x with leases := x.leases.map fun l =>
          if l.used && l.expired && l.core = c && l.thread = t then { l with used := false, expired := false } else l }

/-- The thread may issue: READY on a core that is not frozen (R31, R376). -/
def State.mayIssue (s : State) (c : CoreId) (t : ThreadId) : Bool :=
  (s.thread c t).st == .ready && !(s.core c).reg.frzCore

/-- The next instruction; running past the last one is a violation (R35). -/
def State.advance (s : State) (c : CoreId) (t : ThreadId) : State :=
  if (s.thread c t).pc = 0xFFFFF then s.freezeThread c t cPc 0
  else s.modThread c t fun x => { x with pc := x.pc + 1 }

/-- A thread that becomes READY on a frozen core is FROZEN by it (R376). -/
def State.stayFrozen (s : State) (c : CoreId) (t : ThreadId) : State :=
  if (s.core c).reg.frzCore && (s.thread c t).st == .ready then
    s.modThread c t fun x => { x with st := .frozen, coreHeld := true }
  else s

/-- The sector of the core store at which the fetch of the thread's next instruction met uncorrectable data, if it did:
what the fetch reports, and a sector that the state holds as poisoned (R35, R229). -/
def State.fetchLost (s : State) (c : CoreId) (t : ThreadId) (w : IWord) : Option Nat :=
  let a := slotOf c + 4 * (s.thread c t).pc.toNat
  s.uncorrectable (if w.lost then [a / 64] else []) a 4

/-- Issue of the instruction n of a thread, whose fetch brought w: an uncorrectable fetch freezes the thread and retires
nothing (R35), an illegal encoding freezes it whatever the guard (R36, R38), and an instruction whose guard is not met
only passes. A word that encodes another instruction is that one's event (notes/assumptions/8.md). -/
def State.issueInstr (s : State) (c : CoreId) (t : ThreadId) (n : IName) (w : IWord) (eff : State → State) : State :=
  if !s.mayIssue c t then s else
  match s.fetchLost c t w with
  | some x => (s.noteUncorrectable x).freezeThread c t cUncorrectable (x * 64)
  | none =>
    let u := (s.modCore c fun k => { k with lastThread := t }).modThread c t fun x => { x with yielded := false }
    match instrOf w with
    | none => u.freezeThread c t cIllegal 0
    | some m => if m ≠ n then s else if !(u.thread c t).guard w then u.advance c t else eff u

/-- A register result, then the next instruction. -/
def State.putReg (s : State) (c : CoreId) (t : ThreadId) (r : BitVec 6) (v : Word) : State :=
  (s.modThread c t fun x => x.setReg r v).advance c t

/-- A predicate result, then the next instruction. -/
def State.putPred (s : State) (c : CoreId) (t : ThreadId) (p : Nat) (v : Bool) : State :=
  (s.modThread c t fun x => x.setPred p v).advance c t

/-- Transfer of control to a word offset, which must lie in the core store (R35). A CALL whose target lies outside freezes
its thread with g63 unwritten (DESIGN CHOICE: R37 leaves it open, notes/assumptions/38.md). -/
def State.jump (s : State) (c : CoreId) (t : ThreadId) (target : Int) (eff : Thread → Thread) : State :=
  if 0 ≤ target && target < 2 ^ 20 then s.modThread c t fun x => { eff x with pc := BitVec.ofInt 20 target }
  else s.freezeThread c t cPc 0

/-! ### ALU (R37) -/

/-- The results of ALU by FN; 0xE and 0xF are reserved, so that no legal word has them. -/
def aluFn (fn : Nat) (a b : Word) : Word :=
  match fn with
  | 0 => a + b
  | 1 => a - b
  | 2 => a &&& b
  | 3 => a ||| b
  | 4 => a ^^^ b
  | 5 => a <<< (b.toNat % 64)
  | 6 => a >>> (b.toNat % 64)
  | 7 => a.sshiftRight (b.toNat % 64)
  | 8 => a * b
  | 9 => BitVec.ofNat 64 (a.toNat * b.toNat / 2 ^ 64)
  | 10 => if BitVec.slt a b then a else b
  | 11 => if BitVec.slt a b then b else a
  | 12 => if BitVec.ult a b then a else b
  | _ => if BitVec.ult a b then b else a

/-- rd = f ra rb, format R. -/
def State.regOp (s : State) (c : CoreId) (t : ThreadId) (n : IName) (w : IWord) (f : Word → Word → Word) : State :=
  s.issueInstr c t n w fun s =>
    let x := s.thread c t
    s.putReg c t (wRd w) (f (x.reg (wRa w)) (x.reg (wRb w)))

/-- rd = f ra imm, format I. -/
def State.immOp (s : State) (c : CoreId) (t : ThreadId) (n : IName) (w : IWord) (f : Word → Word → Word) : State :=
  s.issueInstr c t n w fun s =>
    s.putReg c t (wRd w) (f ((s.thread c t).reg (wRa w)) (wImm10 w))

def execAlu (c : CoreId) (t : ThreadId) (w : IWord) (s : State) : Host.Outcome State Fault Refusal :=
  .next (s.regOp c t .alu w (aluFn (wFn w)))

def execAddi (c : CoreId) (t : ThreadId) (w : IWord) (s : State) : Host.Outcome State Fault Refusal :=
  .next (s.immOp c t .addi w fun a i => a + i)

def execAndi (c : CoreId) (t : ThreadId) (w : IWord) (s : State) : Host.Outcome State Fault Refusal :=
  .next (s.immOp c t .andi w fun a i => a &&& i)

def execOri (c : CoreId) (t : ThreadId) (w : IWord) (s : State) : Host.Outcome State Fault Refusal :=
  .next (s.immOp c t .ori w fun a i => a ||| i)

def execXori (c : CoreId) (t : ThreadId) (w : IWord) (s : State) : Host.Outcome State Fault Refusal :=
  .next (s.immOp c t .xori w fun a i => a ^^^ i)

def execShli (c : CoreId) (t : ThreadId) (w : IWord) (s : State) : Host.Outcome State Fault Refusal :=
  .next (s.immOp c t .shli w fun a _ => a <<< wBits w 5 0)

def execShri (c : CoreId) (t : ThreadId) (w : IWord) (s : State) : Host.Outcome State Fault Refusal :=
  .next (s.immOp c t .shri w fun a _ => a >>> wBits w 5 0)

def execSrai (c : CoreId) (t : ThreadId) (w : IWord) (s : State) : Host.Outcome State Fault Refusal :=
  .next (s.immOp c t .srai w fun a _ => a.sshiftRight (wBits w 5 0))

/-! ### Predicates (R37) -/

def execCmp (c : CoreId) (t : ThreadId) (w : IWord) (s : State) : Host.Outcome State Fault Refusal :=
  .next (s.issueInstr c t .cmp w fun s =>
    let x := s.thread c t
    s.putPred c t (wBits w 18 16) ((cmpCond (wFn w) (x.reg (wRa w)) (x.reg (wRb w))).getD false))

def execCmpi (c : CoreId) (t : ThreadId) (w : IWord) (s : State) : Host.Outcome State Fault Refusal :=
  .next (s.issueInstr c t .cmpi w fun s =>
    s.putPred c t (wBits w 21 19) ((cmpCond (wBits w 18 16) ((s.thread c t).reg (wRa w)) (wImm10 w)).getD false))

def execPlog (c : CoreId) (t : ThreadId) (w : IWord) (s : State) : Host.Outcome State Fault Refusal :=
  .next (s.issueInstr c t .plog w fun s =>
    let x := s.thread c t
    s.putPred c t (wBits w 21 19) (plogFn (wBits w 12 11) (x.predicate (wBits w 18 16)) (x.predicate (wBits w 15 13))))

/-! ### Immediates (R37) -/

/-- imm16 in bits [16h + 15 : 16h] of v; the other bits are kept. -/
def movkVal (h : Nat) (imm : BitVec 16) (v : Word) : Word :=
  (v &&& ~~~((0xFFFF : Word) <<< (16 * h))) ||| (imm.setWidth 64 <<< (16 * h))

def execMovk (c : CoreId) (t : ThreadId) (w : IWord) (s : State) : Host.Outcome State Fault Refusal :=
  .next (s.issueInstr c t .movk w fun s =>
    s.putReg c t (wRd w) (movkVal (wMaj w - 0x0C) (wImm16 w) ((s.thread c t).reg (wRd w))))

def execMovs (c : CoreId) (t : ThreadId) (w : IWord) (s : State) : Host.Outcome State Fault Refusal :=
  .next (s.issueInstr c t .movs w fun s => s.putReg c t (wRd w) ((wImm16 w).signExtend 64))

/-! ### Control flow (R35, R37) -/

/-- PC + 4 × off22, as a word offset. -/
def brTarget (x : Thread) (w : IWord) : Int := (x.pc.toNat : Int) + (wOff22 w).toInt

def execBr (c : CoreId) (t : ThreadId) (w : IWord) (s : State) : Host.Outcome State Fault Refusal :=
  .next (s.issueInstr c t .br w fun s => s.jump c t (brTarget (s.thread c t) w) id)

def execCall (c : CoreId) (t : ThreadId) (w : IWord) (s : State) : Host.Outcome State Fault Refusal :=
  .next (s.issueInstr c t .call w fun s =>
    s.jump c t (brTarget (s.thread c t) w) fun x => x.setReg 63 (BitVec.ofNat 64 (x.pc.toNat * 4 + 4)))

def execJr (c : CoreId) (t : ThreadId) (w : IWord) (s : State) : Host.Outcome State Fault Refusal :=
  .next (s.issueInstr c t .jr w fun s =>
    let v := ((s.thread c t).reg (wRa w)).toNat
    if v % 4 = 0 then s.jump c t (v / 4 : Nat) id else s.freezeThread c t cPc 0)

/-! ### SYS (R37) -/

/-- HALT retires, so that THR_PC holds the next instruction. After the last word there is none: THR_PC stays at it, and
no violation is raised (DESIGN CHOICE, notes/assumptions/38.md). -/
def execHalt (c : CoreId) (t : ThreadId) (w : IWord) (s : State) : Host.Outcome State Fault Refusal :=
  .next (s.issueInstr c t .halt w fun s =>
    (s.modThread c t fun x => { x with pc := if x.pc = 0xFFFFF then x.pc else x.pc + 1 }).idleThread c t false)

def execYield (c : CoreId) (t : ThreadId) (w : IWord) (s : State) : Host.Outcome State Fault Refusal :=
  .next (s.issueInstr c t .yield w fun s => (s.modThread c t fun x => { x with yielded := true }).advance c t)

/-- CORE_CYC after a free number of further cycles (R67, notes/assumptions/3.md). -/
def State.tickCore (s : State) (c : CoreId) : State :=
  let (n, s) := s.fresh
  s.modReg c fun r => { r with cyc := r.cyc + n }

def execRdcyc (c : CoreId) (t : ThreadId) (w : IWord) (s : State) : Host.Outcome State Fault Refusal :=
  .next (s.issueInstr c t .rdcyc w fun s =>
    let s := s.tickCore c
    s.putReg c t (wRd w) (s.core c).reg.cyc)

def execRdid (c : CoreId) (t : ThreadId) (w : IWord) (s : State) : Host.Outcome State Fault Refusal :=
  .next (s.issueInstr c t .rdid w fun s => s.putReg c t (wRd w) (BitVec.ofNat 64 (threadName c t)))

def execRdpart (c : CoreId) (t : ThreadId) (w : IWord) (s : State) : Host.Outcome State Fault Refusal :=
  .next (s.issueInstr c t .rdpart w fun s =>
    s.putReg c t (wRd w) (BitVec.ofNat 64 ((s.owner c).map Fin.val |>.getD 0)))

/-! ### THR_CTL (R31, R32) -/

/-- The master may write START and RESET of a thread of core c (R32). -/
def State.mayControl (s : State) (m : Master) (c : CoreId) : Bool :=
  match m with
  | .thread c' _ => (s.owner c').isSome && s.owner c' = s.owner c
  | .session i => (s.sess i).isOpen && (match s.owner c with
      | some p => (s.sess i).holds p
      | none => (s.sess i).maint)
  | .pctl p => s.owner c = some p
  | .mctl => false

/-- START of a thread: only an IDLE one starts, and the controller of a held partition starts none (R31, R32, R314). -/
def State.startThread (s : State) (m : Master) (c : CoreId) (t : ThreadId) : State :=
  let held := match m with
    | .pctl p => (s.part p).st == .held
    | _ => false
  if s.mayControl m c && (s.thread c t).st == .idle && !held then
    s.modThread c t fun x => { x with st := .ready }
  else s

/-- RESET of a thread by its state (R31, R32). -/
def State.resetThread (s : State) (m : Master) (c : CoreId) (t : ThreadId) : State :=
  if !s.mayControl m c then s else
  let x := s.thread c t
  let ctl := match m with
    | .pctl _ => true
    | _ => false
  match x.st with
  | .idle => s.idleThread c t true
  | .frozen => if ctl then s.idleThread c t true else s
  | .waitMem => s.modThread c t fun x => { x with resetPend := true }
  | _ => s.idleThread c t false

/-- A write of THR_CTL, judged against the thread's state when it arrives: on an IDLE thread RESET acts first and then
START (R32). -/
def State.writeThrCtl (s : State) (m : Master) (c : CoreId) (t : ThreadId) (v : Word) : State :=
  let wasIdle := (s.thread c t).st == .idle
  let s := if v.getLsbD 9 then s.resetThread m c t else s
  if v.getLsbD 8 && wasIdle then s.startThread m c t else s

def execThrCtlStart (m : Master) (c : CoreId) (t : ThreadId) (s : State) : Host.Outcome State Fault Refusal :=
  .next (s.startThread m c t)

def execThrCtlReset (m : Master) (c : CoreId) (t : ThreadId) (s : State) : Host.Outcome State Fault Refusal :=
  .next (s.resetThread m c t)

end Sys2Proof.Machine
end

