-- ==== Sys2Proof/Machine/Issue.lean ====
section
/-! DEFINITION. TISS, TWAIT and TPOLL (R44, R45, R50, R61). -/

namespace Sys2Proof.Machine

/-- A store of the thread to this module is not yet performed. TISS releases at scope MODULE (R61), so it waits for
these; remote stores are not covered. -/
def Thread.localStores (s : State) (x : Thread) : Bool := x.stores.any fun y => s.isLocal y.addr.toNat

/-- TISS retires with its ticket and takes a slot. -/
def State.takeSlot (s : State) (c : CoreId) (t : ThreadId) (rd : BitVec 6) (d : Desc) (bad : Bool) : State :=
  let ticket := (s.core c).next
  let s := s.modCore c fun k => k.issue d bad (byThread d)
  (s.modThread c t fun x => { x.setReg rd (ticket.setWidth 64) with st := .ready }).advance c t

/-- TISS retires: the descriptor is read as an access of the thread (R44, R45). An address at which no descriptor may
lie makes an operation of an unreadable, all-zero descriptor, which is reserved (notes/assumptions/15.md). -/
def State.retireTiss (s : State) (c : CoreId) (t : ThreadId) (rd : BitVec 6) (addr : Word) (bad : BadSectors) : State :=
  let g := addr.toNat
  let a := localPart g
  if a % 64 ≠ 0 || !s.isLocal g || !inNearOrStore c a 128 then s.takeSlot c t rd 0 true
  else if inNear a 128 && (s.coreViolates c a 128 false).isSome then s.freezeThread c t cAddress a
  else match s.uncorrectable bad a 128 with
    | some x => (s.noteUncorrectable x).freezeThread c t cUncorrectable (x * 64)
    | none =>
      let d := descOf (s.rd a 128)
      if s.crecOutside c d then s.freezeThread c t cAddress (dCrec d)
      else s.takeSlot c t rd d (headerBad c d true)

def execTiss (c : CoreId) (t : ThreadId) (w : IWord) (bad : BadSectors) (s : State) : Host.Outcome State Fault Refusal :=
  .next (s.issueInstr c t .tiss w fun u =>
    let a := (u.thread c t).reg (wRa w)
    if (s.thread c t).localStores s then s
    else if (u.core c).slotFree then u.retireTiss c t (wRd w) a bad
    else u.modThread c t fun x => { x with st := .waitIssue, tissRd := wRd w, tissAddr := a })

/-- The operation bound to token t that is still incomplete (R50). -/
def Core.boundOp (k : Core) (t : Nat) : Option (BitVec 32) := (k.waitOn t).1

/-- The status a token retains, 0 if it was never bound (R50). -/
def Core.tokenStatus (k : Core) (t : Nat) : Word := ((k.waitOn t).2).setWidth 64

def execTwait (c : CoreId) (t : ThreadId) (w : IWord) (s : State) : Host.Outcome State Fault Refusal :=
  .next (s.issueInstr c t .twait w fun s =>
    match (s.core c).boundOp (wBits w 6 0) with
    | none => s.putReg c t (wRd w) ((s.core c).tokenStatus (wBits w 6 0))
    | some k => s.modThread c t fun x => { x with st := .waitToken, tokTicket := k, tokRd := wRd w })

def execTpoll (c : CoreId) (t : ThreadId) (w : IWord) (s : State) : Host.Outcome State Fault Refusal :=
  .next (s.issueInstr c t .tpoll w fun s =>
    match (s.core c).boundOp (wBits w 6 0) with
    | none =>
      let v := (s.core c).tokenStatus (wBits w 6 0)
      (s.modThread c t fun x => x.setPred (wBits w 9 7) true).putReg c t (wRd w) v
    | some _ => (s.modThread c t fun x => x.setPred (wBits w 9 7) false).putReg c t (wRd w) 0)

end Sys2Proof.Machine
end

