-- ==== Sys2Proof/Machine/Adder.lean ====
section
/-! DEFINITION. The memory-side adders (R257) and atomics (R37, R39). -/

namespace Sys2Proof.Machine

/-- Bytes of an element by ETYPE: FP32, BF16, INT32, INT64. -/
def etypeBytes (e : Nat) : Nat := if e = 1 then 2 else if e = 3 then 8 else 4

/-- FN(DST, SRC) on one element (R257); `mx` is FN. -/
def addElem (e : Nat) (mx : Bool) (old new : Nat) : Nat :=
  match e with
  | 0 =>
    let a := BitVec.ofNat 32 old
    let b := BitVec.ofNat 32 new
    (if mx then fmax 0x7FC00000 a b else toF32c ((decF32 a).add (decF32 b))).toNat
  | 1 =>
    let a := decBf16 (BitVec.ofNat 16 old)
    let b := decBf16 (BitVec.ofNat 16 new)
    (if mx then (if a.isNan || b.isNan then 0x7FC0 else if a.lt b then BitVec.ofNat 16 new else BitVec.ofNat 16 old)
     else toBf16c (a.add b)).toNat
  | 2 =>
    let a := BitVec.ofNat 32 old
    let b := BitVec.ofNat 32 new
    (if mx then (if BitVec.slt a b then b else a) else a + b).toNat
  | _ =>
    let a := BitVec.ofNat 64 old
    let b := BitVec.ofNat 64 new
    (if mx then (if BitVec.slt a b then b else a) else a + b).toNat

/-- Elements of bytes. -/
def elemsOf (n : Nat) (bs : List Byte) : List Nat :=
  (List.range (bs.length / n)).map fun i => leNat ((bs.drop (i * n)).take n)

/-- The adder at an address: every element of `bs` enters (R257). -/
def State.addInto (s : State) (a : Nat) (e : Nat) (mx : Bool) (bs : List Byte) : State :=
  let n := etypeBytes e
  s.store a ((elemsOf n bs).zipIdx.flatMap fun x => leBytes n (addElem e mx (s.rdN (a + n * x.2) n) x.1))

/-- ETYPE and FN as a BADD message carries them, in FN[2:0]. -/
def badFn (e : Nat) (mx : Bool) : BitVec 3 := BitVec.ofNat 3 (e + 4 * ofBool mx)

/-- The new value of an AMO64 or AMO32 word of n bytes: 0 add, 1 swap, 2 compare and swap, 3 signed max (R37). -/
def amoNew (n fn old rb cmp : Nat) : Nat :=
  let m := 2 ^ (8 * n)
  match fn with
  | 0 => (old + rb) % m
  | 1 => rb % m
  | 2 => if old = cmp % m then rb % m else old
  | _ =>
    let sgn (x : Nat) : Int := if m / 2 ≤ x % m then (x % m : Nat) - (m : Int) else (x % m : Nat)
    if sgn old < sgn rb then rb % m else old

/-- The new word of AMOF: FP32 add, or a paired BF16 add (R37). -/
def amofNew (fn old rb : Nat) : Nat :=
  if fn = 0 then addElem 0 false old (rb % 2 ^ 32)
  else addElem 1 false (old % 65536) (rb % 65536) + 65536 * addElem 1 false (old / 65536 % 65536) (rb / 65536 % 65536)

end Sys2Proof.Machine
end

