-- ==== Sys2Proof/Machine/Xfer.lean ====
section
/-! DEFINITION. Transfers of the tier mover port (R43, R53, R278): ranges of this module in one step, other modules by
messages of up to 256 bytes. One message of an operation is in flight at a time (notes/assumptions/14.md). -/

namespace Sys2Proof.Machine

def cpy (src dst len : Nat) : Xfer := { kind := .copy, src := src, dst := dst, len := len, pos := 0 }
def wordTo (dst : Nat) (v : Nat) : Xfer := { kind := .word (BitVec.ofNat 64 v), src := 0, dst := dst, len := 8, pos := 0 }
def bumpAt (dst : Nat) : Xfer := { kind := .bump, src := 0, dst := dst, len := 8, pos := 0 }
def addTo (f : BitVec 3) (src dst len : Nat) : Xfer := { kind := .adder f, src := src, dst := dst, len := len, pos := 0 }

/-- The function and order byte of an atomic message: FN, ORD, and which instruction it came from (the specification
gives no such code: notes/assumptions/14.md): 0 AMO64, 1 AMO32, 2 AMOF, 3 SEM acquire, 4 SEM release. -/
def amoByte (kind : Nat) (fn ord : Nat) : Byte := BitVec.ofNat 8 (kind * 16 + fn * 4 + ord)

/-- n bytes of a repeated word from offset pos (R43). -/
def patBytes (pat : Word) (pos n : Nat) : List Byte :=
  (List.range n).map fun i => pat.extractLsb' (8 * ((pos + i) % 8)) 8

/-- The trouble of a range at a global address: R25 here, or the sender's checks of a remote access (R27, R277). -/
def State.globalTrouble (s : State) (c : CoreId) (bad : BadSectors) (g n : Nat) (wr : Bool) : Option Trouble :=
  if n = 0 then none
  else if s.isLocal g then
    if wr then s.writeTrouble c (localPart g) n else s.readTrouble c bad (localPart g) n
  else match s.owner c with
    | some p => if s.mayRemote p g then none else some (.violation (localPart g))
    | none => some (.violation (localPart g))

/-- The transfer reads its source from memory. -/
def Xfer.reads (x : Xfer) : Bool :=
  match x.kind with
  | .copy => true
  | .adder _ => true
  | _ => false

/-- The transfer reads its destination to change it. -/
def Xfer.updates (x : Xfer) : Bool :=
  match x.kind with
  | .adder _ => true
  | .bump => true
  | .cursor _ _ _ _ _ _ => true
  | _ => false

/-- The first uncorrectable sector that the transfer reads here (R229). -/
def State.xferLost (s : State) (bad : BadSectors) (x : Xfer) : Option Nat :=
  match if x.reads && s.isLocal x.src then s.uncorrectable bad (localPart x.src) x.len else none with
  | some y => some y
  | none => if x.updates && s.isLocal x.dst then s.uncorrectable bad (localPart x.dst) x.len else none

/-- Every end of the transfer lies here. -/
def State.xferHere (s : State) (x : Xfer) : Bool := s.isLocal x.dst && (!x.reads || s.isLocal x.src)

/-- Bytes of the next message: at most 256, none crossing a 256-byte line of a remote address (R278). -/
def State.chunkLen (s : State) (x : Xfer) : Nat :=
  let left := x.len - x.pos
  let cut (g : Nat) : Nat := if s.isLocal g then left else 256 - (g + x.pos) % 256
  min left (min (if x.reads then cut x.src else left) (cut x.dst))

/-- The die whose pair a message of an operation takes: its core's, or with PAIRS = 1 each pair in turn, by 256-byte
message (R274, R288). -/
def State.msgDie (s : State) (c : CoreId) (ticket : BitVec 32) (op : Byte) (g : Nat) : PortId :=
  match s.findOp c ticket with
  | some o =>
    if (op = opBwrite || op = opBadd) && 0x70 ≤ dOpc o.desc && dOpc o.desc ≤ 0x72 && dBits o.desc 97 0 0 = 1 then
      (if g / 256 % 2 = 0 then 0 else 1)
    else dieOfCore c
  | none => dieOfCore c

/-- An operation's request to another module; the operation holds its tag. -/
def State.opRequest (s : State) (c : CoreId) (ticket : BitVec 32) (op fn : Byte) (g len : Nat) (data : List Byte) : State :=
  match s.owner c with
  | none => s
  | some p =>
    let (tag, s) := s.request p (s.msgDie c ticket op g) (.op c ticket) op fn g len data
    s.modOp c ticket fun o => { o with tags := o.tags ++ [tag] }

/-- A control block of another module read for a collective (R286). -/
def recordAt (g : Nat) : Xfer := { kind := .record, src := 0, dst := g, len := 64, pos := 0 }

/-- How the transfers of an operation stand. -/
inductive XRes where
  | done
  | waiting
  | lost (sector : Nat)
  deriving DecidableEq, Repr

def State.setXfers (s : State) (c : CoreId) (ticket : BitVec 32) (xs : List Xfer) : State :=
  s.modOp c ticket fun o => { o with xfers := xs }

/-- The n-th count of a scripted operation raised by one. -/
def State.countScript (s : State) (c : CoreId) (ticket : BitVec 32) (n : Nat) : State :=
  s.modOp c ticket fun o => match o.work with
    | .script xs => { o with work := .script (xs.set n (xs.getD n 0 + 1)) }
    | _ => o

/-- A cursor gave slot k (R291): the row and its origin word, or an overflow. -/
def cursorNext (base stride cap src rbytes origin k : Nat) : List Xfer :=
  if cap ≤ k then [] else [cpy src (base + k * stride) rbytes, wordTo (base + cap * stride + 8 * k) origin]

/-- A transfer whose every end lies here, performed (R257, R286, R291): the state, and the transfers that follow from
it. -/
def State.doHere (s : State) (c : CoreId) (ticket : BitVec 32) (x : Xfer) : State × List Xfer :=
  let a := localPart x.dst
  match x.kind with
  | .copy => (s.store a (s.rd (localPart x.src) x.len), [])
  | .fill pat => (s.store a (patBytes pat 0 x.len), [])
  | .adder f => (s.addInto a (f.toNat % 4) (f.getLsbD 2) (s.rd (localPart x.src) x.len), [])
  | .word v => (s.storeN a 8 v.toNat, [])
  | .bump => (s.storeN a 8 ((s.rdN a 8 + 1) % 2 ^ 64), [])
  | .record => (s, [])
  | .shard _ _ => (s, [])
  | .cursor base stride cap src rbytes origin =>
    let k := s.rdN a 8
    let s := s.storeN a 8 ((k + 1) % 2 ^ 64)
    (s.countScript c ticket (if cap ≤ k then 2 else 0), cursorNext base stride cap src rbytes origin k)

/-- The first message of what is left of a transfer that has a remote end. -/
def State.sendXfer (s : State) (c : CoreId) (ticket : BitVec 32) (x : Xfer) : State :=
  let n := s.chunkLen x
  match x.kind with
  | .copy =>
    if s.isLocal x.src then
      s.opRequest c ticket opBwrite 0 (x.dst + x.pos) n (s.rd (localPart x.src + x.pos) n)
    else s.opRequest c ticket opRead 0 (x.src + x.pos) n []
  | .fill pat => s.opRequest c ticket opBwrite 0 (x.dst + x.pos) n (patBytes pat x.pos n)
  | .adder f =>
    if s.isLocal x.src then
      s.opRequest c ticket opBadd (f.setWidth 8) (x.dst + x.pos) n (s.rd (localPart x.src + x.pos) n)
    else s.opRequest c ticket opRead 0 (x.src + x.pos) n []
  | .word v => s.opRequest c ticket opWrite 0 x.dst 8 (leBytes 8 v.toNat)
  | .bump => s.opRequest c ticket opAmo (amoByte 0 0 2) x.dst 8 (leBytes 8 1)
  | .record => s.opRequest c ticket opRead 0 x.dst 64 []
  | .shard fn xs => s.opRequest c ticket opAmo fn x.dst (8 * xs.length) (xs.flatMap (leBytes 8))
  | .cursor _ _ _ _ _ _ => s.opRequest c ticket opAmo (amoByte 0 0 0) x.dst 8 (leBytes 8 1)

/-- Transfers in turn, until one waits for another module or cannot read its source. -/
def State.runXfersN (s : State) (c : CoreId) (ticket : BitVec 32) (bad : BadSectors) : Nat → List Xfer → XRes × State
  | 0, xs => (if xs.isEmpty then .done else .waiting, s.setXfers c ticket xs)
  | n + 1, xs =>
    match xs with
    | [] => (.done, s.setXfers c ticket [])
    | x :: rest =>
      if x.len = 0 then s.runXfersN c ticket bad n rest
      else
        match s.xferLost bad x with
        | some y => (.lost y, s.setXfers c ticket xs)
        | none =>
          if s.xferHere x then
            let (s, more) := s.doHere c ticket x
            s.runXfersN c ticket bad n (more ++ rest)
          else (.waiting, (s.setXfers c ticket xs).sendXfer c ticket x)

/-- Start or go on with an operation's transfers; each cursor gives at most two more. -/
def State.runXfers (s : State) (c : CoreId) (ticket : BitVec 32) (bad : BadSectors) (xs : List Xfer) : XRes × State :=
  s.runXfersN c ticket bad (3 * xs.length + 1) xs

/-- The trouble of all ranges of some transfers. -/
def State.xfersTrouble (s : State) (c : CoreId) (bad : BadSectors) (xs : List Xfer) : Option Trouble :=
  match xs.findSome? fun x => s.globalTrouble c [] x.dst x.len true with
  | some t => some t
  | none => xs.findSome? fun x => if x.reads then s.globalTrouble c bad x.src x.len false else none

end Sys2Proof.Machine
end

