-- ==== Sys2Proof/Machine/Move.lean ====
section
/-! DEFINITION. NOP, COPY and FILL (R42, R43), copies to and from other modules by messages of up to 256 bytes (R278),
and the commit of a claimed tile, which copies under the same rule (R260). -/

namespace Sys2Proof.Machine

/-- Every code field beside the operation, its order and its bounds mode is zero (R43, R262). -/
def plainHeader (d : Desc) : Bool :=
  dTypeA d = 0 && dTypeB d = 0 && dTypeOut d = 0 && dTmode d = 0 && dRnd d = 0 && !dPadz d && dEsc d = 0

def execNop (c : CoreId) (s : State) : Host.Outcome State Fault Refusal :=
  .next (s.startOp c 0x01 [] fun s o =>
    if plainHeader o.desc && onlyFields o.desc [] then s.finish c o.ticket stDone 0 else s.badDesc c o)

/-! ### Tumbler entries (R258) -/

def claimAt (tumb e : Nat) : Nat := tumb + 64 + 16 * e

structure Claim where
  index : Nat
  epoch : Nat
  core : Nat
  valid : Bool
  deriving DecidableEq, Repr

def State.claim (s : State) (tumb e : Nat) : Claim :=
  let a := claimAt tumb e
  { index := s.rdN a 6, epoch := s.rdN (a + 6) 2, core := (s.rdB (a + 8)).toNat, valid := (s.rdB (a + 9)).toNat % 2 = 1 }

def State.setClaim (s : State) (tumb e : Nat) (x : Claim) : State :=
  s.write (claimAt tumb e) (leBytes 6 x.index ++ leBytes 2 x.epoch ++ leBytes 1 x.core ++ leBytes 1 (ofBool x.valid))

/-- The entry of an index, epoch and core (R260). -/
def State.findClaim (s : State) (tumb index epoch core : Nat) : Option Nat :=
  (List.range 252).find? fun e =>
    let x := s.claim tumb e
    x.valid && x.index = index && x.epoch = epoch && x.core = core

/-- EPOCH of the tumbler, bits [63:48] of its first word. -/
def State.tumbEpoch (s : State) (tumb : Nat) : Nat := s.rdN (tumb + 6) 2

def State.tumbNext (s : State) (tumb : Nat) : Nat := s.rdN tumb 6

/-- Entries that satisfy p become unassigned at the next epoch, and the tumbler's EPOCH rises once (R260). -/
def State.reissueClaims (s : State) (tumb : Nat) (p : Claim → Bool) : State :=
  let e := s.tumbEpoch tumb
  if (List.range 252).any fun i => (s.claim tumb i).valid && p (s.claim tumb i) then
    let s := s.each (List.range 252) fun s i =>
      let x := s.claim tumb i
      if x.valid && p x then s.setClaim tumb i { x with core := 0xFF, epoch := (e + 1) % 65536 } else s
    s.writeN (tumb + 6) 2 ((e + 1) % 65536)
  else s

/-! ### The end of a transfer -/

/-- The status and result words of a prefetch schedule whose entries `done` are complete (R256). -/
def pfResult (done : List (Nat × Status)) : Status × BitVec 128 :=
  let bad := done.filter fun x => isFailure x.2
  let first := (bad.map Prod.fst).min?
  let st := match first with
    | some i => ((bad.find? fun x => x.1 = i).map Prod.snd).getD stDone
    | none => stDone
  (st, resultOf (leBytes 4 done.length ++ leBytes 4 bad.length ++ leBytes 4 (first.getD 0xFFFFFFFF)))

/-- Two ranges of global addresses share a byte. -/
def overlap (a n b m : Nat) : Bool := n ≠ 0 && m ≠ 0 && a < b + m && b < a + n

/-- Every byte is performed: COPY and FILL complete, and CLAIM_COPY clears its entry (R43, R260, R262). -/
def State.copyDone (s : State) (c : CoreId) (o : Op) : State :=
  let d := o.desc
  if dOpc d = 0x6A then
    let tumb := localPart (d64 d 32)
    let s := match s.findClaim tumb (dN d 24 6) (dN d 30 2) c.val with
      | some e => s.setClaim tumb e { index := 0, epoch := 0, core := 0, valid := false }
      | none => s
    s.finish c o.ticket stDone (resultOf (leBytes 8 (d64 d 16)))
  else s.finish c o.ticket stDone 0

/-- A transfer that cannot read or reach its data: a commit's entry is re-issued (R260). -/
def State.copyFailed (s : State) (c : CoreId) (o : Op) (st : Status) : State :=
  let s := if dOpc o.desc = 0x6A then
      s.reissueClaims (localPart (d64 o.desc 32)) fun x =>
        x.index = dN o.desc 24 6 && x.epoch = dN o.desc 30 2 && x.core = c.val
    else s
  s.finish c o.ticket st 0

/-- The transfer of COPY, FILL or CLAIM_COPY, whose fields are legal. A source that cannot be read ends it
RESOURCE_RETIRED. -/
def State.copyRun (s : State) (c : CoreId) (o : Op) (bad : BadSectors) (x : Xfer) : State :=
  match s.xfersTrouble c [] [x] with
  | some (.violation a) => s.trouble c o (.violation a)
  | _ =>
    match s.runXfers c o.ticket bad [x] with
    | (.done, s) => s.copyDone c o
    | (.waiting, s) => s
    | (.lost y, s) => (s.noteUncorrectable y).copyFailed c o stRetired

/-- The fields of COPY (R43). -/
def copyLegal (d : Desc) : Bool :=
  plainHeader d && onlyFields d [(16, 8), (32, 8), (40, 8)] && 1 ≤ d64 d 16 && d64 d 16 ≤ 2 ^ 40 &&
  !overlap (d64 d 32) (d64 d 16) (d64 d 40) (d64 d 16) &&
  byteSpace (localPart (d64 d 32)) (d64 d 16) && byteSpace (localPart (d64 d 40)) (d64 d 16)

def execCopy (c : CoreId) (bad : BadSectors) (s : State) : Host.Outcome State Fault Refusal :=
  .next (s.startOp c 0x02 bad fun s o =>
    let d := o.desc
    if copyLegal d then s.copyRun c o bad (cpy (d64 d 32) (d64 d 40) (d64 d 16)) else s.badDesc c o)

/-- The fields of FILL (R43); SRC is reserved. -/
def fillLegal (d : Desc) : Bool :=
  plainHeader d && onlyFields d [(16, 8), (40, 8), (96, 8)] && 1 ≤ d64 d 16 && d64 d 16 ≤ 2 ^ 40 &&
  byteSpace (localPart (d64 d 40)) (d64 d 16)

def execFill (c : CoreId) (s : State) : Host.Outcome State Fault Refusal :=
  .next (s.startOp c 0x03 [] fun s o =>
    let d := o.desc
    if fillLegal d then
      s.copyRun c o [] { kind := .fill (BitVec.ofNat 64 (d64 d 96)), src := 0, dst := d64 d 40, len := d64 d 16, pos := 0 }
    else s.badDesc c o)

end Sys2Proof.Machine
end

