-- ==== Sys2Proof/Machine/Legal.lean ====
section
/-! DEFINITION. When the descriptor of an array operation or of POOL is legal: R74, R77, R94, R121 for matrix products,
R189 for convolutions, R215 to R219 for the backward products. -/

namespace Sys2Proof.Machine

/-- Two ranges at local addresses share a byte. -/
def overlaps (a n b m : Nat) : Bool := overlap (localPart a) n (localPart b) m

/-- The padded extent that C's stride and the overlap check use (R77, R121). -/
def State.outExtent (s : State) (c : CoreId) (d : Desc) (pips : Bool) (L : Nat) : Nat :=
  max (extent (dTypeOut d) pips L) (if s.mayWiden c (dEsc d) (dTypeOut d) then extent 3 false L else 0)

/-- Lanes of a TXB group (R214). -/
def lTxb (t : Nat) : Nat := if isBlock t then 65536 / (32 * elemW t + 8) / 32 * 32 else 128

/-- The types that may use the TXB (R214). -/
def txbType (t : Nat) : Bool := t ≤ 5 || t = 8 || t = 9

/-- The route of an operation with an ACROSS streaming operand (R215): FETCH is 1, TXB is 2. -/
def State.route (s : State) (c : CoreId) (d : Desc) (own : Bool) : Option Nat :=
  let txb := own && txbType (dTypeA d)
  match dTmode d with
  | 0 => none
  | 1 => some 1
  | 2 => if txb then some 2 else none
  | _ => if (s.cfgOf c).route = 2 && txb then some 2 else some 1

/-- Lanes per group of a route (R213). -/
def groupOf (d : Desc) (route : Nat) : Nat := if route = 2 then lTxb (dTypeA d) else 1024

/-! ### Matrix products -/

/-- Bytes from B's first record or tile to its last (R72, R73). -/
def bBytes (d : Desc) (g : Mat) : Nat :=
  if g.layout = 0 then rowsExtent g.n g.bStride (extent (dTypeB d) g.bPips g.k)
  else ceilDiv g.k 256 * ceilDiv g.n (max 1 g.tw) * tileBytes (dTypeB d) g.tw g.bPips

/-- What MATMUL and its backward products share of R77. -/
def matCommon (d : Desc) (g : Mat) : Bool :=
  d8 d 31 = 0 && dBits d 96 7 7 = 0 && dBits d 97 7 7 = 0 && g.m ≤ 2 ^ 32 && g.k ≤ 2 ^ 32 && g.n ≤ 2 ^ 32 &&
  g.layout ≤ 1 && pairLegal (dTypeA d) (dTypeB d) && outLegal (dTypeA d) (dTypeB d) (dTypeOut d) &&
  pipOk g.aPips (dTypeA d) && pipOk g.bPips (dTypeB d) && pipOk g.outPips (dTypeOut d) && !dPadz d &&
  (!g.accum || dTypeOut d = 10) && (if g.layout = 0 then g.tw = 0 else 1 ≤ g.tw && g.tw ≤ 64 && g.bStride = 0)

/-- B is legal where W is read (MATMUL, MATMUL_DX). -/
def State.wOk (s : State) (c : CoreId) (d : Desc) (g : Mat) : Bool :=
  if g.layout = 0 then s.rowsOk c g.b g.n g.bStride (extent (dTypeB d) g.bPips g.k)
  else g.b % 64 = 0 && s.areaOk c g.b (bBytes d g)

/-- A mask of n bits at a, or none (R74). -/
def State.maskOk (s : State) (c : CoreId) (a n : Nat) : Bool :=
  a = 0 || (a % 64 = 0 && s.areaOk c a (up64 (ceilDiv n 8)))

def State.matmulLegal (s : State) (c : CoreId) (d : Desc) : Bool :=
  let g := matOf d
  let ea := extent (dTypeA d) g.aPips g.k
  let ec := s.outExtent c d g.outPips g.n
  let nc := rowsExtent g.m g.cStride ec
  matCommon d g && onlyFields d [(16, 15), (32, 56), (96, 4)] && dTmode d = 0 &&
  (if dTypeOut d = 11 then g.ref ≤ 510 else g.ref = 0) &&
  s.rowsOk c g.a g.m g.aStride ea && s.wOk c d g && s.rowsOk c g.c g.m g.cStride ec && s.maskOk c g.mask g.m &&
  !overlaps g.c nc g.a (rowsExtent g.m g.aStride ea) && !overlaps g.c nc g.b (bBytes d g) &&
  !(g.mask != 0 && overlaps g.c nc g.mask (up64 (ceilDiv g.m 8)))

def State.dxLegal (s : State) (c : CoreId) (d : Desc) : Bool :=
  let g := matOf d
  let ea := extent (dTypeA d) g.aPips g.n
  let ec := s.outExtent c d g.outPips g.k
  let nc := rowsExtent g.m g.cStride ec
  matCommon d g && onlyFields d [(16, 15), (32, 56), (96, 2)] && dTmode d = 0 && dTypeOut d ≤ 10 && !g.wload &&
  s.rowsOk c g.a g.m g.aStride ea && s.wOk c d g && s.rowsOk c g.c g.m g.cStride ec && s.maskOk c g.mask g.m &&
  !overlaps g.c nc g.a (rowsExtent g.m g.aStride ea) && !overlaps g.c nc g.b (bBytes d g) &&
  !(g.mask != 0 && overlaps g.c nc g.mask (up64 (ceilDiv g.m 8)))

/-- Bits of MATMUL_DW's block mask (R218). -/
def Mat.blockBits (g : Mat) : Nat := ceilDiv g.n 64 * ceilDiv g.k 64

def State.dwLegal (s : State) (c : CoreId) (d : Desc) : Bool :=
  let g := matOf d
  let ea := extent (dTypeA d) g.aPips g.n
  let eb := extent (dTypeB d) g.bPips g.k
  let ec := s.outExtent c d g.outPips g.k
  let nc := rowsExtent g.n g.cStride ec
  matCommon d g && onlyFields d [(16, 15), (32, 64), (96, 2)] && dTypeOut d ≤ 10 && !g.wload && g.layout = 0 &&
  (s.route c d (ownStore c g.a (rowsExtent g.m g.aStride ea))).isSome &&
  s.rowsOk c g.a g.m g.aStride ea && s.rowsOk c g.b g.m g.bStride eb && s.rowsOk c g.c g.n g.cStride ec &&
  s.maskOk c g.mask g.n && s.maskOk c g.bmask g.blockBits &&
  !overlaps g.c nc g.a (rowsExtent g.m g.aStride ea) && !overlaps g.c nc g.b (rowsExtent g.m g.bStride eb) &&
  !(g.mask != 0 && overlaps g.c nc g.mask (up64 (ceilDiv g.n 8))) &&
  !(g.bmask != 0 && overlaps g.c nc g.bmask (up64 (ceilDiv g.blockBits 8)))

/-! ### Convolutions -/

/-- Bytes from the first pixel of a tensor to the end of its last. -/
def tensorBytes (t h w sT sY sX ext : Nat) : Nat :=
  if t = 0 || h = 0 || w = 0 then 0 else (t - 1) * sT + (h - 1) * sY + (w - 1) * sX + ext

/-- Alignment and strides of a tensor (R74, R185). -/
def tensorOk (a sT sY sX ext : Nat) : Bool := a % 64 = 0 && sT % 64 = 0 && sY % 64 = 0 && sX % 64 = 0 && ext ≤ sX

/-- Every read of the forward geometry lies inside the tensor (R186). -/
def Geo.readsInside (g : Geo) : Bool :=
  g.outPixels = 0 ||
  ((g.oh - 1) * g.sh + (g.offH + g.kh - 1) * g.dh + 1 ≤ g.ih && (g.ow - 1) * g.sw + (g.offW + g.kw - 1) * g.dw + 1 ≤ g.iw &&
   (g.ot - 1) * g.st + (g.offT + g.kt - 1) * g.dt + 1 ≤ g.it)

/-- A zero among the sizes of R188. -/
def Geo.isZero (g : Geo) : Bool := g.oh = 0 || g.ow = 0 || g.ot = 0 || g.cin = 0 || g.cout = 0

/-- The fields' ranges of R188 and R189, by operation. -/
def Geo.fieldsOk (g : Geo) (d : Desc) (opc : Nat) : Bool :=
  let pool := opc = 0x42
  let dw := opc = 0x53
  onlyFields d ([(16, 12), (32, 24), (64, 55)] ++ if dw then [(56, 8), (120, 8)] else []) &&
  dBits d 27 7 6 = 0 && dBits d 96 7 7 = 0 && dBits d 98 7 2 = 0 && dBits d 99 7 7 = 0 && dBits d 100 7 7 = 0 &&
  dBits d 101 7 2 = 0 && dBits d 107 7 7 = 0 && dBits d 118 7 2 = 0 &&
  1 ≤ g.kh && g.kh ≤ 7 && 1 ≤ g.kw && g.kw ≤ 7 && 1 ≤ g.kt && 1 ≤ g.sh && g.sh ≤ 8 && 1 ≤ g.sw && g.sw ≤ 8 &&
  1 ≤ g.st && 1 ≤ g.dh && g.dh ≤ 64 && 1 ≤ g.dw && g.dw ≤ 64 && 1 ≤ g.dt && 1 ≤ g.it &&
  (if pool || dw then g.tapk = 0 && g.tw = 0
   else 1 ≤ g.tapk && g.tapk ≤ max 1 (256 / g.cinp) && g.tapk ≤ 8 && 1 ≤ g.tw && g.tw ≤ 64) &&
  (if pool then g.pfn ≤ 2 && g.cout = g.cin && g.w = 0 else g.pfn = 0) && (opc != 0x41 || g.tapk = 1) &&
  (!(opc = 0x52 || dw) || !g.wload) &&
  (opc = 0x41 || g.readsInside) && g.padT + g.padB ≤ g.ih && g.padL + g.padR ≤ g.iw && g.padF + g.padK ≤ g.it &&
  (g.padz || (g.padT = 0 && g.padB = 0 && g.padL = 0 && g.padR = 0 && g.padF = 0 && g.padK = 0)) &&
  (!g.accum || dTypeOut d = 10) && (opc = 0x53 || dTmode d = 0)

/-- The types of R189 and R219. -/
def Geo.typesOk (g : Geo) (d : Desc) (opc : Nat) : Bool :=
  let ta := dTypeA d
  let tb := dTypeB d
  let out := dTypeOut d
  pipOk g.xPips ta && pipOk g.wPips tb && pipOk g.outPips out &&
  (if opc = 0x42 then (ta ≤ 5 || (8 ≤ ta && ta ≤ 10)) && tb = 0 && out ≤ 10
   else pairLegal ta tb && outLegal ta tb out && (!(opc = 0x52 || opc = 0x53) || out ≤ 10))

/-- Bytes of the forward weight tiles (R187). -/
def Geo.wBytes (g : Geo) (tb : Nat) : Nat :=
  ceilDiv g.cout (max 1 g.tw) * (ceilDiv g.taps (max 1 g.tapk) * (if 1 < g.tapk then 1 else ceilDiv g.cin 256)) *
    tileBytes tb g.tw g.wPips

/-- The operands of CONV, CONV_T or POOL: first byte and length of X, W and Y. `own` is the first row of X that this
core holds, and how many it holds (R202), else the whole tensor. -/
def State.convLegal (s : State) (c : CoreId) (d : Desc) (own : Option (Nat × Nat)) : Bool :=
  let g := geoOf d
  let opc := dOpc d
  let ex := extent (dTypeA d) g.xPips g.cin
  let ey := s.outExtent c d g.outPips g.cout
  let (x0, xh) := match own with
    | some (r, h) => (g.x + r * g.xY, h)
    | none => (g.x, g.ih)
  let nx := tensorBytes g.it xh g.iw g.xT g.xY g.xX ex
  let ny := tensorBytes g.ot g.oh g.ow g.yT g.yY g.yX ey
  let nw := if opc = 0x42 then 0 else g.wBytes (dTypeB d)
  g.fieldsOk d opc && g.typesOk d opc && tensorOk g.x g.xT g.xY g.xX ex && tensorOk g.y g.yT g.yY g.yX ey &&
  g.w % 64 = 0 && s.areaOk c x0 nx && s.areaOk c g.y ny && (opc = 0x42 || s.areaOk c g.w nw) &&
  !overlaps g.y ny x0 nx && !overlaps g.y ny g.w nw

def State.convDxLegal (s : State) (c : CoreId) (d : Desc) : Bool :=
  let g := geoOf d
  let ex := s.outExtent c d g.outPips g.cin
  let ey := extent (dTypeA d) g.xPips g.cout
  let nx := tensorBytes g.it g.ih g.iw g.xT g.xY g.xX ex
  let ny := tensorBytes g.ot g.oh g.ow g.yT g.yY g.yX ey
  let nw := g.wBytes (dTypeB d)
  g.fieldsOk d 0x52 && g.typesOk d 0x52 && tensorOk g.x g.xT g.xY g.xX ex && tensorOk g.y g.yT g.yY g.yX ey &&
  g.w % 64 = 0 && s.areaOk c g.x nx && s.areaOk c g.y ny && s.areaOk c g.w nw &&
  !overlaps g.x nx g.y ny && !overlaps g.x nx g.w nw

def State.convDwLegal (s : State) (c : CoreId) (d : Desc) : Bool :=
  let g := geoOf d
  let ex := extent (dTypeB d) g.wPips g.cin
  let ey := extent (dTypeA d) g.xPips g.cout
  let ew := s.outExtent c d g.outPips g.cin
  let nx := tensorBytes g.it g.ih g.iw g.xT g.xY g.xX ex
  let ny := tensorBytes g.ot g.oh g.ow g.yT g.yY g.yX ey
  let nw := rowsExtent (g.taps * g.cout) g.dwStride ew
  let nb := up64 (ceilDiv (ceilDiv g.cout 64 * ceilDiv g.cin 64) 8)
  g.fieldsOk d 0x53 && g.typesOk d 0x53 && tensorOk g.x g.xT g.xY g.xX ex && tensorOk g.y g.yT g.yY g.yX ey &&
  s.rowsOk c g.w (g.taps * g.cout) g.dwStride ew && s.areaOk c g.x nx && s.areaOk c g.y ny &&
  s.maskOk c g.bmask (ceilDiv g.cout 64 * ceilDiv g.cin 64) && (s.route c d (ownStore c g.y ny)).isSome &&
  !overlaps g.w nw g.x nx && !overlaps g.w nw g.y ny && !(g.bmask != 0 && overlaps g.w nw g.bmask nb)

/-! ### The checks at issue (R15, R77, R121) -/

/-- An array operation fails the checks that do not wait for its bounds record: under AT_ISSUE they are those of the
descriptor with this record in place, of zero bounds and the least kernel. -/
def earlyBad (least : Nat) (legal : Desc → Bool) (d : Desc) : Bool :=
  !legal (if dBmode d = 0 then d else setBounds d least)

/-- The bounds record of zero sizes, one tap, and so many taps per tile. -/
def leastConv (tapk : Nat) : Nat := (0x11 + (1 + 4 * tapk) * 256) * 2 ^ 80

/-! ### Routes of the operations with an ACROSS streaming operand -/

/-- The route an array operation takes, none where its streaming operand is ALONG (R212, R215). -/
def State.routeOf (s : State) (c : CoreId) (d : Desc) : Option Nat :=
  match dOpc d with
  | 0x51 =>
    let g := matOf d
    s.route c d (ownStore c g.a (rowsExtent g.m g.aStride (extent (dTypeA d) g.aPips g.n)))
  | 0x53 =>
    let g := geoOf d
    s.route c d (ownStore c g.y (tensorBytes g.ot g.oh g.ow g.yT g.yY g.yX (extent (dTypeA d) g.xPips g.cout)))
  | _ => none

end Sys2Proof.Machine
end

