-- ==== Sys2Proof/Machine/Real.lean ====
section
/-! DEFINITION. Results that the specification fixes to a bound (R130, R154, R155, R177 to R182, R196): each is a free value
of Config where that keeps the bound, and else the value nearest to the exact one. Exponentials, hyperbolic tangents and
logarithms are enclosed between two numbers that differ by less than 2^−130 of their size, and a free value counts as
within a bound only where it is so for every number between the two (notes/assumptions/6.md). -/

namespace Sys2Proof.Machine

/-! ### Fixed-point enclosures -/

/-- Fraction bits of a fixed-point number. -/
def fixBits : Nat := 320

def fixOne : Nat := 2 ^ fixBits

/-- A number m·2^e in fixed point, rounded down. -/
def fixDown (m : Nat) (e : Int) : Nat :=
  let sh := e + fixBits
  if 0 ≤ sh then m * 2 ^ sh.toNat else m / 2 ^ (-sh).toNat

/-- A number m·2^e in fixed point, rounded up. -/
def fixUp (m : Nat) (e : Int) : Nat :=
  let sh := e + fixBits
  if 0 ≤ sh then m * 2 ^ sh.toNat else (m + 2 ^ (-sh).toNat - 1) / 2 ^ (-sh).toNat

def mulDown (a b : Nat) : Nat := a * b / fixOne
def mulUp (a b : Nat) : Nat := (a * b + fixOne - 1) / fixOne
def divDown (a b : Nat) : Nat := a * fixOne / b
def divUp (a b : Nat) : Nat := (a * fixOne + b - 1) / b

/-- A number between two fixed-point numbers. -/
structure Enc where
  lo : Nat
  hi : Nat
  deriving DecidableEq, Repr

/-- Σ y^i/(i + k)! · k!, summed to `n` terms, for y below 1: (e^y − 1)/y for k = 1, and e^y for k = 0. -/
def taylor (k : Nat) (y : Enc) (n : Nat) : Enc :=
  let r := (List.range n).foldl
    (fun (p : Enc × Enc) i =>
      let t : Enc := { lo := mulDown p.1.lo y.lo / (i + 1 + k), hi := (mulUp p.1.hi y.hi + i + k) / (i + 1 + k) }
      (t, { lo := p.2.lo + t.lo, hi := p.2.hi + t.hi }))
    ({ lo := fixOne, hi := fixOne }, { lo := fixOne, hi := fixOne })
  { lo := r.2.lo, hi := r.2.hi + 2 * r.1.hi + 1 }

/-- e^q for q = m·2^e below 256; above, only that it is beyond every format. -/
def expUp (m : Nat) (e : Int) : Enc :=
  let y : Enc := { lo := fixDown m (e - 8), hi := fixUp m (e - 8) }
  if fixOne ≤ y.hi then { lo := 2 ^ 300 * fixOne, hi := 2 ^ 600 * fixOne }
  else (List.range 8).foldl (fun (x : Enc) _ => { lo := mulDown x.lo x.lo, hi := mulUp x.hi x.hi }) (taylor 0 y 40)

/-- The reciprocal of a number at least 1. -/
def Enc.inv (x : Enc) : Enc := { lo := divDown fixOne x.hi, hi := divUp fixOne x.lo }

def Enc.add (x y : Enc) : Enc := { lo := x.lo + y.lo, hi := x.hi + y.hi }

def Enc.one : Enc := { lo := fixOne, hi := fixOne }

/-- e^((−1)^neg · m · 2^e). -/
def expEnc (neg : Bool) (m : Nat) (e : Int) : Enc := if neg then (expUp m e).inv else expUp m e

/-- ln f for f between 1 and 2, as f − 1 over f + 1 = z: 2·(z + z^3/3 + …). -/
def lnSmall (z : Enc) : Enc :=
  let zz : Enc := { lo := mulDown z.lo z.lo, hi := mulUp z.hi z.hi }
  let r := (List.range 60).foldl
    (fun (p : Enc × Enc) i =>
      let t : Enc := { lo := mulDown p.1.lo zz.lo, hi := mulUp p.1.hi zz.hi }
      (t, { lo := p.2.lo + t.lo / (2 * i + 3), hi := p.2.hi + (t.hi + 2 * i + 2) / (2 * i + 3) })) (z, z)
  { lo := 2 * r.2.lo, hi := 2 * r.2.hi + 2 * r.1.hi + 1 }

def ln2Enc : Enc := lnSmall { lo := fixOne / 3, hi := fixOne / 3 + 1 }

/-- ln(m·2^e) for a positive number, as signed fixed-point numbers. -/
def lnEnc (m : Nat) (e : Int) : Int × Int :=
  let top := Nat.log2 m
  let k : Int := (top : Int) + e
  let f := m * fixOne / 2 ^ top
  let g := f + 1
  let x := lnSmall { lo := divDown (f - fixOne) (g + fixOne), hi := divUp (g - fixOne) (f + fixOne) }
  if 0 ≤ k then (k * ln2Enc.lo + x.lo, k * ln2Enc.hi + x.hi) else (k * ln2Enc.hi + x.lo, k * ln2Enc.lo + x.hi)

/-! ### Rounding to FP32 -/

/-- The quotient of two magnitudes rounded to FP32, nearest even. -/
def divVal (a b : Val) : Val :=
  match a, b with
  | .nan, _ => .nan
  | _, .nan => .nan
  | .inf _, .inf _ => .nan
  | .inf x, .fin y _ _ => .inf (x != y)
  | .fin x _ _, .inf y => .fin (x != y) 0 0
  | .fin x m e, .fin y n f =>
    if n = 0 then (if m = 0 then .nan else .inf (x != y))
    else
      let k := 200 + Nat.log2 n
      let q := m * 2 ^ k / n
      let sticky := if m * 2 ^ k % n = 0 then 0 else 1
      .fin (x != y) (2 * q + sticky) (e - f - k - 1)

/-- FP32 quotient (R178). -/
def fdiv (a b : BitVec 32) : BitVec 32 := toF32 (divVal (decF32 a) (decF32 b))

/-- FP32 product. -/
def fmul (a b : BitVec 32) : BitVec 32 := toF32 ((decF32 a).mul (decF32 b))

/-- FP32 difference. -/
def fsub (a b : BitVec 32) : BitVec 32 := toF32 ((decF32 a).add (decF32 b).neg)

def fixVal (n : Nat) : Val := .fin false n (-(fixBits : Int))

/-- The FP32 number nearest to the middle of an enclosure. -/
def Enc.mid (x : Enc) : BitVec 32 := toF32 (.fin false (x.lo + x.hi) (-(fixBits : Int) - 1))

/-! ### Bounds -/

def Val.sub (x y : Val) : Val := x.add y.neg
def Val.max (x y : Val) : Val := if x.lt y then y else x
def Val.ofNat (n : Nat) : Val := .fin false n 0

/-- u = 2^−24 (R98). -/
def unitVal : Val := .fin false 1 (-24)

/-- |err| ≤ γ_n·x + y, with γ_n = n·u/(1 − n·u) = n/(2^24 − n) (R98). -/
def withinGamma (n : Nat) (err x y : Val) : Bool :=
  let den := Val.ofNat (2 ^ 24 - n)
  (err.abs.mul den).le ((x.mul (Val.ofNat n)).add (y.mul den))

/-- A positive finite value c lies within 2^−21 of an enclosed number, relative (R130, R177). -/
def withinExp (c : BitVec 32) (x : Enc) : Bool :=
  let v := decF32 c
  let one := Val.ofNat 1
  let tol : Val := .fin false 1 (-21)
  v.le ((fixVal x.lo).mul (one.add tol)) && ((fixVal x.hi).mul (one.sub tol)).le v

/-- The free value where it keeps its bound, and else the nearest one. -/
def bounded (c : BitVec 32) (ok : Bool) (nearest : BitVec 32) : BitVec 32 := if ok then c else nearest

/-! ### Exponentials (R130, R177) -/

/-- e^x, within 2^−21 relative; NaN and infinities as IEEE 754 has them. -/
def expOf (x : Val) : BitVec 32 :=
  match x with
  | .nan => nan32
  | .inf true => 0
  | .inf false => 0x7F800000
  | .fin neg m e =>
    if m = 0 then 0x3F800000
    else
      let c := Config.expNear neg m e
      bounded c (withinExp c (expEnc neg m e)) (expEnc neg m e).mid

/-! ### Coefficients of the recurrences (R130) -/

/-- A free value where it lies within 3u of an exact product, relative. -/
def within3u (c : BitVec 32) (x : Val) : BitVec 32 :=
  bounded c (((decF32 c).sub x).abs.le (x.abs.mul (.fin false 3 (-24)))) (toF32 x)

/-- SCAN: ā = exp(Δ·A) and b̄ = Δ·B·x. -/
def scanCoeffs (delta a b x : BitVec 32) : BitVec 32 × BitVec 32 :=
  let c := Config.coeffs 0x20 0 [delta, a, b, x]
  let q := (decF32 delta).mul (decF32 a)
  let abar := match q with
    | .fin neg m e => if m = 0 then (0x3F800000 : BitVec 32) else bounded c.1 (withinExp c.1 (expEnc neg m e)) (expEnc neg m e).mid
    | v => expOf v
  (abar, within3u c.2 (((decF32 delta).mul (decF32 b)).mul (decF32 x)))

/-- The logistic function σ(g), and 1 − σ(g). -/
def sigmoid (neg : Bool) (m : Nat) (e : Int) : Enc × Enc :=
  let up := ((expUp m e).add Enc.one).inv
  let dn := ((expUp m e).inv.add Enc.one).inv
  if neg then (up, dn) else (dn, up)

/-- tanh of m·2^e over m·2^e itself where that is below 1/8, and else tanh of it. -/
def tanhEnc (m : Nat) (e : Int) : Enc × Bool :=
  let y : Enc := { lo := fixDown m (e + 1), hi := fixUp m (e + 1) }
  if 8 * y.hi < 2 * fixOne then
    let s := taylor 1 y 40
    let t : Enc := { lo := mulDown y.lo s.lo, hi := mulUp y.hi s.hi }
    ({ lo := 2 * divDown s.lo (t.hi + 2 * fixOne), hi := 2 * divUp s.hi (t.lo + 2 * fixOne) }, true)
  else
    let t := expUp m (e + 1)
    ({ lo := divDown (t.lo - fixOne) (t.lo + fixOne), hi := divUp (t.hi - fixOne) (t.hi + fixOne) }, false)

/-- GATED: 1 − z and z·tanh(gc), with z = σ(gz). -/
def gatedCoeffs (gz gc : BitVec 32) : BitVec 32 × BitVec 32 :=
  let c := Config.coeffs 0x21 0 [gz, gc]
  match decF32 gz, decF32 gc with
  | .nan, _ => (nan32, nan32)
  | .fin n m e, g =>
    let (z, y) := sigmoid n m e
    let a := bounded c.1 (withinExp c.1 y) y.mid
    match g with
    | .nan => (a, nan32)
    | .inf k => (a, if k then z.mid ||| 0x80000000 else z.mid)
    | .fin k p f =>
      let (t, scaled) := tanhEnc p f
      let size : Val := if scaled then .fin k p f else .fin k 1 0
      let lo := ((fixVal z.lo).mul (fixVal t.lo)).mul size
      let hi := ((fixVal z.hi).mul (fixVal t.hi)).mul size
      let near := toF32 ((lo.add hi).scale (-1))
      let tol : Val := .fin false 3 (-24)
      let v := decF32 c.2
      let ok := (v.sub lo).abs.le (lo.abs.mul tol) && (v.sub hi).abs.le (lo.abs.mul tol)
      (a, bounded c.2 ok near)
  | .inf neg, g =>
    if neg then (0x3F800000, if g.isNan then nan32 else if g.isNeg then 0x80000000 else 0)
    else (0, match g with
      | .nan => nan32
      | .inf k => if k then 0xBF800000 else 0x3F800000
      | .fin k p f =>
        let (t, scaled) := tanhEnc p f
        let size : Val := if scaled then .fin k p f else .fin k 1 0
        toF32 (((fixVal t.lo).add (fixVal t.hi)).mul (size.scale (-1))))

/-- UPDATE AFFINE: α, and β·x. -/
def affineCoeffs (alpha beta x : BitVec 32) : BitVec 32 × BitVec 32 :=
  let c := Config.coeffs 0x22 0 [alpha, beta, x]
  (alpha, within3u c.2 ((decF32 beta).mul (decF32 x)))

/-! ### Pairs (R133, R154) -/

/-- The state of an element while a chunk runs: an FP32 value, or a pair of them. -/
abbrev Pair := BitVec 32 × BitVec 32

def pairVal (p : Pair) : Val := (decF32 p.1).add (decF32 p.2)

/-- The pair nearest to an exact value. -/
def toPairOf (x : Val) : Pair :=
  let v := toF32 x
  (v, if f32Finite v then toF32 (x.sub (decF32 v)) else 0)

/-- h ← a·h + b on a pair, within u² of the larger of the state before and after it (R154). -/
def pairStep (h ab : Pair) : Pair :=
  let x := ((decF32 ab.1).mul (pairVal h)).add (decF32 ab.2)
  let c := Config.pairStep h ab
  let ok := match x with
    | .fin _ _ _ => f32Finite c.1 && f32Finite c.2 &&
        ((pairVal c).sub x).abs.le (((pairVal h).abs.max x.abs).scale (-48))
    | _ => false
  if ok then c else toPairOf x

/-- A pair read as FP32, within 2u (R154). -/
def pairRead (p : Pair) : BitVec 32 :=
  let x := pairVal p
  let c := Config.pairRead p
  bounded c (((decF32 c).sub x).abs.le (x.abs.scale (-23))) (toF32 x)

/-- Σ C·h + D·x of SCAN: an FP32 sum of FP32 products in some order, within the bound of such a sum (DEDUCED,
notes/assumptions/6.md). -/
def scanOut (cs hs : List (BitVec 32)) (dd x : BitVec 32) : BitVec 32 :=
  let ts := ((cs.zip hs) ++ [(dd, x)]).map fun p => (decF32 p.1).mul (decF32 p.2)
  let y := Val.sum ts
  let c := Config.scanOut cs hs dd x
  bounded c (f32Finite c && !y.isNan && !y.isInf &&
    withinGamma (2 * ts.length) ((decF32 c).sub y) (Val.sum (ts.map Val.abs)) .zero) (toF32 y)

/-! ### The drift monitor (R155) -/

/-- The integer square root of n, from above and below a power of two, by bisection. -/
def sqrtFrom (n : Nat) : Nat → Nat → Nat
  | 0, r => r
  | k + 1, r => sqrtFrom n k (if (r + 2 ^ k) * (r + 2 ^ k) ≤ n then r + 2 ^ k else r)

/-- The square root of a finite value that is not negative, with a sticky bit. -/
def sqrtVal (x : Val) : Val :=
  match x with
  | .fin _ m e =>
    let (m, e) := if e % 2 = 0 then (m, e) else (2 * m, e - 1)
    let n := m * 2 ^ 128
    let r := sqrtFrom n (Nat.log2 n / 2 + 1) 0
    .fin false (2 * r + (if r * r = n then 0 else 1)) (e / 2 - 65)
  | v => v

/-- The FP32 norm of a slice: not finite where a value word is not; else free within the bound of an FP32 sum of squares
in some order, or infinite where the squares may overflow (R155; the bound is DEDUCED, notes/assumptions/6.md). -/
def norm2 (vals : List (BitVec 32)) : BitVec 32 :=
  let vs := vals.map decF32
  if vs.any Val.isNan then nan32
  else if vs.any Val.isInf then 0x7F800000
  else
    let sq := Val.sum (vs.map fun v => v.mul v)
    let c := Config.norm2 vals
    let v := decF32 c
    let tiny : Val := .fin false 1 (-100)
    let ok :=
      if c = 0x7F800000 then (Val.fin false 1 127).le sq
      else f32Finite c && !v.isNeg &&
        (withinGamma (2 * vals.length + 4) ((v.mul v).sub sq) sq .zero || (sq.lt tiny && (v.mul v).lt tiny))
    bounded c ok (toF32 (sqrtVal sq))

/-- The new running norm rn + (n − rn)·2^−decay, each operation rounded to nearest even (R155; DEDUCED). -/
def runNorm (rn n : BitVec 32) (decay : Nat) : BitVec 32 :=
  fadd rn (toF32 ((decF32 (fsub n rn)).scale (-(decay : Int))))

/-! ### Attention (R177, R178, R181) -/

/-- The exact score scale·q·k. -/
def scoreVal (scale : BitVec 32) (q k : List (BitVec 32)) : Val :=
  (decF32 scale).mul (Val.sum ((q.zip k).map fun p => (decF32 p.1).mul (decF32 p.2)))

/-- |scale|·Σ |q·k|. -/
def scoreSize (scale : BitVec 32) (q k : List (BitVec 32)) : Val :=
  (decF32 scale).abs.mul (Val.sum ((q.zip k).map fun p => ((decF32 p.1).mul (decF32 p.2)).abs))

/-- fp32(scale·dot(q, k)), within γ_D·scale·Σ|q·k| + u·|s| (R181). -/
def attnScore (scale : BitVec 32) (q k : List (BitVec 32)) : BitVec 32 :=
  let x := scoreVal scale q k
  let c := Config.attnScore scale q k
  bounded c (f32Finite c && !x.isNan && !x.isInf &&
    withinGamma q.length ((decF32 c).sub x) (scoreSize scale q k) (x.abs.mul unitVal)) (toF32 x)

/-- m, l and o[D] of a row and head (R177). -/
structure Soft where
  m : BitVec 32
  l : BitVec 32
  o : List (BitVec 32)
  deriving DecidableEq, Repr

def Soft.start (d : Nat) : Soft := { m := negInf32, l := 0, o := List.replicate d 0 }

/-- a·c + Σ p·v in FP32 in some order, its terms within γ of their sum and the whole within u (R177, R181). -/
def softAcc (a c : BitVec 32) (ts : List (BitVec 32 × BitVec 32)) : BitVec 32 :=
  let head := (decF32 a).mul (decF32 c)
  let xs := ts.map fun p => (decF32 p.1).mul (decF32 p.2)
  let x := head.add (Val.sum xs)
  let size := Val.sum (xs.map Val.abs)
  let f := Config.attnAcc a c ts
  bounded f (f32Finite f && !x.isNan && !x.isInf &&
    withinGamma ts.length ((decF32 f).sub x) size ((head.abs.add size).mul unitVal)) (toF32 x)

/-- A weight rounded to BF16, as FP32 (R177). -/
def bf16Weight (x : BitVec 32) : BitVec 32 := ((narrowFloat 8 none x).1.setWidth 32) <<< 16

/-- One visit: the scores of its positions, and their values (R177). -/
def softVisit (x : Soft) (ts : List (BitVec 32 × List (BitVec 32))) : Soft :=
  let mn := ts.foldl (fun m t => fmax nan32 m t.1) x.m
  if mn = negInf32 then x
  else
    let diff (s : BitVec 32) : BitVec 32 := if s = negInf32 then 0 else expOf ((decF32 s).sub (decF32 mn))
    let c := diff x.m
    let ps := ts.map fun t => bf16Weight (diff t.1)
    { m := mn, l := softAcc x.l c (ps.map fun p => (p, 0x3F800000)),
      o := x.o.zipIdx.map fun y => softAcc y.1 c ((ps.zip ts).map fun t => (t.1, t.2.2.getD y.2 0)) }

/-- The exact attention of R181 for one element: for each position the exact score, scale·Σ|q·k|, and the value. Enclosed
numerator, Σ of the weights' exponentials, and Σ e·|v|, with the largest score taken out. -/
def attnExact (ts : List (Val × BitVec 32)) : (Val × Val) × (Val × Val) × (Val × Val) :=
  let top : Val := ts.foldl (fun (m : Val) t => m.max t.1) (.inf true)
  let es := ts.map fun t =>
    let x : Enc := match top.sub t.1 with
      | .fin _ m e => expEnc true m e
      | _ => { lo := 0, hi := 0 }
    (fixVal x.lo, fixVal x.hi, decF32 t.2)
  let part (f : Val × Val × Val → Val) : Val := Val.sum (es.map f)
  ((part fun t => (if t.2.2.isNeg then t.2.1 else t.1).mul t.2.2, part fun t => (if t.2.2.isNeg then t.1 else t.2.1).mul t.2.2),
   (part fun t => t.1, part fun t => t.2.1),
   (part fun t => t.1.mul t.2.2.abs, part fun t => t.2.1.mul t.2.2.abs))

/-- η of R181: Δ + 2^−8 + 2^−21, of the exact scores and scale·Σ|q·k|; and 1 − γ's denominator taken in. -/
def attnEta (d : Nat) (ss : List (Val × Val)) : Val :=
  let size := (ss.map Prod.snd).foldl Val.max .zero
  let top := (ss.map fun x => x.1.abs).foldl Val.max .zero
  (divVal (size.mul (Val.ofNat d)) (Val.ofNat (2 ^ 24 - d))).add ((top.mul unitVal).add
    ((Val.fin false 1 (-8)).add (.fin false 1 (-21))))

/-- An output element keeps the bound of R181: (e^{2η} − 1 + 2γ_T + 2(k + 1)u)·Σ w·|v| from the exact attention. -/
def attnWithin (c : BitVec 32) (eta : Val) (visits : Nat) (ts : List (Val × BitVec 32)) : Bool :=
  let (n, z, a) := attnExact ts
  let v := decF32 c
  let lo := v.mul (if v.isNeg then z.2 else z.1)
  let hi := v.mul (if v.isNeg then z.1 else z.2)
  let err := (hi.sub n.1).abs.max ((n.2.sub lo).abs)
  let grow := match eta.scale 1 with
    | .fin _ m e => (fixVal (expUp m e).lo).sub (.ofNat 1)
    | _ => .inf false
  withinGamma ts.length err (a.1.scale 1) (a.1.mul (grow.add ((Val.ofNat (2 * (visits + 1))).mul unitVal)))

/-- The FP32 number nearest to the exact attention. -/
def attnNearest (ts : List (Val × BitVec 32)) : BitVec 32 :=
  let (n, z, _) := attnExact ts
  toF32 (divVal (n.1.add n.2) (z.1.add z.2))

/-- m + ln l in FP32 (R178), within 2^−21 of ln l and one rounding (DEDUCED, notes/assumptions/6.md). -/
def lseOf (c m l : BitVec 32) : BitVec 32 :=
  match decF32 m, decF32 l with
  | .fin _ _ _, .fin false n e =>
    if n = 0 then negInf32
    else
      let (a, b) := lnEnc n e
      let fix (i : Int) : Val := .fin (decide (i < 0)) i.natAbs (-(fixBits : Int))
      let lo := (decF32 m).add (fix a)
      let hi := (decF32 m).add (fix b)
      let tol := (((fix a).abs.max (fix b).abs).scale (-21)).add ((lo.abs.max hi.abs).mul unitVal)
      let v := decF32 c
      bounded c ((v.sub lo).abs.le tol && (v.sub hi).abs.le tol) (toF32 ((lo.add hi).scale (-1)))
  | .nan, _ => nan32
  | _, .nan => nan32
  | x, y => if y.isNeg then nan32 else toF32 (x.add y)

/-! ### COMBINE (R182) -/

/-- One output element of the merge, within (PARTS + 3)·2^−21·Σ a·|o| / L. -/
def combineOut (lses os : List (BitVec 32)) : BitVec 32 :=
  let ts := (lses.map decF32).zip os
  let plain := ts.all fun t => (f32Finite t.2) && !t.1.isNan && t.1 != .inf false
  if !plain then
    let top := lses.foldl (fmax nan32) negInf32
    let as := lses.map fun x => expOf ((decF32 x).sub (decF32 top))
    toF32 (divVal (Val.sum ((as.zip os).map fun p => (decF32 p.1).mul (decF32 p.2))) (Val.sum (as.map decF32)))
  else
    let (n, z, a) := attnExact (ts.filter fun t => t.1 != .inf true)
    let c := Config.combineOut lses os
    let v := decF32 c
    let lo := v.mul (if v.isNeg then z.2 else z.1)
    let hi := v.mul (if v.isNeg then z.1 else z.2)
    let tol := a.1.mul (.fin false (lses.length + 3) (-21))
    bounded c (f32Finite c && (hi.sub n.1).abs.le tol && (n.2.sub lo).abs.le tol) (toF32 (divVal (n.1.add n.2) (z.1.add z.2)))

/-- The merged log-sum-exp M + ln L (R182). -/
def combineLse (lses : List (BitVec 32)) : BitVec 32 :=
  let top := lses.foldl (fmax nan32) negInf32
  let L := toF32 (Val.sum (lses.map fun x => if x = negInf32 then .zero else decF32 (expOf ((decF32 x).sub (decF32 top)))))
  lseOf (Config.combineLse lses) top L

/-! ### POOL (R196) -/

/-- The average of the values read over a divisor, within (γ_r + u)·Σ|x|. -/
def poolAvg (xs : List (BitVec 32)) (n : Nat) : BitVec 32 :=
  let vs := xs.map decF32
  let y := Val.sum vs
  let size := (Val.sum (vs.map Val.abs)).mul (Val.ofNat n)
  let c := Config.poolAvg xs n
  bounded c (f32Finite c && !y.isNan && !y.isInf &&
    withinGamma xs.length (((decF32 c).mul (Val.ofNat n)).sub y) size (size.mul unitVal)) (toF32 (divVal y (Val.ofNat n)))

end Sys2Proof.Machine
end

