-- ==== Sys2Proof/Machine/Fused.lean ====
section
/-! DEFINITION. POOL (R196, R197) and fused stripes with their counter blocks (R198 to R208). -/

namespace Sys2Proof.Machine

/-! ### Pooling -/

/-- The record that tap τ of output pixel p reads for channel n, if it reads one. -/
def poolSpot (d : Desc) (xAt : Nat → Nat → Nat → Nat) (p τ n : Nat) : Option Spot :=
  let g := geoOf d
  match g.fwd p τ with
  | .at t y x => some (recSpot (dTypeA d) g.xPips g.cin (xAt t y x) n)
  | _ => none

/-- The result of POOL for output pixel p and channel n (R196). -/
def State.poolElem (s : State) (d : Desc) (xAt : Nat → Nat → Nat → Nat) (p n : Nat) : BitVec 32 :=
  let g := geoOf d
  let xs := ((List.range g.taps).filterMap fun τ => poolSpot d xAt p τ n).map fun x => toF32 (s.valAt (dTypeA d) (some x))
  match xs with
  | [] => 0
  | x :: r =>
    if g.pfn = 0 then r.foldl (fmax nan32) (if (decF32 x).isNan then nan32 else x)
    else poolAvg xs (if g.pfn = 1 then g.taps else xs.length)

/-- Output pixels whose every tap lies in bands. -/
def poolEmpty (d : Desc) : Nat :=
  let g := geoOf d
  (List.range g.outPixels).countP fun p => (List.range g.taps).all fun τ => !(g.fwd p τ).real

/-- Tiles of up to 1,024 pixels by 64 channels, no group spanning two parts (R196, R201). -/
def poolTiles (d : Desc) (parts : List (List Nat)) : List TileSpec :=
  let g := geoOf d
  (List.range (ceilDiv g.cout 64)).flatMap fun nt => parts.flatMap fun px =>
    (groups 1024 px).map fun ps => { rows := ps, n0 := nt * 64, n1 := min g.cout (nt * 64 + 64), passes := [] }

def State.poolSums (s : State) (d : Desc) (xAt : Nat → Nat → Nat → Nat) (t : TileSpec) : List (List (BitVec 32)) :=
  t.rows.map fun p => (List.range (t.n1 - t.n0)).map fun i => s.poolElem d xAt p (t.n0 + i)

/-- The sectors POOL reads. -/
def poolSectors (d : Desc) (xAt : Nat → Nat → Nat → Nat) : List Nat :=
  let g := geoOf d
  ((List.range g.outPixels).flatMap fun p => (List.range g.taps).flatMap fun τ => (List.range g.cin).flatMap fun n =>
    spotSectors (dTypeA d) (poolSpot d xAt p τ n)).eraseDups

/-- The view a POOL's drain uses. -/
def poolView (d : Desc) : View := convView d (geoOf d).fwd (geoOf d).xAt

/-- The trouble of POOL's reads and writes. -/
def State.poolTrouble (s : State) (c : CoreId) (bad : BadSectors) (d : Desc) (xAt : Nat → Nat → Nat → Nat)
    (tiles : List TileSpec) : Option Trouble :=
  let v := poolView d
  match (poolSectors d xAt).findSome? fun x => s.readTrouble c bad (x * 64) 64 with
  | some t => some t
  | none => s.viewTrouble c v tiles (s.mayWiden c v.esc v.tout)

/-- The records a POOL writes, widened or not. -/
def State.poolWrites (s : State) (c : CoreId) (d : Desc) : List (Nat × Nat) :=
  let g := geoOf d
  (List.range g.outPixels).map fun p => (g.yPix p, s.outExtent c d g.outPips g.cout)

/-! ### The counter block (R203 to R207) -/

/-- A band word. -/
def bandWord (run : Nat) (fail : Bool) (st : Status) (count : Nat) : Nat :=
  run * 2 ^ 48 + ofBool fail * 2 ^ 47 + st.toNat * 2 ^ 16 + count

/-- The counter block of a core of the set. -/
def cntAt (k : CoreId) (d : Desc) (word : Nat) : Nat := slotOf k + (fusOf d).cnt + 8 * word

def cntOk (d : Desc) : Bool := (fusOf d).cnt % 64 = 0 && (fusOf d).cnt + 64 ≤ 0x400000

/-- RUN in this core's RDONE (R206). -/
def State.writeRdone (s : State) (c : CoreId) (d : Desc) : State := s.storeN (cntAt c d 6) 8 ((fusOf d).run * 2 ^ 48)

/-- Result words of a FUSED. -/
def resWords (xs : List Nat) : BitVec 128 := resultOf (xs.flatMap (leBytes 4))

def addWords (xs ys : List Nat) : List Nat := (xs.zip ys).map fun p => p.1 + p.2

def State.fusedWords (s : State) (c : CoreId) (ticket : BitVec 32) : List Nat :=
  match s.findOp c ticket with
  | some o => match o.work with
    | .fused f (some a) =>
      addWords (addWords f.res [a.passes, a.escalated, a.sat, a.pip]) ((s.core c).arr.owed ticket)
    | .fused f none => f.res
    | _ => [0, 0, 0, 0]
  | none => [0, 0, 0, 0]

/-- A FUSED fails: FAIL in every band word, then RDONE, then it completes with its status (R207). -/
def State.fusedFail (s : State) (c : CoreId) (o : Op) (st : Status) : State :=
  let d := o.desc
  let f := fusOf d
  let words := s.fusedWords c o.ticket
  let s := s.abandon c o.ticket
  let s := if f.exch && cntOk d then
      (s.each (List.range 6) fun s i => s.storeN (cntAt c d i) 8 (bandWord f.run true st 0)).writeRdone c d
    else s
  (s.modCnv c fun u => { u with xActive := false }).finish c o.ticket st (resWords words)

/-- The neighbours that read rows of this core (R206). -/
def fusReaders (d : Desc) : List CoreId :=
  let f := fusOf d
  let is := (List.range (f.layers - 1)).map (· + 1)
  (if is.any fun i => fusRb d i ≠ 0 then (toFin? 176 f.up).toList else []) ++
  (if is.any fun i => fusRa d i ≠ 0 then (toFin? 176 f.down).toList else [])

/-- Rows of each neighbour, counted from the stripe boundary, that reading virtual rows `vs` of layer `layer`'s input
needs (R202, R205). -/
def fusNeeds (d : Desc) (layer ohPrev : Nat) (vs : List Nat) : Nat × Nat :=
  let ra := fusRa d layer
  (vs.foldl (fun n v => if v < ra then max n (ra - v) else n) 0,
   vs.foldl (fun n v => if ra + ohPrev ≤ v then max n (v - ra - ohPrev + 1) else n) 0)

/-- Virtual rows that some pixels read through some taps. -/
def rowsRead (g : Geo) (px taps : List Nat) : List Nat :=
  px.flatMap fun p => taps.filterMap fun τ => match g.fwd p τ with
    | .at _ y _ => some y
    | _ => none

/-- The neighbour rows that reading virtual rows `vs` needs; none in the first layer or without an exchange. -/
def FusedWork.needs (f : FusedWork) (d : Desc) (vs : List Nat) : Nat × Nat :=
  if f.layer = 0 || !(fusOf d).exch then (0, 0) else fusNeeds d f.layer f.ohPrev vs

/-- The rows of its neighbours that a pass of a stripe reads (R202, R205). -/
def passNeeds (o : Op) (f : FusedWork) (a : ArrayWork) (r : PassRef) : Nat × Nat :=
  match a.tiles[r.tile]? with
  | none => (0, 0)
  | some t =>
    let g := geoOf a.desc
    let taps := ((((t.passes[r.pass]?).map fun p => p.blocks.flatten).getD []).map fun k => k / g.cinp).eraseDups
    f.needs o.desc (rowsRead g t.rows taps)

/-- The rows that a whole layer reads of its neighbours. -/
def layerNeeds (o : Op) (f : FusedWork) (l : Desc) : Nat × Nat :=
  let g := geoOf l
  f.needs o.desc (rowsRead g (List.range g.outPixels) (List.range g.taps))

/-- Layers after this one read rows of a neighbour. -/
def readsLater (d : Desc) (layer : Nat) : Bool :=
  (List.range (fusOf d).layers).any fun i => layer < i && (fusRa d i ≠ 0 || fusRb d i ≠ 0)

/-- A row of a neighbour is still to be read: by a later layer, by a pass that has not landed, or by a re-run that a
trip can still ask for (R120, R206). -/
def State.readsRemain (s : State) (c : CoreId) (o : Op) (f : FusedWork) (a : Option ArrayWork) : Bool :=
  let d := o.desc
  readsLater d f.layer ||
  ((fusRa d f.layer ≠ 0 || fusRb d f.layer ≠ 0) && f.layer ≠ 0 && !f.waitRdone &&
   match a with
   | none => true
   | some a =>
     let arr := (s.core c).arr
     let refs := a.todo ++ (arr.prep ++ arr.flight).filter fun r => r.ticket = o.ticket
     (a.left ≠ 0 && !a.widened && s.mayWiden c (dEsc a.desc) (dTypeOut a.desc)) ||
     refs.any fun r => passNeeds o f a r != (0, 0))

/-- RDONE is written once the last read of the neighbours' rows has finished (R206). -/
def State.readsDone (s : State) (c : CoreId) (ticket : BitVec 32) : State :=
  match s.running c ticket with
  | none => s
  | some o =>
    match o.work with
    | .fused f a =>
      if !(fusOf o.desc).exch || f.rdone || s.readsRemain c o f a then s
      else (s.writeRdone c o.desc).modOp c ticket fun o => { o with work := .fused { f with rdone := true } a }
    | _ => s

/-- The last layer is performed: RDONE is written if it is not yet, and the core completes unless a neighbour still reads
(R206). -/
def State.fusedEnd (s : State) (c : CoreId) (o : Op) (f : FusedWork) : State :=
  let d := o.desc
  let st := combine (if f.widened then stEscalated else stDone) (if f.empty then stEmptyRows else stDone)
  if !(fusOf d).exch then s.finish c o.ticket st (resWords f.res)
  else
    let s := if f.rdone then s else s.writeRdone c d
    if (fusReaders d).isEmpty then
      (s.modCnv c fun u => { u with xActive := false }).finish c o.ticket st (resWords f.res)
    else s.modOp c o.ticket fun o => { o with work := .fused { f with waitRdone := true } none }

/-- A layer is performed, with its result words: the next one may start, or the stripe ends (R201). -/
def State.fusedLayerDone (s : State) (c : CoreId) (o : Op) (f : FusedWork) (words : List Nat) (widened empty : Bool) :
    State :=
  let f := { f with layer := f.layer + 1, upRows := 0, downRows := 0, waitBand := false, res := addWords f.res words,
                    widened := f.widened || widened, empty := f.empty || empty }
  if f.layer < f.layers.length then (s.modOp c o.ticket fun o => { o with work := .fused f none }).readsDone c o.ticket
  else s.fusedEnd c o f

/-- Pixels of a layer in the parts that no group spans (R201): for an intermediate layer of an exchange the top band, the
bottom band and the interior. -/
def fusParts (d : Desc) (i : Nat) (g : Geo) (inter : Bool) : List (List Nat) :=
  let all := List.range g.outPixels
  if !inter || !(fusOf d).exch then [all]
  else
    let row (p : Nat) : Nat := p / g.ow % g.oh
    let top := fusRb d i
    let bot := g.oh - fusRa d i
    [all.filter fun p => row p < top, all.filter fun p => top ≤ row p && bot ≤ row p,
     all.filter fun p => top ≤ row p && row p < bot]

/-- Rows from a stripe boundary inward whose pixels all lie in performed tiles; `top` counts from row 0. -/
def rowsDone (g : Geo) (pending : List TileSpec) (band : Nat) (top : Bool) : Nat :=
  let row (p : Nat) : Nat := p / g.ow % g.oh
  ((List.range (min band g.oh)).takeWhile fun i =>
    let r := if top then i else g.oh - 1 - i
    pending.all fun t => t.rows.all fun p => row p ≠ r).length

/-- Publish the rows of layer i's bands that are performed; COUNT counts from the stripe boundary (R203 to R205). -/
def State.publishBands (s : State) (c : CoreId) (d : Desc) (i : Nat) (g : Geo) (pending : List TileSpec) : State :=
  let f := fusOf d
  let put (s : State) (word n : Nat) : State :=
    if n = s.rdN (cntAt c d word) 2 then s else s.storeN (cntAt c d word) 8 (bandWord f.run false 0 n)
  put (put s (2 * (i - 1)) (rowsDone g pending (fusRb d i) true)) (2 * (i - 1) + 1) (rowsDone g pending (fusRa d i) false)

/-- What a read of a neighbour's band word gives: rows performed, the failure of its run, or an uncorrectable sector. -/
inductive BandRead where
  | rows (n : Nat)
  | fail (core : Nat) (st : Status)
  | lost (sector : Nat)
  deriving DecidableEq, Repr

def BandRead.count : BandRead → Nat
  | .rows n => n
  | _ => 0

/-- The failure that a read brings, as the status it is reported with. -/
def BandRead.failure : BandRead → Option Status
  | .rows _ => none
  | .fail _ st => some st
  | .lost _ => some stRetired

/-- A neighbour's band word of the layer before the one that runs: TOP of the stripe below, BOT of the one above
(R203). -/
def State.readBand (s : State) (bad : BadSectors) (d : Desc) (layer n bot : Nat) : BandRead :=
  match toFin? 176 n with
  | none => .rows 0
  | some k =>
    let a := cntAt k d (2 * (layer - 1) + bot)
    match s.uncorrectable bad a 8 with
    | some x => .lost x
    | none =>
      let v := s.rdN a 8
      if bitsOf v 63 48 ≠ (fusOf d).run then .rows 0
      else if bitsOf v 47 47 = 1 then .fail n (failStatus (bitsOf v 31 16))
      else .rows (bitsOf v 15 0)

/-- A failure that a read of a band word brings is taken (R207, R229). -/
def State.takeBandFail (s : State) (c : CoreId) (o : Op) (b : BandRead) : State :=
  match b with
  | .rows _ => s
  | .lost x => (s.noteUncorrectable x).fusedFail c o stRetired
  | .fail n st =>
    (s.modCnv c fun u => { u with cfValid := true, cfCore := BitVec.ofNat 8 n, cfStatus := st }).fusedFail c o st

/-- The failure of two reads made together: the lowest-numbered status (R15). -/
def worseBand (x y : BandRead) : Option BandRead :=
  match x.failure, y.failure with
  | none, none => none
  | some _, none => some x
  | none, some _ => some y
  | some a, some b => some (if a.toNat ≤ b.toNat then x else y)

/-- Go on once the band words of the neighbours whose rows are needed, read now, cover them; else wait, or take the
failure that a word reports (R205, R207). -/
def State.withBands (s : State) (c : CoreId) (bad : BadSectors) (o : Op) (f : FusedWork) (n : Nat × Nat)
    (go : State → State) : State :=
  if n = (0, 0) then go s
  else
    let d := o.desc
    let up := if n.1 = 0 then .rows f.upRows else s.readBand bad d f.layer (fusOf d).up 1
    let down := if n.2 = 0 then .rows f.downRows else s.readBand bad d f.layer (fusOf d).down 0
    match worseBand up down with
    | some b => s.takeBandFail c o b
    | none =>
      let ok := decide (n.1 ≤ up.count) && decide (n.2 ≤ down.count)
      let s := s.modOp c o.ticket fun o => match o.work with
        | .fused f a => { o with work := .fused { f with upRows := up.count, downRows := down.count, waitBand := !ok } a }
        | _ => o
      if ok then go s else s

/-! ### Start of FUSED (R198, R199, R202) -/

/-- The checks of a layer's record, i from 0. -/
def State.layerLegal (s : State) (c : CoreId) (d : Desc) (layers : List Desc) (i : Nat) (l : Desc) : Bool :=
  let f := fusOf d
  let g := geoOf l
  let inter := i + 1 < layers.length
  let prev := if i = 0 then none else layers[i - 1]?
  let own := match prev with
    | some p => if f.exch then some (fusRa d i, (geoOf p).oh) else none
    | none => none
  let ny := tensorBytes g.ot g.oh g.ow g.yT g.yY g.yX (s.outExtent c l g.outPips g.cout)
  (dOpc l = 0x40 || dOpc l = 0x42) && dOrder l = 0 && dCrec l = 0 && dBmode l = 0 && !headerBad c l false && !g.accum &&
  s.convLegal c l own && !overlaps g.y ny f.lt (128 * f.layers) && !(f.exch && overlaps g.y ny (cntAt c d 0) 64) &&
  (!inter || (ownStore c g.y ny && [3, 4, 5, 8, 9, 10].contains (dTypeOut l))) &&
  (!(inter && f.exch && f.down ≠ 0xFF) || g.oh = fusSrows d (i + 1)) &&
  match prev with
  | some p =>
    !f.exch ||
    (g.xY = (geoOf p).yY && g.ih ≤ fusRa d i + (geoOf p).oh + fusRb d i &&
     (f.up ≠ 0xFF || fusRa d i ≤ g.padT) && (f.down ≠ 0xFF || fusRb d i ≤ g.padB))
  | none => true

/-- A neighbour is absent or another core of the partition. -/
def State.neighbourOk (s : State) (c : CoreId) (n : Nat) : Bool :=
  n = 0xFF || match toFin? 176 n with
    | some k => k ≠ c && (s.owner k).isSome && s.owner k = s.owner c
    | none => false

def State.fusedHeaderOk (s : State) (c : CoreId) (d : Desc) : Bool :=
  let f := fusOf d
  plainHeader d && dBmode d = 0 && f.cnt % 64 = 0 && onlyFields d [(16, 4), (32, 8), (100, 14), (116, 4)] && dBits d 16 7 3 = 0 &&
  dBits d 17 7 1 = 0 && 1 ≤ f.layers && f.layers ≤ 4 && 1 ≤ f.run && s.herePart f.lt &&
  ownStore c f.lt (128 * f.layers) &&
  (if f.exch then cntOk d && s.neighbourOk c f.up && s.neighbourOk c f.down
   else f.up = 0xFF && f.down = 0xFF && [1, 2, 3].all fun i => fusRa d i = 0 && fusRb d i = 0)

def State.layerTable (s : State) (d : Desc) : List Desc :=
  let f := fusOf d
  (List.range f.layers).map fun i => descOf (s.rd (localPart f.lt + 128 * i) 128)

/-- FUSED starts: its checks, its band words at COUNT 0, and CNV_XCHG (R204). -/
def State.startFused (s : State) (c : CoreId) (bad : BadSectors) (o : Op) : State :=
  let d := o.desc
  let f := fusOf d
  let s := s.modCnv c fun u =>
    { u with xRun := BitVec.ofNat 16 f.run, xUp := BitVec.ofNat 8 f.up, xDown := BitVec.ofNat 8 f.down }
  if !s.fusedHeaderOk c d then s.fusedFail c o stBadDesc
  else match s.uncorrectable bad (localPart f.lt) (128 * f.layers) with
    | some x => (s.noteUncorrectable x).fusedFail c o stRetired
    | none =>
      let layers := s.layerTable d
      if !(layers.zipIdx.all fun x => s.layerLegal c d layers x.2 x.1) then s.fusedFail c o stBadDesc
      else
        let s := if f.exch then
            (s.each (List.range 6) fun s i => s.storeN (cntAt c d i) 8 (bandWord f.run false 0 0)).modCnv c
              fun u => { u with xActive := true }
          else s
        s.modOp c o.ticket fun o =>
          { o with work := .fused { layers := layers, layer := 0, upRows := 0, downRows := 0, waitRdone := false,
                                    widened := false, empty := false, res := [0, 0, 0, 0] } none }

/-- The layer that is to run starts: its passes are expanded, or a POOL is performed whole once the neighbours' rows it
reads are there (R201, R205). -/
def State.startLayer (s : State) (c : CoreId) (o : Op) (f : FusedWork) (l : Desc) : State :=
  let d := o.desc
  let g := geoOf l
  let xAt := fusAt c d f.layer f.ohPrev g
  let parts := fusParts d (f.layer + 1) g f.inter
  if g.isZero then s.fusedLayerDone c o f [0, 0, 0, 0] false false
  else if dOpc l = 0x42 then
    if s.writesWait c (s.poolWrites c l) then s
    else s.withBands c [] o f (layerNeeds o f l) fun s =>
      let tiles := poolTiles l parts
      match s.poolTrouble c [] l xAt tiles with
      | some (.violation a) => s.freezeEngine c o cAddress a
      | some (.lost x) => (s.noteUncorrectable x).fusedFail c o stRetired
      | none =>
        let r := s.vectorDrain c o.ticket (poolView l) (tiles.map fun t => (t, s.poolSums l xAt t))
        let s := if f.inter && (fusOf d).exch then r.s.publishBands c d (f.layer + 1) g [] else r.s
        let e := poolEmpty l
        s.fusedLayerDone c o f [e, r.escalated, r.sat, r.pip] r.widened (e ≠ 0)
  else
    let (tiles, dead) := convTiles g.fwd (s.core c).width g.tw g.cout g.cin g.cinp (parts.map fun px => (px, g.tapGroups))
    let w := { arrayWork o.ticket l 0 0 0 tiles with desc := l }
    let v := convView l g.fwd xAt
    match s.viewTrouble c v tiles (s.mayWiden c v.esc v.tout) with
    | some (.violation a) => s.freezeEngine c o cAddress a
    | some (.lost x) => (s.noteUncorrectable x).fusedFail c o stRetired
    | none =>
      ((s.modCnv c fun u => { u with elPasses := u.elPasses + BitVec.ofNat 32 dead }).modOp c o.ticket fun o =>
        { o with work := .fused f (some w) }).readsDone c o.ticket

end Sys2Proof.Machine
end

