-- ==== Sys2Proof/Machine/Array.lean ====
section
/-! DEFINITION. MATMUL and the events of the array: preparing, entering and landing a pass, a parity error, the start and
the end of a drain, and the reseeding of the generator (R54, R75 to R122, R444). -/

namespace Sys2Proof.Machine

/-! ### MATMUL (R75 to R79) -/

def execMatmul (c : CoreId) (bad : BadSectors) (s : State) : Host.Outcome State Fault Refusal :=
  .next (s.startIf c 0x10 bad (earlyBad 0 (s.matmulLegal c)) fun s o =>
    let d := o.desc
    let g := matOf d
    if !s.matmulLegal c d then s.badDesc c o
    else if g.m = 0 || g.k = 0 || g.n = 0 then s.finish c o.ticket stDone 0
    else s.unless c o [if g.mask = 0 then none else s.readTrouble c bad (localPart g.mask) (up64 (ceilDiv g.m 8))]
      fun s =>
        let rows := s.maskRows g.mask g.m
        let w := (s.core c).width
        s.startArray c o g.m g.k g.n (plainTiles w (if g.layout = 0 then w else g.tw) g.n 1024 rows (kTiles g.k)) 0)

/-! ### TILE_OPERATION_PREPARE (R54) -/

/-- The neighbours' band words are read before a pass that reads their rows; while they do not cover it, it waits
(R205). -/
def State.passReady (s : State) (c : CoreId) (o : Op) (a : ArrayWork) (r : PassRef) (go : State → State) : State :=
  match o.work with
  | .fused f _ => s.withBands c [] o f (passNeeds o f a r) go
  | _ => go s

/-- Shared sector tags that staging a pass takes, of those that are free: one for each sector that it reads outside the
core's own store (R55, R80, notes/assumptions/39.md). -/
def State.stageTags (s : State) (c : CoreId) (o : Op) (a : ArrayWork) (r : PassRef) : Nat :=
  match (a.tiles[r.tile]?).bind fun t => (t.passes[r.pass]?).map fun p => (t, p) with
  | none => 0
  | some (t, p) =>
    let xs := (passSectors (s.viewOf c o a) t p).eraseDups.filter fun x => !inStore c (x * 64) 64
    min xs.length (224 - s.sharedTags c)

/-- A pass is prepared: its operands are staged and its weights go on the bus. -/
def State.stage (s : State) (c : CoreId) (o : Op) (a : ArrayWork) (r : PassRef) (rest : List PassRef) : State :=
  let n := s.stageTags c o a r
  ((s.setArr c o.ticket { a with todo := rest }).modArr c fun u =>
    { u with prep := u.prep ++ [{ r with tags := n }] }).fillWeights c

/-- One tile operation of the earliest operation that still expands is prepared, within the lookahead and while a
sector tag is free (R54, R55). -/
def State.prepare (s : State) (c : CoreId) : State :=
  let k := s.core c
  if k.reg.frzCore || (s.cfgOf c).lookahead.toNat < k.arr.prep.length + 1 || 224 ≤ s.sharedTags c then s
  else match k.ops.find? fun o => o.expands && !o.move with
    | none => s
    | some o =>
      match o.work with
      | .fused f none =>
        match f.layers[f.layer]? with
        | some l => s.startLayer c o f l
        | none => s
      | _ =>
        match o.arr with
        | none => s
        | some a =>
          match a.todo with
          | [] => s
          | r :: rest => s.passReady c o a r fun s => s.stage c o a r rest

def execTileOperationPrepare (c : CoreId) (s : State) : Host.Outcome State Fault Refusal := .next (s.prepare c)

/-! ### PASS_ENTER (R81 to R90) -/

/-- The sectors of a record that some of its channels lie in; records start on sector boundaries (R74, R185). -/
def recSectors (ty : Nat) (pips : Bool) (L : Nat) (chans : List Nat) : Nat :=
  (chans.flatMap fun k => spotSectors ty (some (recSpot ty pips L 0 k))).eraseDups.length

/-- The sectors not read for one pass because its reads lie inside declared bands or outside the tensor (R193, R195,
R220). -/
def bandSectors (a : ArrayWork) (t : TileSpec) (p : PassSpec) : Nat :=
  let d := a.desc
  let g := geoOf d
  let ks := p.blocks.flatten
  let streamed (pos : Nat → Nat → Pos) (len padded : Nat) : Nat :=
    let taps := (ks.map fun k => k / padded).eraseDups
    (t.rows.map fun r => (taps.map fun τ =>
      if (pos r τ).real then 0
      else recSectors (dTypeA d) g.xPips len ((ks.filter fun k => k / padded = τ).map fun k => k % padded)).sum).sum
  match dOpc d with
  | 0x40 => streamed g.fwd g.cin g.cinp
  | 0x41 => streamed g.trans g.cin g.cinp
  | 0x52 => streamed g.back g.cout g.coutp
  | 0x53 =>
    let cols := (List.range (p.c1 - p.c0)).map (· + p.c0)
    (ks.map fun q => if (g.fwd q (p.c0 / g.cin)).real then 0
      else recSectors (dTypeB d) g.wPips g.cin (cols.map fun n => n % g.cin)).sum
  | _ => 0

/-- The bubbles before a beat of a busy period, by amounts that only the clock could say: BCAST before a tile loaded by
row broadcast, WTILE and FEED before any. The first beat of a busy period has none (R86, notes/assumptions/3.md). -/
def State.countBubbles (s : State) (c : CoreId) (wload : Bool) : State :=
  if !(s.core c).arr.busy then s.modArr c fun a => { a with busy := true }
  else
    let (v, s) := s.fresh
    s.modArr c fun a =>
      { a with bubWtile := a.bubWtile + v.extractLsb' 32 16, bubFeed := a.bubFeed + v.extractLsb' 16 16,
               bubBcast := if wload then a.bubBcast + v.extractLsb' 0 16 else a.bubBcast }

/-- The bubbles while no bank was free for the next output tile of a busy period, counted when one becomes free (R86,
notes/assumptions/3.md). -/
def State.countHold (s : State) (c : CoreId) : State :=
  if (s.core c).arr.busy && (s.core c).arr.holds then
    let (v, s) := s.fresh
    s.modArr c fun a => { a with bubHold := a.bubHold + v.extractLsb' 0 16 }
  else s

/-- A bank becomes FREE. -/
def State.freeBank (s : State) (c : CoreId) (b : Fin 2) : State :=
  (s.countHold c).modArr c fun u => { u with banks := vmod u.banks b freeBankState }

/-- FEN_TPASS. -/
def State.countRoute (s : State) (c : CoreId) (d : Desc) : State :=
  match s.routeOf c d with
  | some 2 => s.modArr c fun a => { a with tpTxb := a.tpTxb + 1 }
  | some _ => s.modArr c fun a => { a with tpFetch := a.tpFetch + 1 }
  | none => s

/-- A FREE bank is bound to an output tile and zeroed (R87). -/
def bindBank (r : PassRef) (t : TileSpec) : Bank :=
  { st := if t.passes.isEmpty then .full else .filling, ticket := r.ticket, tile := r.tile, rerun := r.rerun,
    sums := t.rows.map fun _ => List.replicate (t.n1 - t.n0) 0, sat := 0, pip := 0 }

/-- The first beat of a prepared pass enters: its bubbles, beats and route are counted, its tile's pending weights become
active, its tags are free and it is in flight (R55, R81 to R86). A tile without passes only takes its bank. -/
def State.enterPass (s : State) (c : CoreId) (r : PassRef) (a : ArrayWork) (t : TileSpec) : State :=
  let dropped := s.modArr c fun u => { u with prep := u.prep.drop 1 }
  match t.passes[r.pass]? with
  | none => dropped.fillWeights c
  | some p =>
    let beats := ceilDiv t.rows.length (rateG (dTypeB a.desc))
    let s := (dropped.countBubbles c (wloadOf a.desc)).countRoute c a.desc
    let s := s.modArr c fun u =>
      { u with flight := u.flight ++ [r], active := some (r, elemW (dTypeB a.desc)),
               beats := u.beats + BitVec.ofNat 64 beats }
    (s.modCnv c fun u =>
      { u with elSectors := u.elSectors + BitVec.ofNat 32 (bandSectors a t p) }).fillWeights c

def State.enter (s : State) (c : CoreId) : State :=
  let k := s.core c
  if k.reg.frzCore then s
  else match k.arr.prep with
    | [] => s
    | r :: _ =>
      match (s.arrOf c r.ticket).bind fun a => (a.tiles[r.tile]?).map fun t => (a, t) with
      | none => s.modArr c fun u => { u with prep := u.prep.drop 1 }
      | some (a, t) =>
        match k.arr.bankOf r, k.arr.freeBank with
        | some _, _ => s.enterPass c r a t
        | none, none => s
        | none, some b =>
          (s.modArr c fun u => { u with banks := vset u.banks b (bindBank r t), lastBank := b }).enterPass c r a t

def execPassEnter (c : CoreId) (s : State) : Host.Outcome State Fault Refusal := .next (s.enter c)

/-! ### The end of an operation's array work -/

/-- Every tile is drained or lost: the status and result words of the running operation are known (R104, R122,
R444). -/
def State.arrayDone (s : State) (c : CoreId) (ticket : BitVec 32) : State :=
  match s.running c ticket with
  | none => s
  | some o =>
    match o.arr with
    | none => s
    | some a =>
      if a.left ≠ 0 then s
      else
        let s := s.dropCarry c ticket
        match o.work with
        | .fused f _ =>
          if !a.lost.isEmpty then s.fusedFail c o stRetired
          else s.fusedLayerDone c o f [a.passes, a.escalated, a.sat, a.pip] a.widened false
        | _ => s.finish c ticket a.status (a.result a.passes)

/-- One tile less to drain. -/
def State.tileGone (s : State) (c : CoreId) (ticket : BitVec 32) : State :=
  match s.arrOf c ticket with
  | none => s
  | some a => (s.setArr c ticket { a with left := a.left - 1 }).arrayDone c ticket

/-! ### PASS_LAND (R87, R95 to R98, R444) -/

/-- One more pass completed, unless it is a re-run (R104). -/
def State.countPass (s : State) (c : CoreId) (a : ArrayWork) (r : PassRef) : State :=
  if r.counted then
    (s.setArr c r.ticket { a with passes := a.passes + 1 }).modArr c fun u => { u with passes := u.passes + 1 }
  else s

/-- The last beat of an abandoned tile has landed: its bank is FREE (R87). -/
def State.landDead (s : State) (c : CoreId) (b : Fin 2) (r : PassRef) : State :=
  let x := vget (s.core c).arr.banks b
  if !x.dead || (s.core c).arr.flight.any x.holds then s else (s.freeBank c b).tileGone c r.ticket

/-- An output tile is lost: its passes not entered are dropped, and its bank is FREE once every entered beat has landed
(R87, R444). -/
def State.loseTile (s : State) (c : CoreId) (b : Fin 2) (r : PassRef) (sector : Nat) : State :=
  let s := s.noteUncorrectable sector
  let s := match s.arrOf c r.ticket with
    | none => s
    | some a => s.setArr c r.ticket { a with todo := dropRefs r.ticket r.tile a.todo, lost := a.lost ++ [r.tile] }
  let s := (s.modArr c fun u =>
    { u with prep := dropRefs r.ticket r.tile u.prep, banks := vmod u.banks b fun x => { x with dead := true } }).fillWeights c
  s.landDead c b r

/-- The oldest pass in flight lands in its bank; after its tile's last pass the bank is FULL. The neighbours may be told
that their rows are read (R87, R206). -/
def State.land (s : State) (c : CoreId) (bad : BadSectors) : State :=
  let k := s.core c
  match k.arr.flight with
  | [] => s
  | r :: rest =>
    let s := s.modArr c fun u => { u with flight := rest }
    match s.findOp c r.ticket with
    | none => s
    | some o =>
      match o.arr.bind fun a => (a.tiles[r.tile]?).bind fun t => (t.passes[r.pass]?).map fun p => (a, t, p),
            (s.core c).arr.bankOf r with
      | some (a, t, p), some b =>
        let s := s.countPass c a r
        if (vget k.arr.banks b).dead then s.landDead c b r
        else
          let v := s.viewOf c o a
          match s.passLost bad v t p with
          | some x => s.loseTile c b r x
          | none =>
            let (sums, sat) := s.landSums v t p (vget k.arr.banks b).sums
            let last := r.pass + 1 = t.passes.length
            (s.modArr c fun u =>
              { u with banks := vmod u.banks b fun k =>
                  { k with sums := sums, sat := k.sat + sat, st := if last then .full else .filling } }).readsDone c r.ticket
      | _, _ => s

def execPassLand (c : CoreId) (bad : BadSectors) (s : State) : Host.Outcome State Fault Refusal := .next (s.land c bad)

/-! ### ARRAY_PARITY_ERROR (R87, R101, R103) -/

/-- The tile of a pass runs again from its first pass: its landed sums are discarded, and a pass counts when it
completes for the first time (R87, R103). An abandoned tile is not run again. -/
def State.rerunTile (s : State) (c : CoreId) (r : PassRef) : State :=
  let k := s.core c
  let mine (x : PassRef) : Bool := x.ticket = r.ticket && x.tile = r.tile && x.rerun = r.rerun
  if k.arr.banks.toList.any fun b => b.dead && b.holds r then s
  else
    let total := ((s.arrOf c r.ticket).bind fun a => (a.tiles[r.tile]?).map fun t => t.passes.length).getD 0
    let left := (k.arr.flight ++ k.arr.prep).filter mine
    let todo := (((s.arrOf c r.ticket).map fun a => (a.todo.filter mine).map PassRef.pass).getD [])
    let again := (List.range total).filterMap fun p =>
      if todo.contains p then none
      else some { r with pass := p, tags := 0, counted := left.any fun x => x.pass = p && x.counted }
    (s.modArr c fun u =>
      { u with flight := u.flight.filter fun x => !mine x, prep := again ++ u.prep.filter fun x => !mine x,
               banks := u.banks.map fun b => if b.holds r && b.st == .filling
                 then { b with sums := b.sums.map fun x => x.map fun _ => 0, sat := 0 } else b }).fillWeights c

/-- A parity error at a physical column and array row in the pass with this place among those in flight: it is recorded,
the tile runs again, and the column's threshold is judged (R103, R303, class 6). -/
def State.parityError (s : State) (c : CoreId) (col : Fin 64) (row : Byte) (pass : Nat) : State :=
  match (s.core c).arr.flight[pass]? with
  | none => s
  | some r =>
    let s := (s.rerunTile c r).modArr c fun u =>
      { u with perrValid := true, perrCol := if u.perrValid then u.perrCol else BitVec.ofNat 8 col.val,
               perrRow := if u.perrValid then u.perrRow else row, perrCount := u.perrCount + 1,
               perrCols := u.perrCols ++ [col.val] }
    if (s.core c).arr.failCols.getLsbD col.val || (s.core c).arr.colmap.getLsbD col.val then s
    else
      let (x, s) := s.crosses 6 ((s.core c).arr.perrCols.count col.val)
      if x then s.modArr c fun u => { u with failCols := u.failCols ||| ((1 : Word) <<< col.val) } else s

def execArrayParityError (c : CoreId) (col : Fin 64) (row : Byte) (pass : Nat) (s : State) :
    Host.Outcome State Fault Refusal :=
  .next (s.parityError c col row pass)

/-! ### BANK_DRAIN_START (R88, R93, R94, R111 to R117) -/

/-- The other bank was bound before this one, and is FULL. -/
def ArrUnit.drainsAfter (a : ArrUnit) (b : Fin 2) : Bool :=
  a.lastBank = b && (vget a.banks (if b = 0 then 1 else 0)).st == .full

/-- The sectors that a tile's drain writes, up to the 16 that its reserved tags cover (R55). -/
def drainSectors (v : View) (widened : Bool) (t : TileSpec) : Nat :=
  let (ty, pips) := drainType v widened
  let xs := t.rows.flatMap fun r => (List.range (t.n1 - t.n0)).flatMap fun i =>
    let (a, j) := v.out r (t.n0 + i)
    if v.writes r (t.n0 + i) then spotSectors ty (some (recSpot ty pips v.len a j)) else []
  min 16 xs.eraseDups.length

/-- A FULL bank starts to drain while the drain is idle, the one bound first before the other: its rows are written and
its monitors counted. -/
def State.drainStart (s : State) (c : CoreId) (b : Fin 2) : State :=
  let k := s.core c
  let x := vget k.arr.banks b
  if x.st != .full || k.arr.drainsAfter b || k.arr.banks.toList.any fun y => y.st == .draining then s
  else match s.findOp c x.ticket with
    | none => s
    | some o =>
      match o.arr.bind fun a => (a.tiles[x.tile]?).map fun t => (a, t) with
      | none => s
      | some (a, t) =>
        let v := s.viewOf c o a
        match s.accumLost v t with
        | some y =>
          let s := (s.noteUncorrectable y).freeBank c b
          (s.setArr c x.ticket { a with lost := a.lost ++ [x.tile] }).tileGone c x.ticket
        | none =>
          let d := s.drainTile c x.ticket v a.widened t x.sums
          let pol := s.policy c v.esc
          let extra := (if v.int then x.sat else 0) + (if pol = 0 then 0 else d.wide)
          let own := pol != 0 && !x.rerun
          let s := d.s.modArr c fun u =>
            { u with banks := vmod u.banks b fun y =>
                { y with st := .draining, sat := if own then d.sat else 0, pip := if own then d.pip else 0,
                         writing := drainSectors v a.widened t } }
          s.setArr c x.ticket { a with sat := a.sat + extra }

def execBankDrainStart (c : CoreId) (b : Fin 2) (s : State) : Host.Outcome State Fault Refusal := .next (s.drainStart c b)

/-! ### BANK_DRAIN_END (R87, R117 to R122) -/

/-- Widening (R120): the tiles drained so far, this one included, run again after what is already prepared. -/
def widen (ticket : BitVec 32) (a : ArrayWork) : ArrayWork :=
  let refs := a.drained.flatMap fun i => match a.tiles[i]? with
    | some t => refsOf ticket i t true
    | none => []
  { a with widened := true, todo := refs ++ a.todo, left := a.left + a.drained.length,
           escalated := a.escalated + a.drained.length }

/-- The rows of a stripe's bands that became performed are published (R204). -/
def State.publishDrained (s : State) (c : CoreId) (o : Op) (a : ArrayWork) : State :=
  match o.work with
  | .fused f _ =>
    if o.phase == .running && f.inter && (fusOf o.desc).exch then
      let pending := (a.tiles.zipIdx.filter fun x => !a.drained.contains x.2).map Prod.fst
      s.publishBands c o.desc (f.layer + 1) (geoOf a.desc) pending
    else s
  | _ => s

/-- The drain writes its last row slot: the bank is FREE, the tile's counts are taken once, the trip is decided, and
the operation ends with its last tile. -/
def State.drainEnd (s : State) (c : CoreId) (b : Fin 2) : State :=
  let k := s.core c
  let x := vget k.arr.banks b
  if x.st != .draining then s
  else
    let s := s.freeBank c b
    match s.findOp c x.ticket with
    | none => s
    | some o =>
      match o.arr with
      | none => s
      | some a =>
        let trip := s.policy c (dEsc a.desc) != 0 && !x.rerun && s.tripped c x.sat x.pip
        let a := { a with drained := if x.rerun then a.drained else a.drained ++ [x.tile],
                          sat := a.sat + x.sat, pip := a.pip + x.pip }
        let wide := trip && !a.widened && s.mayWiden c (dEsc a.desc) (dTypeOut a.desc)
        let a := if wide then widen x.ticket a else a
        let s := (s.countTrips c (ofBool trip) (ofBool x.rerun)).publishDrained c o a
        ((s.setArr c x.ticket a).readsDone c x.ticket).tileGone c x.ticket

def execBankDrainEnd (c : CoreId) (b : Fin 2) (s : State) : Host.Outcome State Fault Refusal := .next (s.drainEnd c b)

/-! ### RNG_RESEED (R114) -/

/-- The generator is reseeded; a failed health test shows in DRN_RNG. A reseed whose entropy fails the test counts in
RESEEDS as any other (DESIGN CHOICE, notes/assumptions/41.md: R114 does not say). -/
def execRngReseed (c : CoreId) (ok : Bool) (s : State) : Host.Outcome State Fault Refusal :=
  .next (s.modArr c fun a => { a with reseeds := a.reseeds + 1, rngHealth := ok })

end Sys2Proof.Machine
end

