-- ==== Sys2Proof/Machine/Backward.lean ====
section
/-! DEFINITION. The backward products and STASH (R209 to R222). -/

namespace Sys2Proof.Machine

/-- The columns of a tile that hold a trained element for lane n (R218). -/
def State.laneFed (s : State) (mask K n c0 c1 : Nat) : Bool :=
  (List.range (c1 - c0)).any fun i => s.blockBit mask K n (c0 + i)

def execMatmulDx (c : CoreId) (bad : BadSectors) (s : State) : Host.Outcome State Fault Refusal :=
  .next (s.startIf c 0x50 bad (earlyBad 0 (s.dxLegal c)) fun s o =>
    let d := o.desc
    let g := matOf d
    if !s.dxLegal c d then s.badDesc c o
    else if g.m = 0 || g.k = 0 || g.n = 0 then s.finish c o.ticket stDone 0
    else s.unless c o [if g.mask = 0 then none else s.readTrouble c bad (localPart g.mask) (up64 (ceilDiv g.m 8))]
      fun s =>
        let w := (s.core c).width
        s.startArray c o g.m g.k g.n (plainTiles w w g.k 1024 (s.maskRows g.mask g.m) (kTiles g.n)) 0)

/-- Output tiles of MATMUL_DW: those with a fed lane (R217, R218). -/
def State.dwTiles (s : State) (g : Mat) (width group : Nat) : List TileSpec :=
  let lanes := s.maskRows g.mask g.n
  (List.range (ceilDiv g.k width)).flatMap fun t =>
    let c0 := t * width
    let c1 := min g.k (t * width + width)
    (groups group (lanes.filter fun n => s.laneFed g.bmask g.k n c0 c1)).map fun ls =>
      { rows := ls, n0 := c0, n1 := c1, passes := passesOver width width c0 c1 (kTiles g.m) }

def execMatmulDw (c : CoreId) (bad : BadSectors) (s : State) : Host.Outcome State Fault Refusal :=
  .next (s.startIf c 0x51 bad (earlyBad 0 (s.dwLegal c)) fun s o =>
    let d := o.desc
    let g := matOf d
    if !s.dwLegal c d then s.badDesc c o
    else if g.m = 0 || g.k = 0 || g.n = 0 then s.finish c o.ticket stDone 0
    else
      s.unless c o
        [if g.mask = 0 then none else s.readTrouble c bad (localPart g.mask) (up64 (ceilDiv g.n 8)),
         if g.bmask = 0 then none else s.readTrouble c bad (localPart g.bmask) (up64 (ceilDiv g.blockBits 8))]
        fun s => s.startArray c o g.m g.k g.n (s.dwTiles g (s.core c).width (groupOf d ((s.routeOf c d).getD 1))) 0)

def execConvDx (c : CoreId) (bad : BadSectors) (s : State) : Host.Outcome State Fault Refusal :=
  .next (s.startIf c 0x52 bad (earlyBad (leastConv 1) (s.convDxLegal c)) fun s o =>
    let d := o.desc
    let g := geoOf d
    if !s.convDxLegal c d then s.badDesc c o
    else if g.isZero then s.finish c o.ticket stDone 0
    else
      let px := (List.range g.inPixels).filter fun p => let (t, y, x) := pixel g.ih g.iw p; !g.inBand t y x
      let w := (s.core c).width
      let (tiles, dead) := convTiles g.back w w g.cin g.cout g.coutp (phaseParts g px g.backPhase)
      s.startArray c o 0 0 0 tiles dead)

def execConvDw (c : CoreId) (bad : BadSectors) (s : State) : Host.Outcome State Fault Refusal :=
  .next (s.startIf c 0x53 bad (earlyBad (leastConv 0) (s.convDwLegal c)) fun s o =>
    let d := o.desc
    let g := geoOf d
    let nb := up64 (ceilDiv (ceilDiv g.cout 64 * ceilDiv g.cin 64) 8)
    if !s.convDwLegal c d then s.badDesc c o
    else if g.isZero then s.finish c o.ticket stDone 0
    else s.unless c o [if g.bmask = 0 then none else s.readTrouble c bad (localPart g.bmask) nb] fun s =>
      let (tiles, dead) := s.convDwTiles g (s.core c).width (groupOf d ((s.routeOf c d).getD 1))
      s.startArray c o 0 0 0 tiles dead)

/-! ### STASH (R221) -/

def stashLen (d : Desc) : Nat := d32 d 20

def State.stashLegal (s : State) (c : CoreId) (d : Desc) : Bool :=
  let rows := d32 d 16
  let len := stashLen d
  onlyFields d [(16, 8), (32, 16), (64, 16)] && 1 ≤ len && len ≤ 65536 && 8 ≤ dTypeA d && dTypeA d ≤ 10 &&
  dTypeB d = 0 && 1 ≤ dTypeOut d && dTypeOut d ≤ 4 && dTmode d = 0 && !dPadz d &&
  s.rowsOk c (d64 d 32) rows (d64 d 64) (extent (dTypeA d) false len) &&
  s.rowsOk c (d64 d 40) rows (d64 d 72) (s.outExtent c d false len)

/-- The records a STASH writes, widened or not. -/
def State.stashWrites (s : State) (c : CoreId) (d : Desc) : List (Nat × Nat) :=
  rowRanges (d64 d 40) (d32 d 16) (d64 d 72) (s.outExtent c d false (stashLen d))

def stashView (d : Desc) : View :=
  let len := stashLen d
  { ta := dTypeA d, tb := 0, tout := dTypeOut d, outPips := false, accum := false, ref := 0, len := len,
    rnd := dRnd d = 1, esc := dEsc d,
    a := fun r j => some (recSpot (dTypeA d) false len (localPart (d64 d 32) + r * d64 d 64) j), b := fun _ _ => none,
    out := fun r j => (localPart (d64 d 40) + r * d64 d 72, j), writes := fun _ _ => true }

/-- Output tiles of up to 1,024 records by 64 elements. -/
def stashTiles (rows len : Nat) : List TileSpec :=
  (List.range (ceilDiv len 64)).flatMap fun nt => (groups 1024 (List.range rows)).map fun rs =>
    { rows := rs, n0 := nt * 64, n1 := min len (nt * 64 + 64), passes := [] }

def execStash (c : CoreId) (bad : BadSectors) (s : State) : Host.Outcome State Fault Refusal :=
  .next (s.startVec c 0x58 bad (earlyBad (2 ^ 32) (s.stashLegal c)) (s.stashWrites c) fun s o =>
    let d := o.desc
    let rows := d32 d 16
    if !s.stashLegal c d then s.badDesc c o
    else if rows = 0 then s.finish c o.ticket stDone 0
    else
      let v := stashView d
      let tiles := stashTiles rows (stashLen d)
      let n := recBytes (dTypeA d) false (stashLen d)
      let reads := (List.range rows).map fun i => s.readTrouble c bad (localPart (d64 d 32) + i * d64 d 64) n
      s.unless c o (reads ++ [s.viewTrouble c v tiles (s.mayWiden c v.esc v.tout)]) fun s =>
        let r := s.vectorDrain c o.ticket v
          (tiles.map fun t => (t, t.rows.map fun i => (List.range (t.n1 - t.n0)).map fun j =>
            toF32 (s.valAt v.ta (v.a i (t.n0 + j)))))
        r.s.finish c o.ticket (if r.widened then stEscalated else stDone)
          (resWords [rows, r.escalated, r.sat, r.pip]))

end Sys2Proof.Machine
end

