-- ==== Sys2Proof/Machine/Shard.lean ====
section
/-! DEFINITION. Parameter shards: SHARD_GET, SHARD_PUBLISH and SHARD_GATHER (R223 to R226, R290). The form of the messages
that carry a step on a record to another module is open (notes/assumptions/16.md). -/

namespace Sys2Proof.Machine

/-- The type fields of an operation without typed operands (R40). -/
def untyped (d : Desc) : Bool := dTypeA d = 0 && dTypeB d = 0 && dTypeOut d = 0 && dTmode d = 0 && !dPadz d

/-! ### Shard records (R223) -/

/-- The fields of a record's 64 bytes. -/
structure ShardRec where
  gen : Nat
  pgen : Nat
  cur : Nat
  slots : Nat → Nat
  refs : Nat → Nat
  reads : Nat → Nat
  len : Nat

def shardRec (b : List Byte) : ShardRec :=
  let f (a n : Nat) : Nat := leNat ((b.drop a).take n)
  { gen := f 0 4, pgen := f 4 4, cur := f 8 1 % 2, slots := fun t => f (16 + 8 * t) 8, refs := fun t => f (32 + 4 * t) 4,
    reads := fun t => f (40 + 4 * t) 4, len := f 48 8 }

/-- The record at a local address. -/
def State.shardHere (s : State) (a : Nat) : ShardRec := shardRec (s.rd a 64)

/-- REFS and READ of a slot written. -/
def State.setRefs (s : State) (a t v : Nat) : State := s.storeN (a + 32 + 4 * t) 4 v
def State.setReads (s : State) (a t v : Nat) : State := s.storeN (a + 40 + 4 * t) 4 (v % 2 ^ 32)

def noGen : Nat := 0xFFFFFFFF

/-! ### Steps at a record's memory side (R224, R225) -/

/-- FN of the messages that carry a step to another module, and their answers: a list of 8-byte numbers. -/
def fnTake : Byte := 0x60
def fnGive : Byte := 0x70
def fnPub : Byte := 0x80
def fnReads : Byte := 0x90
def fnNew : Byte := 0xA0
def fnDrop : Byte := 0xB0

/-- The slot a get takes (R224). -/
def shardSlot (r : ShardRec) (mode gen : Nat) : Option Nat :=
  if mode = 2 then
    if gen = r.gen then some r.cur else if gen = r.pgen && r.pgen ≠ noGen then some (1 - r.cur) else none
  else some r.cur

/-- READ + 1, and in FWD REFS + 1 with it: the status, and the slot, its generation, REFS and address. -/
def State.shardTake (s : State) (a mode gen len : Nat) : List Nat × State :=
  let r := s.shardHere a
  if len ≠ r.len then ([stBadDesc.toNat], s)
  else match shardSlot r mode gen with
    | none => ([stStaleShard.toNat], s)
    | some t =>
      let refs := if mode = 1 then min (r.refs t + 1) noGen else r.refs t
      let s := s.setReads a t (r.reads t + 1)
      ([0, t, if t = r.cur then r.gen else r.pgen, refs, r.slots t], if mode = 1 then s.setRefs a t refs else s)

/-- READ − 1, and REFS − 1, not below 0, after the copy of a BWD: the slot's REFS afterwards. -/
def State.shardGive (s : State) (a t drop : Nat) : List Nat × State :=
  let r := s.shardHere a
  let refs := r.refs t - drop
  let s := s.setReads a t (r.reads t + 2 ^ 32 - 1)
  ([refs], if refs = r.refs t then s else s.setRefs a t refs)

/-- Steps 1 and 2 of a publish, which keeps its place among those on the record: 2 while another one is before it, 1 while
it waits for REFS; or 0, the REFS of slot t that step 2 reads, and the slot's address. -/
def State.shardPub (s : State) (a who drop len : Nat) : List Nat × State :=
  let r := s.shardHere a
  let t := 1 - r.cur
  if len ≠ r.len then ([stBadDesc.toNat], s)
  else
    let s := if s.fab.publishing.contains (a, who) then s
      else s.modFab fun f => { f with publishing := f.publishing ++ [(a, who)] }
    if (s.fab.publishing.find? fun x => x.1 = a) ≠ some (a, who) then ([2], s)
    else if drop = 0 && r.refs t ≠ 0 then ([1], s)
    else ([0, r.refs t, r.slots t], s.storeN (a + 4) 4 noGen)

/-- A publish leaves the record. -/
def State.shardDrop (s : State) (a who : Nat) : State :=
  s.modFab fun f => { f with publishing := f.publishing.filter (· ≠ (a, who)) }

/-- Step 5 of a publish: the new GEN. -/
def State.shardNew (s : State) (a who : Nat) : List Nat × State :=
  let r := s.shardHere a
  let t := 1 - r.cur
  let gen := if (r.gen + 1) % 2 ^ 32 = noGen then 0 else (r.gen + 1) % 2 ^ 32
  ([gen], (((((s.storeN (a + 4) 4 r.gen).storeN a 4 gen).storeN (a + 8) 1 t).setRefs a t 0)).shardDrop a who)

/-- A step on the record at a local address, by its FN. -/
def State.shardStep (s : State) (a : Nat) (fn : Byte) (xs : List Nat) : List Nat × State :=
  let x (i : Nat) : Nat := xs.getD i 0
  if fn = fnTake then s.shardTake a (x 0) (x 1) (x 2)
  else if fn = fnGive then s.shardGive a (x 0 % 2) (x 1)
  else if fn = fnPub then s.shardPub a (x 0) (x 1) (x 2)
  else if fn = fnReads then ([let r := s.shardHere a; r.reads (1 - r.cur)], s)
  else if fn = fnNew then s.shardNew a (x 0)
  else ([], s.shardDrop a (x 0))

/-- Numbers in the data of a message. -/
def numBytes (xs : List Nat) : List Byte := xs.flatMap (leBytes 8)
def numsOf (b : List Byte) : List Nat := (List.range (b.length / 8)).map fun i => leNat ((b.drop (8 * i)).take 8)

def stepAt (g : Nat) (fn : Byte) (xs : List Nat) : Xfer := { kind := .shard fn xs, src := 0, dst := g, len := 64, pos := 0 }

/-! ### Gets -/

/-- The gets of an operation are in progress. -/
def Work.isShard (w : Work) : Bool :=
  match w with
  | .shard _ => true
  | _ => false

/-- What one get names: record, destination, length, generation and mode. -/
structure ShardArgs where
  place : Nat
  dst : Nat
  len : Nat
  gen : Nat
  mode : Nat

/-- Entry i of a gather, or the get itself (R224, R290). -/
def State.shardArgs (s : State) (d : Desc) (i : Nat) : ShardArgs :=
  if dOpc d = 0x75 then
    let e := localPart (d64 d 32) + 32 * i
    { place := s.rdN e 8, dst := s.rdN (e + 8) 8, len := s.rdN (e + 16) 8, gen := s.rdN (e + 24) 4, mode := dBits d 96 1 0 }
  else { place := d64 d 32, dst := d64 d 40, len := d64 d 16, gen := d32 d 100, mode := dBits d 96 1 0 }

def shardCount (d : Desc) : Nat := if dOpc d = 0x75 then d32 d 16 else 1

def ShardEnt.new : ShardEnt :=
  { slot := 0, gen := 0, refs := 0, took := false, xfers := [], tag := none, fail := none, st := none }

/-- An entry after one of its transfers; none where its list is frozen. -/
abbrev EntStep := Option ShardEnt × State

/-- The last step of a get: READ − 1 and REFS − 1 here, or sent to the record's module. -/
def State.entGive (s : State) (c : CoreId) (o : Op) (a : ShardArgs) (e : ShardEnt) (fail : Option Status) : EntStep :=
  let drop := if a.mode = 2 && fail.isNone then 1 else 0
  if !e.took then (some { e with st := some (fail.getD stDone) }, s)
  else if s.isLocal a.place then
    let (ans, s) := s.shardGive (localPart a.place) e.slot drop
    (some { e with refs := ans.headD 0, took := false, xfers := [], st := some (fail.getD stDone) }, s)
  else
    let (_, s) := s.runXfers c o.ticket [] [stepAt a.place fnGive [e.slot, drop]]
    (some { e with fail := fail }, s)

/-- The copy of a get goes on with its transfers. -/
def State.entCopy (s : State) (c : CoreId) (o : Op) (a : ShardArgs) (e : ShardEnt) (xs : List Xfer) (bad : BadSectors) :
    EntStep :=
  match s.runXfers c o.ticket bad xs with
  | (.done, s) => s.entGive c o a e none
  | (.waiting, s) => (some e, s)
  | (.lost y, s) => (s.noteUncorrectable y).entGive c o a e (some stRetired)

/-- The record has answered a take: the copy starts, or the get fails. -/
def State.entTook (s : State) (c : CoreId) (o : Op) (a : ShardArgs) (e : ShardEnt) (ans : List Nat) (bad : BadSectors) :
    EntStep :=
  if ans.headD 0 ≠ 0 then (some { e with xfers := [], st := some (BitVec.ofNat 16 (ans.headD 0)) }, s)
  else
    let src := ans.getD 4 0
    let e := { e with slot := ans.getD 1 0, gen := ans.getD 2 0, refs := ans.getD 3 0, took := true }
    match s.globalTrouble c [] src a.len false, s.globalTrouble c [] a.dst a.len true with
    | some (.violation x), _ => (none, (s.entGive c o a e (some stRetired)).2.freezeEngine c o cAddress x)
    | _, some (.violation x) => (none, (s.entGive c o a e (some stRetired)).2.freezeEngine c o cAddress x)
    | _, _ => s.entCopy c o a e [cpy src a.dst a.len] bad

/-- One get from its start: its record is here, or its module is asked to take the step (R224, R290). -/
def State.entStart (s : State) (c : CoreId) (o : Op) (a : ShardArgs) (bad : BadSectors) : EntStep :=
  if s.isLocal a.place then
    match s.coreViolates c (localPart a.place) 64 true, s.uncorrectable bad (localPart a.place) 64 with
    | some x, _ => (none, s.freezeEngine c o cAddress x)
    | none, some y => (some { ShardEnt.new with st := some stRetired }, s.noteUncorrectable y)
    | none, none =>
      let (ans, s) := s.shardTake (localPart a.place) a.mode a.gen a.len
      s.entTook c o a ShardEnt.new ans bad
  else match s.globalTrouble c [] a.place 64 false with
    | some (.violation x) => (none, s.freezeEngine c o cAddress x)
    | _ => (some ShardEnt.new, (s.runXfers c o.ticket [] [stepAt a.place fnTake [a.mode, a.gen, a.len]]).2)

/-- Entry i after a step: its transfers and the tag of the one on its way are kept with it, and a gather's entry that is
over has its generation and status written (R290). -/
def State.entKeep (s : State) (c : CoreId) (o : Op) (i : Nat) (a : ShardArgs) (x : EntStep) : State :=
  match x with
  | (none, s') => s'
  | (some e, s') =>
    let now := s'.findOp c o.ticket
    let tags := (now.map Op.tags).getD []
    let before := ((s.findOp c o.ticket).map Op.tags).getD []
    let fresh := tags.filter fun t => !before.contains t
    let e := { e with xfers := if e.st.isSome then [] else (now.map Op.xfers).getD [], tag := fresh.head? }
    let s' := s'.modOp c o.ticket fun o =>
      { o with xfers := [],
               work := match o.work with
                 | .shard w => .shard (w.set i e)
                 | x => x }
    match e.st with
    | none => s'
    | some st =>
      if dOpc o.desc ≠ 0x75 then s'
      else
        let at' := localPart (d64 o.desc 32) + 32 * i
        (if a.mode ≠ 2 && st = stDone then s'.storeN (at' + 24) 4 e.gen else s').storeN (at' + 28) 2 st.toNat

/-- DONE and FAILED entries and the lowest-numbered failed one, of those that are over (R290). -/
def gatherResult (w : List ShardEnt) : BitVec 128 :=
  let ended := w.zipIdx.filterMap fun x => x.1.st.map fun st => (st, x.2)
  let failed := ended.filter fun x => isFailure x.1
  resultOf (leBytes 4 (ended.length - failed.length) ++ leBytes 4 failed.length ++
    leBytes 4 ((failed.head?.map Prod.snd).getD noGen))

/-- All entries are over: the result words and the status (R224, R290). -/
def State.shardFinish (s : State) (c : CoreId) (ticket : BitVec 32) : State :=
  match s.running c ticket with
  | none => s
  | some o =>
    match o.work with
    | .shard w =>
      if !(w.all fun e => e.st.isSome) then s
      else if dOpc o.desc = 0x75 then
        s.finish c ticket (((w.filterMap ShardEnt.st).find? isFailure).getD stDone) (gatherResult w)
      else match w with
        | [e] => if e.st = some stDone then s.finish c ticket stDone (resultOf (leBytes 4 e.gen ++ leBytes 4 e.refs))
          else s.finish c ticket (e.st.getD stDone) 0
        | _ => s
    | _ => s

/-- Every entry is started, here or by a message: they are performed concurrently and independently (R290). -/
def State.shardStart (s : State) (c : CoreId) (o : Op) (bad : BadSectors) : State :=
  let n := shardCount o.desc
  let s := s.modOp c o.ticket fun o => { o with work := .shard (List.replicate n ShardEnt.new) }
  (s.each (List.range n) fun s i =>
    if (s.running c o.ticket).isNone then s
    else let a := s.shardArgs o.desc i; s.entKeep c o i a (s.entStart c o a bad)).shardFinish c o.ticket

/-- A response reaches an entry: `f` is what it makes of it, with the entry's transfers in hand. -/
def State.entResponse (s : State) (c : CoreId) (o : Op) (tag : BitVec 16)
    (f : State → Op → ShardArgs → ShardEnt → EntStep) : State :=
  match o.work with
  | .shard w =>
    match w.findIdx? fun e => e.tag = some tag with
    | none => s
    | some i =>
      match w[i]? with
      | none => s
      | some e =>
        let a := s.shardArgs o.desc i
        let s := s.modOp c o.ticket fun o => { o with xfers := e.xfers }
        (s.entKeep c o i a (f s { o with xfers := e.xfers } a { e with tag := none })).shardFinish c o.ticket
  | _ => s

/-- Data of a message reach an entry. -/
def State.entData (s : State) (c : CoreId) (o : Op) (b : List Byte) (a : ShardArgs) (e : ShardEnt) : EntStep :=
  match o.xfers with
  | [] => (some e, s)
  | x :: rest =>
    match x.kind with
    | .shard fn _ =>
      let s := s.setXfers c o.ticket rest
      if fn = fnTake then s.entTook c o a e (numsOf b) []
      else (some { e with refs := (numsOf b).headD 0, took := false, st := some (e.fail.getD stDone) }, s)
    | _ =>
      let n := s.chunkLen x
      if s.isLocal x.dst then
        let xs := if x.len ≤ x.pos + n then rest else { x with pos := x.pos + n } :: rest
        (s.store (localPart x.dst + x.pos) (b.take n)).entCopy c o a e xs []
      else (some e, s.opRequest c o.ticket opBwrite 0 (x.dst + x.pos) n (b.take n))

/-- An acknowledgement of a written piece reaches an entry. -/
def State.entAcked (s : State) (c : CoreId) (o : Op) (a : ShardArgs) (e : ShardEnt) : EntStep :=
  match o.xfers with
  | [] => (some e, s)
  | x :: rest =>
    let n := s.chunkLen x
    s.entCopy c o a e (if x.len ≤ x.pos + n then rest else { x with pos := x.pos + n } :: rest) []

/-- A refusal reaches an entry: it fails, and gives back what it took (R279, R290). -/
def State.entFailed (s : State) (c : CoreId) (o : Op) (st : Status) (a : ShardArgs) (e : ShardEnt) : EntStep :=
  let giving := o.xfers.any fun x => match x.kind with
    | .shard fn _ => fn == fnGive
    | _ => false
  let s := s.setXfers c o.ticket []
  if giving then (some { e with took := false, st := some (e.fail.getD st) }, s) else s.entGive c o a e (some st)

/-- An operation that is stopped gives back what its entries took; its counts so far stand (R15, R366). -/
def State.shardStop (s : State) (c : CoreId) (o : Op) (w : List ShardEnt) (st : Status) : State :=
  let s := s.each w.zipIdx fun s x =>
    let a := s.shardArgs o.desc x.2
    if !x.1.took then s
    else if s.isLocal a.place then (s.shardGive (localPart a.place) x.1.slot 0).2
    else match s.owner c with
      | some p => (s.request p (dieOfCore c) .posted opAmo fnGive a.place 16 (numBytes [x.1.slot, 0])).2
      | none => s
  s.finish c o.ticket st (if dOpc o.desc = 0x75 then gatherResult w else 0)

/-- A get's arguments are legal (R223, R224). -/
def shardArgsOk (a : ShardArgs) : Bool :=
  a.place % 64 = 0 && inNear (localPart a.place) 64 && a.mode ≤ 2 && byteSpace (localPart a.dst) a.len && a.len % 64 = 0

def execShardGet (c : CoreId) (bad : BadSectors) (s : State) : Host.Outcome State Fault Refusal :=
  .next (s.startOp c 0x5D bad fun s o =>
    let d := o.desc
    if untyped d && onlyFields d [(16, 8), (32, 16), (96, 1), (100, 4)] && dBits d 96 7 2 = 0 &&
        shardArgsOk (s.shardArgs d 0) then
      s.shardStart c o bad
    else s.badDesc c o)

/-! ### SHARD_GATHER (R290) -/

def State.gatherOk (s : State) (d : Desc) : Bool :=
  untyped d && onlyFields d [(16, 4), (32, 8), (96, 1)] && dBits d 96 7 2 = 0 && d32 d 16 ≤ 4096 &&
  d64 d 32 % 64 = 0 && s.herePart (d64 d 32) && byteSpace (localPart (d64 d 32)) (32 * d32 d 16)

def execShardGather (c : CoreId) (bad : BadSectors) (s : State) : Host.Outcome State Fault Refusal :=
  .next (s.startOp c 0x75 bad fun s o =>
    let d := o.desc
    let n := d32 d 16
    if !s.gatherOk d then s.badDesc c o
    else if n = 0 then s.finish c o.ticket stDone 0
    else s.unless c o [s.readTrouble c bad (localPart (d64 d 32)) (32 * n),
                       s.writeTrouble c (localPart (d64 d 32)) (32 * n)] fun s =>
      if (List.range n).all fun i => shardArgsOk (s.shardArgs d i) && s.rdN (localPart (d64 d 32) + 32 * i + 30) 2 = 0
      then s.shardStart c o bad
      else s.badDesc c o)

/-! ### SHARD_PUBLISH (R225) -/

/-- A publish as its record knows it: module, core and ticket. -/
def State.publisher (s : State) (c : CoreId) (ticket : BitVec 32) : Nat :=
  (s.fab.moduleId.toNat * 256 + c.val) * 2 ^ 32 + ticket.toNat

def State.setPub (s : State) (c : CoreId) (ticket : BitVec 32) (w : PubWork) : State :=
  s.modOp c ticket fun o => { o with work := .publish w }

/-- A publish that fails or is stopped leaves its record. -/
def State.pubFail (s : State) (c : CoreId) (o : Op) (st : Status) : State :=
  let g := d64 o.desc 32
  let s := if s.isLocal g then s.shardDrop (localPart g) (s.publisher c o.ticket)
    else match s.owner c with
      | some p => (s.request p (dieOfCore c) .posted opAmo fnDrop g 8 (numBytes [s.publisher c o.ticket])).2
      | none => s
  s.finish c o.ticket st 0

/-- The step on its record that a publish is at. -/
def State.pubStep (s : State) (c : CoreId) (o : Op) (w : PubWork) : Byte × List Nat :=
  let who := s.publisher c o.ticket
  if w.step ≤ 1 then (fnPub, [who, dBits o.desc 96 0 0, d64 o.desc 16])
  else if w.step = 3 then (fnReads, [])
  else (fnNew, [who])

/-- The answer of a step on the record: where the publish goes on and whether it waits there, or none once it is over. -/
def State.pubAfter (s : State) (c : CoreId) (o : Op) (w : PubWork) (ans : List Nat) : Option (PubWork × Bool) × State :=
  let x := ans.headD 0
  if w.step ≤ 1 then
    if x = 0 then (some ({ w with step := 3, refs := BitVec.ofNat 32 (ans.getD 1 0), dst := ans.getD 2 0 }, false), s)
    else if x = 1 then (some ({ w with step := 1, waited := true }, true), s)
    else if x = 2 then (some (w, true), s)
    else (none, s.finish c o.ticket (BitVec.ofNat 16 x) 0)
  else if w.step = 3 then
    if x = 0 then (some ({ w with step := 4 }, false), s) else (some ({ w with waited := true }, true), s)
  else (none, s.finish c o.ticket (if w.waited then stDeferred else stDone)
    (resultOf (leBytes 4 x ++ leBytes 4 w.refs.toNat)))

/-- The publish goes on from the step it is at, with at most n steps, as far as the record lets it (R225). -/
def State.pubGo (s : State) (c : CoreId) (o : Op) (bad : BadSectors) : Nat → PubWork → State
  | 0, w => s.setPub c o.ticket w
  | n + 1, w =>
    let d := o.desc
    let g := d64 d 32
    let s := s.setPub c o.ticket w
    if w.step = 4 then
      let x := cpy (d64 d 40) w.dst (d64 d 16)
      match s.xfersTrouble c [] [x] with
      | some (.violation y) => s.freezeEngine c o cAddress y
      | _ =>
        match s.runXfers c o.ticket bad [x] with
        | (.done, s) => s.pubGo c o bad n { w with step := 5 }
        | (.waiting, s) => s
        | (.lost y, s) => (s.noteUncorrectable y).pubFail c o stRetired
    else
      let (fn, xs) := s.pubStep c o w
      if !s.isLocal g then (s.runXfers c o.ticket [] [stepAt g fn xs]).2
      else match s.uncorrectable bad (localPart g) 64 with
        | some y => (s.noteUncorrectable y).pubFail c o stRetired
        | none =>
          let (ans, s) := s.shardStep (localPart g) fn xs
          match s.pubAfter c o w ans with
          | (some (w, true), s) => s.setPub c o.ticket w
          | (some (w, false), s) => s.pubGo c o bad n w
          | (none, s) => s

/-- Steps that a publish may take at once. -/
def pubFuel : Nat := 5

/-- The record of another module has answered a step. -/
def State.pubAnswer (s : State) (c : CoreId) (o : Op) (w : PubWork) (b : List Byte) : State :=
  let s := s.setXfers c o.ticket []
  match s.pubAfter c o w (numsOf b) with
  | (some (w, true), s) => s.setPub c o.ticket w
  | (some (w, false), s) => s.pubGo c o [] pubFuel w
  | (none, s) => s

def execShardPublish (c : CoreId) (bad : BadSectors) (s : State) : Host.Outcome State Fault Refusal :=
  .next (s.startOp c 0x5C bad fun s o =>
    let d := o.desc
    let g := d64 d 32
    if !(untyped d && onlyFields d [(16, 8), (32, 16), (96, 1)] && dBits d 96 7 1 = 0 && g % 64 = 0 && inNear (localPart g) 64 &&
        byteSpace (localPart (d64 d 40)) (d64 d 16)) then s.badDesc c o
    else s.unless c o [s.globalTrouble c bad g 64 false, s.globalTrouble c bad g 64 true] fun s =>
      s.pubGo c o bad pubFuel { step := 0, refs := 0, dst := 0, waited := false })

/-- A publish that waits asks its record again. -/
def execShardPublishResume (c : CoreId) (ticket : BitVec 32) (bad : BadSectors) (s : State) :
    Host.Outcome State Fault Refusal :=
  .next (s.resumeOp c ticket fun o => match o.work with
    | .publish w => if o.xfers.isEmpty && o.tags.isEmpty then s.pubGo c o bad pubFuel w else s
    | _ => s)

end Sys2Proof.Machine
end

