-- ==== Sys2Proof/Machine/Collective.lean ====
section
/-! DEFINITION. WAIT_WORD (R283), the ragged collectives (R284 to R289) and ALLTOALL (R291). How the messages of an
operation follow each other is notes/assumptions/14.md; the readings of R286 are notes/assumptions/19.md. -/

namespace Sys2Proof.Machine

/-! ### The group and its segments (R284) -/

/-- The fields of a collective. -/
structure Coll where
  p : Nat
  me : Nat
  run : Nat
  gtab : Nat
  seg : Nat
  etype : Nat
  mx : Bool
  rs : Bool
  ag : Bool

def collOf (d : Desc) : Coll where
  p := d32 d 16
  me := d32 d 20
  run := d16 d 24
  gtab := localPart (d64 d 32)
  seg := localPart (d64 d 40)
  etype := dBits d 96 1 0
  mx := dBits d 96 2 2 = 1
  rs := dOpc d ≠ 0x70
  ag := dOpc d ≠ 0x71

/-- Member i of the group table: its control block, input and output buffers. -/
structure Member where
  ctl : Nat
  inp : Nat
  out : Nat

def State.member (s : State) (a : Coll) (i : Nat) : Member :=
  let e := a.gtab + 32 * i
  { ctl := s.rdN e 8, inp := s.rdN (e + 8) 8, out := s.rdN (e + 16) 8 }

def State.segLen (s : State) (a : Coll) (j : Nat) : Nat := s.rdN (a.seg + 4 * j) 4

/-- Bytes of segment j, and the byte offset at which it lies. -/
def State.segBytes (s : State) (a : Coll) (j : Nat) : Nat := s.segLen a j * etypeBytes a.etype

def State.segOff (s : State) (a : Coll) (j : Nat) : Nat := ((List.range j).map (s.segBytes a)).sum

def State.collBytes (s : State) (a : Coll) : Nat := s.segOff a a.p

def Coll.succ (a : Coll) : Nat := (a.me + 1) % a.p

/-- The fields of the descriptor are in range (R284). -/
def collFields (d : Desc) : Bool :=
  let a := collOf d
  untyped d && onlyFields d [(16, 4), (20, 4), (24, 2), (32, 8), (40, 8), (96, 1), (97, 1)] && dBits d 96 7 3 = 0 &&
  dBits d 97 7 1 = 0 && 1 ≤ a.p && a.p ≤ 4096 && a.me < a.p && 1 ≤ a.run && (a.rs || !a.mx)

/-- The tables lie here, aligned (R284). -/
def State.collTables (s : State) (d : Desc) : Bool :=
  let a := collOf d
  s.herePart (d64 d 32) && s.herePart (d64 d 40) && a.gtab % 64 = 0 && a.seg % 4 = 0 && byteSpace a.gtab (32 * a.p) &&
  byteSpace a.seg (4 * a.p)

/-- One member's entry: its addresses, and for ME that it names this module. -/
def State.memberOk (s : State) (a : Coll) (i : Nat) : Bool :=
  let m := s.member a i
  let n := s.collBytes a
  let e := etypeBytes a.etype
  s.rdN (a.gtab + 32 * i + 24) 8 = 0 && m.ctl % 64 = 0 && inNear (localPart m.ctl) 64 && m.inp % e = 0 && m.out % e = 0 &&
  (if a.rs then inNear (localPart m.inp) n else byteSpace (localPart m.inp) n) && byteSpace (localPart m.out) n &&
  (i ≠ a.me || (s.isLocal m.ctl && s.isLocal m.inp && s.isLocal m.out))

/-- No two buffers of the group overlap. -/
def State.buffersApart (s : State) (a : Coll) : Bool :=
  let n := s.collBytes a
  let bs := (List.range a.p).flatMap fun i => let m := s.member a i; [m.inp, m.out]
  bs.zipIdx.all fun x => bs.zipIdx.all fun y => x.2 = y.2 || !overlap x.1 n y.1 n

def State.collOk (s : State) (a : Coll) : Bool := (List.range a.p).all (s.memberOk a) && s.buffersApart a

/-! ### The run of a member (R285, R286) -/

/-- The end of a run, with STEPS and a free number of cycles spent waiting. -/
def State.collEnd (s : State) (c : CoreId) (o : Op) (w : CollWork) (st : Status) : State :=
  let (n, s) := s.cycles
  (s.modOp c o.ticket fun o => { o with work := .coll w }).finish c o.ticket st (result3 w.steps 0 n)

def State.setColl (s : State) (c : CoreId) (o : Op) (w : CollWork) : State :=
  s.modOp c o.ticket fun o => if o.phase == .running then { o with work := .coll w } else o

/-- The transfers of step k of a phase. -/
def State.collStep (s : State) (a : Coll) (w : CollWork) : List Xfer :=
  let me := s.member a a.me
  let nxt := s.member a a.succ
  let j := if w.ag then (a.me + a.p - w.k + 1) % a.p else (a.me + a.p - w.k) % a.p
  let off := s.segOff a j
  let n := s.segBytes a j
  if w.ag then [cpy (me.out + off) (nxt.out + off) n, bumpAt (nxt.ctl + 8)]
  else [addTo (badFn a.etype a.mx) (me.inp + off) (nxt.inp + off) n, bumpAt nxt.ctl]

/-- RUN of a control block's words matches. -/
def runMatches (run : Nat) (b : List Byte) : Bool :=
  leNat ((b.drop 6).take 2) = run || leNat ((b.drop 14).take 2) = run

/-- FAIL of this run in a control word, with its status. -/
def failIn (run v : Nat) : Option Status :=
  if bitsOf v 63 48 = run && bitsOf v 47 47 = 1 then some (failStatus (bitsOf v 31 16)) else none

/-- The member goes on as far as its words, its successor and its links let it. -/
def State.collGo (s : State) (c : CoreId) (o : Op) (bad : BadSectors) : Nat → CollWork → State
  | 0, w => s.setColl c o w
  | n + 1, w =>
    let a := collOf o.desc
    let own := localPart (s.member a a.me).ctl
    match s.uncorrectable bad own 64 with
    | some y => (s.noteUncorrectable y).collEnd c o w stRetired
    | none =>
      let rs := s.rdN own 8
      let ag := s.rdN (own + 8) 8
      match failIn a.run rs, failIn a.run ag with
      | some x, some y => s.collEnd c o w (if y < x then y else x)
      | some st, none => s.collEnd c o w st
      | none, some st => s.collEnd c o w st
      | none, none =>
        let v := if w.ag then ag else rs
        let count := if bitsOf v 63 48 = a.run then bitsOf v 15 0 else 0
        if count + 1 < w.k then s.setColl c o w
        else if w.k < a.p then
          let nxt := s.member a a.succ
          if !w.ready then
            if s.isLocal nxt.ctl then
              if runMatches a.run (s.rd (localPart nxt.ctl) 64) then s.collGo c o bad n { w with ready := true }
              else s.setColl c o w
            else ((s.runXfers c o.ticket bad [recordAt nxt.ctl]).2).setColl c o w
          else
            match s.runXfers c o.ticket bad (s.collStep a w) with
            | (.done, s) => s.collGo c o bad n { w with k := w.k + 1, steps := w.steps + 1 }
            | (.waiting, s) => s.setColl c o { w with sent := true }
            | (.lost y, s) => (s.noteUncorrectable y).collEnd c o w stRetired
        else if w.ag then s.collEnd c o w stDone
        else
          let me := s.member a a.me
          let off := s.segOff a a.me
          match s.runXfers c o.ticket bad [cpy (me.inp + off) (me.out + off) (s.segBytes a a.me)] with
          | (.lost y, s) => (s.noteUncorrectable y).collEnd c o w stRetired
          | (_, s) => if a.ag then s.collGo c o bad n { w with ag := true, k := 1 } else s.collEnd c o w stDone

def collFuel (a : Coll) : Nat := 4 * a.p + 8

/-- What this member's core must be able to reach: its tables, its own block and buffers, and its successor's. -/
def State.collTroubles (s : State) (c : CoreId) (a : Coll) : List (Option Trouble) :=
  let me := s.member a a.me
  let nxt := s.member a a.succ
  let n := s.collBytes a
  [s.globalTrouble c [] me.ctl 64 true, s.globalTrouble c [] me.inp n false, s.globalTrouble c [] me.out n true,
   s.globalTrouble c [] nxt.ctl 64 true,
   s.globalTrouble c [] (if a.rs then nxt.inp else nxt.out) n true, s.globalTrouble c [] nxt.out n a.ag]

/-- A collective starts: its own words are written (RUN, COUNT 0), and it runs. -/
def State.startColl (s : State) (c : CoreId) (opc : Nat) (bad : BadSectors) : State :=
  s.startOp c opc bad fun s o =>
    let d := o.desc
    let a := collOf d
    if !(collFields d && s.collTables d) then s.badDesc c o
    else s.unless c o [s.readTrouble c bad a.gtab (32 * a.p), s.readTrouble c bad a.seg (4 * a.p)] fun s =>
      if !s.collOk a then s.badDesc c o
      else s.unless c o (s.collTroubles c a) fun s =>
        let own := localPart (s.member a a.me).ctl
        let s := (s.storeN own 8 (a.run * 2 ^ 48)).storeN (own + 8) 8 (a.run * 2 ^ 48)
        let w : CollWork := { ag := false, k := 1, sent := false, ready := false, steps := 0 }
        let s := s.setColl c o w
        if a.rs then s.collGo c o bad (collFuel a) w
        else
          let me := s.member a a.me
          let off := s.segOff a a.me
          match s.runXfers c o.ticket bad [cpy (me.inp + off) (me.out + off) (s.segBytes a a.me)] with
          | (.lost y, s) => (s.noteUncorrectable y).collEnd c o w stRetired
          | (_, s) => s.collGo c o bad (collFuel a) { w with ag := true }

def execAllgather (c : CoreId) (bad : BadSectors) (s : State) : Host.Outcome State Fault Refusal :=
  .next (s.startColl c 0x70 bad)

def execReduceScatter (c : CoreId) (bad : BadSectors) (s : State) : Host.Outcome State Fault Refusal :=
  .next (s.startColl c 0x71 bad)

def execAllreduce (c : CoreId) (bad : BadSectors) (s : State) : Host.Outcome State Fault Refusal :=
  .next (s.startColl c 0x72 bad)

/-- A waiting member reads its own word, and its successor's until RUN matches (R285, R286). -/
def execCollectiveWaitPoll (c : CoreId) (ticket : BitVec 32) (bad : BadSectors) (s : State) :
    Host.Outcome State Fault Refusal :=
  .next (s.resumeOp c ticket fun o => match o.work with
    | .coll w => if o.xfers.isEmpty && o.tags.isEmpty then s.collGo c o bad (collFuel (collOf o.desc)) w else s
    | _ => s)

/-- A step's transfers are performed and its signal is acknowledged. -/
def State.collStepDone (s : State) (c : CoreId) (o : Op) (w : CollWork) : State :=
  s.collGo c o [] (collFuel (collOf o.desc)) { w with k := w.k + 1, steps := w.steps + 1, sent := false }

/-- The successor's control block was read. -/
def State.collSees (s : State) (c : CoreId) (o : Op) (w : CollWork) (b : List Byte) : State :=
  let a := collOf o.desc
  let s := s.setXfers c o.ticket []
  if runMatches a.run b then s.collGo c o [] (collFuel a) { w with ready := true } else s.setColl c o w

/-- The collective that has failed with `st` still has to pass FAIL on: its tables say where its successor's words lie.
One that is BAD_DESCRIPTOR has no side effects, and nothing is sent while the partition is stopped (R14, R284, R289, R366;
notes/assumptions/14.md). -/
def State.failDue (s : State) (c : CoreId) (o : Op) (st : Status) : Bool :=
  let a := collOf o.desc
  0x70 ≤ dOpc o.desc && dOpc o.desc ≤ 0x72 && isFailure st && st != stBadDesc && o.work != .failing && !o.bad &&
  collFields o.desc && s.collTables o.desc && (s.readTrouble c [] a.gtab (32 * a.p)).isNone &&
  (s.readTrouble c [] a.seg (4 * a.p)).isNone && s.collOk a && (s.globalTrouble c [] (s.member a a.succ).ctl 64 true).isNone &&
  (s.isLocal (s.member a a.succ).ctl || !s.coreStopped c)

/-- FAIL with a member's status in its successor's RS and AG words, before the member completes (R14, R289). -/
def State.passFail (s : State) (c : CoreId) (o : Op) (st : Status) : State :=
  let a := collOf o.desc
  let g := (s.member a a.succ).ctl
  let v := bandWord a.run true st 0
  let s := s.modOp c o.ticket fun o => { o with work := .failing }
  s.each [g, g + 8] fun s x =>
    if s.isLocal x then s.storeN (localPart x) 8 v else s.opRequest c o.ticket opWrite 0 x 8 (leBytes 8 v)

/-! ### ALLTOALL (R291) -/

structure A2a where
  rows : Nat
  rbytes : Nat
  members : Nat
  nexp : Nat
  gtab : Nat
  src : Nat
  tag : Nat
  exp : Nat
  srcStride : Nat
  dstStride : Nat
  res : Nat
  resStride : Nat
  ret : Bool

def a2aOf (d : Desc) : A2a where
  rows := d32 d 16
  rbytes := d32 d 20
  members := d32 d 24
  nexp := d32 d 28
  gtab := localPart (d64 d 32)
  src := d64 d 40
  tag := localPart (d64 d 48)
  exp := localPart (d64 d 56)
  srcStride := d64 d 64
  dstStride := d64 d 72
  res := d64 d 80
  resStride := d64 d 88
  ret := dBits d 96 0 0 = 1

/-- An entry of the table of members. -/
structure A2aMember where
  base : Nat
  cur : Nat
  cap : Nat
  done : Nat

def State.a2aMember (s : State) (a : A2a) (m : Nat) : A2aMember :=
  let e := a.gtab + 32 * m
  { base := s.rdN e 8, cur := s.rdN (e + 8) 8, cap := s.rdN (e + 16) 4, done := s.rdN (e + 24) 8 }

def State.a2aFields (s : State) (d : Desc) : Bool :=
  let a := a2aOf d
  untyped d &&
  onlyFields d [(16, 4), (20, 4), (24, 4), (28, 4), (32, 8), (40, 8), (48, 8), (56, 8), (64, 8), (72, 8), (80, 8),
                (88, 8), (96, 1)] &&
  dBits d 96 7 1 = 0 && a.rows ≤ 2 ^ 20 && 1 ≤ a.rbytes && a.rbytes ≤ 65536 && 1 ≤ a.members && a.members ≤ 4096 &&
  1 ≤ a.nexp && a.nexp ≤ 1024 && a.srcStride % 64 = 0 && a.dstStride % 64 = 0 && s.herePart (d64 d 32) &&
  byteSpace a.gtab (32 * a.members) && (!a.ret || a.src = 0) &&
  (a.ret || (s.herePart (d64 d 48) && s.herePart (d64 d 56) && s.herePart a.src && s.herePart a.res &&
    byteSpace a.tag (2 * a.rows) && byteSpace a.exp (2 * a.nexp) &&
    (a.rows = 0 || byteSpace (localPart a.src) ((a.rows - 1) * a.srcStride + a.rbytes))))

/-- The table's entries: zero bytes 20 to 23, and words of 8 bytes. -/
def State.a2aTable (s : State) (a : A2a) : Bool :=
  (List.range a.members).all fun m =>
    let x := s.a2aMember a m
    s.rdN (a.gtab + 32 * m + 20) 4 = 0 && x.cur % 8 = 0 && x.done % 8 = 0 && x.base % 8 = 0

/-- The member that row r goes to, if any. -/
def State.rowMember (s : State) (a : A2a) (r : Nat) : Option Nat :=
  let t := s.rdN (a.tag + 2 * r) 2
  if a.nexp ≤ t then none
  else
    let m := s.rdN (a.exp + 2 * t) 2
    if a.members ≤ m then none else some m

/-- The signals once every write is acknowledged. -/
def State.a2aBumps (s : State) (a : A2a) : List Xfer := (List.range a.members).map fun m => bumpAt (s.a2aMember a m).done

/-- The transfers of a dispatch: a cursor step for each row that is sent. -/
def State.dispatchXfers (s : State) (a : A2a) : List Xfer :=
  (List.range a.rows).filterMap fun r =>
    (s.rowMember a r).map fun m =>
      let x := s.a2aMember a m
      { kind := .cursor x.base a.dstStride x.cap (s.globalOf a.src + r * a.srcStride) a.rbytes
          (s.globalOf a.res + r * a.resStride),
        src := 0, dst := x.cur, len := 8, pos := 0 }

/-- SENT, DROPPED and OVERFLOW. -/
def a2aResult (counts : List Nat) : BitVec 128 := resultOf (counts.flatMap (leBytes 4))

/-- ALLTOALL completes. -/
def State.a2aDone (s : State) (c : CoreId) (ticket : BitVec 32) : State :=
  match s.findOp c ticket with
  | some o => match o.work with
    | .script counts => s.finish c ticket stDone (a2aResult counts)
    | _ => s
  | none => s

/-- ALLTOALL fails with the counts it has gathered (R15). -/
def State.a2aFail (s : State) (c : CoreId) (ticket : BitVec 32) (st : Status) : State :=
  s.finish c ticket st (match (s.findOp c ticket).map Op.work with
    | some (.script counts) => a2aResult counts
    | _ => 0)

/-- The places a transfer of ALLTOALL may come to touch. -/
def Xfer.places (x : Xfer) : List (Nat × Nat) :=
  match x.kind with
  | .cursor base stride cap _ rbytes _ =>
    [(x.dst, 8), (base, if cap = 0 then 0 else (cap - 1) * stride + rbytes), (base + cap * stride, 8 * cap)]
  | _ => [(x.dst, x.len)]

/-- The transfers of an ALLTOALL run in turn. -/
def State.runA2a (s : State) (c : CoreId) (o : Op) (bad : BadSectors) (counts : List Nat) (xs : List Xfer) : State :=
  s.unless c o ((xs.flatMap Xfer.places).map fun p => s.globalTrouble c [] p.1 p.2 true) fun s =>
    let s := s.modOp c o.ticket fun o => { o with work := .script counts }
    match s.runXfers c o.ticket bad xs with
    | (.done, s) => s.a2aDone c o.ticket
    | (.waiting, s) => s
    | (.lost y, s) => (s.noteUncorrectable y).a2aFail c o.ticket stRetired

/-- The checks that both modes share. -/
def State.startA2a (s : State) (c : CoreId) (bad : BadSectors) (ret : Bool) (run : State → Op → A2a → State) : State :=
  match (s.core c).startable 0x73 with
  | some x =>
    if (a2aOf x.desc).ret != ret then s
    else s.startOp c 0x73 bad fun s o =>
      let a := a2aOf o.desc
      if !s.a2aFields o.desc then s.badDesc c o
      else if a.rows = 0 then s.finish c o.ticket stDone 0
      else s.unless c o [s.readTrouble c bad a.gtab (32 * a.members)] fun s =>
        if s.a2aTable a then run s o a else s.badDesc c o
  | none => s

def execAlltoallDispatch (c : CoreId) (bad : BadSectors) (s : State) : Host.Outcome State Fault Refusal :=
  .next (s.startA2a c bad false fun s o a =>
    s.unless c o [s.readTrouble c bad a.tag (2 * a.rows), s.readTrouble c bad a.exp (2 * a.nexp),
                  s.readTrouble c [] (localPart a.src) ((a.rows - 1) * a.srcStride + a.rbytes)] fun s =>
      let xs := s.dispatchXfers a
      s.runA2a c o bad [0, a.rows - xs.length, 0] (xs ++ s.a2aBumps a))

/-- The member whose receive area lies here: the first whose cursor names this module. -/
def State.ownMember (s : State) (a : A2a) : Option A2aMember :=
  (List.range a.members).findSome? fun m =>
    let x := s.a2aMember a m
    if s.isLocal x.cur && s.isLocal x.base then some x else none

def execAlltoallReturn (c : CoreId) (bad : BadSectors) (s : State) : Host.Outcome State Fault Refusal :=
  .next (s.startA2a c bad true fun s o a =>
    match s.ownMember a with
    | none => s.badDesc c o
    | some x =>
      s.unless c o [s.readTrouble c bad (localPart x.cur) 8] fun s =>
        let n := min (s.rdN (localPart x.cur) 8) x.cap
        let words := localPart x.base + x.cap * a.dstStride
        s.unless c o [s.readTrouble c [] (localPart x.base) (if n = 0 then 0 else (n - 1) * a.dstStride + a.rbytes),
                      s.readTrouble c bad words (8 * n)] fun s =>
          let xs := (List.range n).map fun k => cpy (x.base + k * a.dstStride) (s.rdN (words + 8 * k) 8) a.rbytes
          s.runA2a c o bad [n, 0, 0] (xs ++ s.a2aBumps a))

/-! ### WAIT_WORD (R283) -/

def State.waitWordOk (s : State) (c : CoreId) (d : Desc) : Bool :=
  untyped d && onlyFields d [(32, 8), (96, 8)] && d64 d 32 % 8 = 0 && s.herePart (d64 d 32) &&
  inNearOrStore c (localPart (d64 d 32)) 8

def execWaitWord (c : CoreId) (s : State) : Host.Outcome State Fault Refusal :=
  .next (s.startOp c 0x7E [] fun s o =>
    let d := o.desc
    if !s.waitWordOk c d then s.badDesc c o
    else s.unless c o [(s.coreViolates c (localPart (d64 d 32)) 8 false).map .violation] fun s =>
      s.modOp c o.ticket fun o => { o with work := .waitWord })

def execWaitWordPoll (c : CoreId) (ticket : BitVec 32) (bad : BadSectors) (s : State) : Host.Outcome State Fault Refusal :=
  .next (s.resumeOp c ticket fun o => match o.work with
    | .waitWord =>
      let a := localPart (d64 o.desc 32)
      match s.uncorrectable bad a 8 with
      | some y => (s.noteUncorrectable y).finish c ticket stRetired 0
      | none => if d64 o.desc 96 ≤ s.rdN a 8 then s.finish c ticket stDone 0 else s
    | _ => s)

end Sys2Proof.Machine
end

