-- ==== Sys2Proof/Machine/Stream.lean ====
section
/-! DEFINITION. Carried state (chapter 5): stream records and slices, the chunk operations SCAN, GATED and UPDATE, and the
control operations with their pins, deferrals and swaps. -/

namespace Sys2Proof.Machine

/-! ### Stream records (R136, R137) -/

structure StrRec where
  state : Nat
  flags : Nat
  kind : Nat
  fp32 : Bool
  group : Nat
  ns : Nat
  elems : Nat
  slot : Nat
  swap : Nat
  deriving DecidableEq, Repr

/-- ID lies in the range of the core's partition (R136). -/
def State.strKnown (s : State) (c : CoreId) (id : Nat) : Bool :=
  let g := s.cfgOf c
  (s.owner c).isSome && decide (g.stsFirst.toNat ≤ id) && decide (id < g.stsFirst.toNat + g.stsCount.toNat)

def State.strAt (s : State) (c : CoreId) (id : Nat) : Nat :=
  (s.cfgOf c).stsBase.toNat + (id - (s.cfgOf c).stsFirst.toNat) * 128

def State.strRec (s : State) (c : CoreId) (id : Nat) : StrRec :=
  let a := s.strAt c id
  let b0 := (s.rdB a).toNat
  let b1 := (s.rdB (a + 1)).toNat
  { state := b0 % 16, flags := b0 / 16, kind := b1 % 4, fp32 := b1 / 4 % 2 = 1, group := (s.rdB (a + 2)).toNat,
    ns := (s.rdB (a + 3)).toNat % 32, elems := s.rdN (a + 4) 4, slot := s.rdN (a + 8) 4, swap := s.rdN (a + 16) 8 }

def stFree : Nat := 0
def stResident : Nat := 1
def stOut : Nat := 2
def stMovingOut : Nat := 3
def stMovingIn : Nat := 4
def noSlot : Nat := 0xFFFFFFFF

/-- STATE of a record, keeping its flags. -/
def State.setStrState (s : State) (c : CoreId) (id st : Nat) : State :=
  s.storeN (s.strAt c id) 1 ((s.strRec c id).flags * 16 + st)

/-- FLAGS of a record: bit 0 DRIFT, bit 1 NONFINITE, bit 2 DAMAGED. -/
def State.setStrFlags (s : State) (c : CoreId) (id fl : Nat) : State :=
  s.storeN (s.strAt c id) 1 (fl * 16 + (s.strRec c id).state)

def StrRec.damaged (r : StrRec) : Bool := r.flags / 4 % 2 = 1

def State.rnAt (s : State) (c : CoreId) (id j : Nat) : Nat := s.strAt c id + 64 + 4 * j

/-- DAMAGED and the STS_ERR latch of the core that met the error (R152). -/
def State.damage (s : State) (c m : CoreId) (id : Nat) : State :=
  let r := s.strRec c id
  (s.setStrFlags c id (if r.damaged then r.flags else r.flags + 4)).modSts m fun u =>
    { u with stsUnc := true, stsErrStream := if u.stsUnc then u.stsErrStream else BitVec.ofNat 16 id }

/-! ### Groups and slices (R134) -/

def State.groupOf (s : State) (c : CoreId) : Nat := (s.core c).sts.stsGroup.toNat
def State.groupSize (s : State) (c : CoreId) : Nat := (s.core c).sts.stsSize.toNat
def State.groupIndex (s : State) (c : CoreId) : Nat := (s.core c).sts.stsIndex.toNat

/-- The members of the core's group by index. -/
def State.members (s : State) (c : CoreId) : List CoreId :=
  (List.range (s.groupSize c)).filterMap fun j => (List.finRange 176).find? fun k =>
    s.owner k = s.owner c && s.groupOf k = s.groupOf c && s.groupIndex k = j && s.groupOf c ≠ 0xFF

def sliceElems (r : StrRec) (size : Nat) : Nat := r.elems / size
def elemBytes (fp32 : Bool) : Nat := if fp32 then 4 else 6
def sliceBytes (r : StrRec) (size : Nat) : Nat := sliceElems r size * elemBytes r.fp32

/-- Where slice j of a stream lies: in the state store of member m, or in the swap area. -/
def sliceAt (r : StrRec) (size : Nat) (m : CoreId) (j : Nat) : Nat :=
  if r.state = stOut then r.swap + j * sliceBytes r size else slotOf m + 0x400000 + r.slot

/-! ### FP32C (R131, R132) -/

/-- E(v) − 39, the exponent of q(v). -/
def qExp (v : BitVec 32) : Int :=
  let e := (v.extractLsb' 23 8).toNat
  (if e = 0 then -126 else (e : Int) - 127) - 39

/-- The value v + c·q(v); c counts as 0 where v is Inf or NaN. -/
def fp32cVal (v : BitVec 32) (c : BitVec 16) : Val :=
  if f32Finite v then (decF32 v).add (.fin (decide (c.toInt < 0)) c.toInt.natAbs (qExp v)) else decF32 v

/-- Round to the nearest integer, ties to even. -/
def rneInt (x : Val) : Int :=
  match x with
  | .fin n m e => let a : Int := roundCode none n (fixFloor 0 m e); if n then -a else a
  | _ => 0

/-- How the module stores an exact value (R131). -/
def toFp32c (x : Val) : BitVec 32 × BitVec 16 :=
  let v := toF32 x
  if f32Finite v then
    let d := (x.add (decF32 v).neg).scale (-(qExp v))
    (v, BitVec.ofInt 16 (max (-32767) (min 32767 (rneInt d))))
  else (v, 0)

/-- The value word and the compensation word of element e of a slice at a. -/
def elemAt (fp32 : Bool) (a e : Nat) : Nat × Nat :=
  if fp32 then (a + 4 * e, 0) else (a + e / 32 * 192 + 4 * (e % 32), a + e / 32 * 192 + 128 + 2 * (e % 32))

def State.getElem (s : State) (fp32 : Bool) (a e : Nat) : BitVec 32 × BitVec 16 :=
  let (x, y) := elemAt fp32 a e
  (BitVec.ofNat 32 (s.rdN x 4), if fp32 then 0 else BitVec.ofNat 16 (s.rdN y 2))

def State.putElem (s : State) (fp32 : Bool) (a e : Nat) (v : BitVec 32 × BitVec 16) : State :=
  let (x, y) := elemAt fp32 a e
  let s := s.storeN x 4 v.1.toNat
  if fp32 then s else s.storeN y 2 v.2.toNat

/-- An element as another type holds it (R147). -/
def convElem (src dst : Bool) (v : BitVec 32 × BitVec 16) : BitVec 32 × BitVec 16 :=
  if dst then (if src then v.1 else toF32 (fp32cVal v.1 v.2), 0) else if src then (v.1, 0) else v

/-! ### Chunk operations (R139 to R145) -/

structure Chunk where
  rows : Nat
  lc : Nat
  ch : Nat
  ns : Nat
  tab : Nat
  inp : Nat
  par : Nat
  out : Nat
  inR : Nat
  inT : Nat
  outR : Nat
  outT : Nat
  rst : Nat
  drift : Bool
  ufn : Nat
  kind : Nat

def chunkOf (d : Desc) : Chunk where
  rows := d32 d 16
  lc := d16 d 20
  ch := d32 d 24
  ns := dBits d 28 4 0
  tab := d64 d 32
  inp := d64 d 40
  par := d64 d 48
  out := d64 d 56
  inR := d64 d 64
  inT := d64 d 72
  outR := d64 d 80
  outT := d64 d 88
  rst := d64 d 96
  drift := dBits d 104 0 0 = 1
  ufn := dBits d 104 2 1
  kind := dOpc d - 0x20

/-- Elements of an input record, of the parameters and of an output record (R140). -/
def Chunk.inElems (k : Chunk) : Nat := if k.kind = 0 then 2 * k.ch + 2 * k.ns else if k.kind = 1 then 2 * k.ch else k.ch
def Chunk.hasPar (k : Chunk) : Bool := k.kind = 0 || (k.kind = 2 && k.ufn = 0)
def Chunk.parElems (k : Chunk) : Nat := if k.kind = 0 then k.ch * k.ns + k.ch else if k.hasPar then 2 * k.ch else 0
def inBytes (d : Desc) (k : Chunk) : Nat := up64 (k.inElems * (elemW (dTypeA d) / 8))
def outBytes (d : Desc) (k : Chunk) : Nat := up64 (k.ch * (elemW (dTypeOut d) / 8))

/-- Starts of the records of every row and step. -/
def Chunk.recs (k : Chunk) (base rs ts : Nat) : List Nat :=
  (List.range k.rows).flatMap fun r => (List.range k.lc).map fun t => base + r * rs + t * ts

/-- Records of n bytes at these addresses do not overlap. -/
def disjoint (n : Nat) : List Nat → Bool
  | [] => true
  | a :: r => r.all (fun b => !overlap a n b n) && disjoint n r

def State.chunkFields (d : Desc) (k : Chunk) : Bool :=
  onlyFields d [(16, 6), (24, 5), (32, 73)] && dBits d 28 7 5 = 0 && dBits d 104 7 3 = 0 && k.rows ≤ 2048 && k.lc ≤ 1024 &&
  1 ≤ k.ns && k.ns ≤ 16 && (k.kind = 0 || k.ns = 1) && (if k.kind = 2 then k.ufn ≤ 2 else k.ufn = 0) && dTmode d = 0 &&
  !dPadz d && 8 ≤ dTypeA d && dTypeA d ≤ 10 && 8 ≤ dTypeOut d && dTypeOut d ≤ 10 &&
  (if k.hasPar then dTypeB d = 10 else dTypeB d = 0 && k.par = 0)

/-- A local range meets some state store. -/
def inSts (a n : Nat) : Bool :=
  (List.finRange 176).any fun c => overlap a n (slotOf c + 0x400000) 0x100000

def Chunk.maskBytes (k : Chunk) : Nat := up64 (ceilDiv (k.rows * k.lc) 8)

/-- The memory of a chunk is laid out legally (R141, R142). -/
def State.chunkLayout (s : State) (c : CoreId) (d : Desc) (k : Chunk) : Bool :=
  let nb := inBytes d k
  let no := outBytes d k
  let ins := k.recs (localPart k.inp) k.inR k.inT
  let outs := k.recs (localPart k.out) k.outR k.outT
  let clash (a n : Nat) : Bool := outs.any fun x => overlap x no a n
  s.herePart k.inp && s.herePart k.out &&
  k.inR % 64 = 0 && k.inT % 64 = 0 && k.outR % 64 = 0 && k.outT % 64 = 0 && k.rst % 64 = 0 && disjoint nb ins && disjoint no outs && ins.all (fun a => s.areaOk c a nb) &&
  outs.all (fun a => s.areaOk c a no && !inSts a no) && s.areaOk c k.tab (2 * k.rows) &&
  (k.parElems = 0 || s.areaOk c k.par (4 * k.parElems)) && (k.rst = 0 || s.areaOk c k.rst k.maskBytes) &&
  !(ins.any fun a => clash a nb) && !clash (localPart k.tab) (2 * k.rows) &&
  !(k.parElems ≠ 0 && clash (localPart k.par) (4 * k.parElems)) && !(k.rst ≠ 0 && clash (localPart k.rst) k.maskBytes)

/-- The row table (R139). -/
def State.rowTable (s : State) (k : Chunk) : List Nat := (List.range k.rows).map fun r => s.rdN (localPart k.tab + 2 * r) 2

/-- The trouble of a chunk's reads and writes beside its row table and its slices. -/
def State.chunkTrouble (s : State) (c : CoreId) (bad : BadSectors) (d : Desc) (k : Chunk) : List (Option Trouble) :=
  [if k.parElems = 0 then none else s.readTrouble c bad (localPart k.par) (4 * k.parElems),
   if k.rst = 0 then none else s.readTrouble c bad (localPart k.rst) (ceilDiv (k.rows * k.lc) 8)] ++
  ((k.recs (localPart k.inp) k.inR k.inT).map fun a =>
    s.readTrouble c bad a (k.inElems * (elemW (dTypeA d) / 8))) ++
  ((k.recs (localPart k.out) k.outR k.outT).map fun a => s.writeTrouble c a (k.ch * (elemW (dTypeOut d) / 8)))

/-- The control entry that the lead of the core's group is at, with the streams it concerns. -/
structure CtlNow where
  lead : CoreId
  ticket : BitVec 32
  opc : Nat
  ids : List Nat
  work : CtlWork

def entryAt (d : Desc) (i : Nat) : Nat := localPart (d64 d 32) + 16 * i

/-- The streams of an entry. -/
def State.entryIds (s : State) (d : Desc) (i : Nat) : List Nat :=
  let a := entryAt d i
  if dOpc d = 0x2A then [s.rdN a 2, s.rdN (a + 2) 2] else [s.rdN a 2]

def State.ctlNow (s : State) (c : CoreId) : Option CtlNow :=
  (s.members c).findSome? fun m => (s.core m).ops.findSome? fun o =>
    match o.phase, o.work with
    | .running, .ctl w => some { lead := m, ticket := o.ticket, opc := dOpc o.desc, ids := s.entryIds o.desc w.idx, work := w }
    | _, _ => none

/-- The chunk was queued before the part of the entry reached its core. -/
def CtlNow.spares (x : CtlNow) (c : CoreId) (ticket : BitVec 32) : Bool :=
  x.work.waiting.any fun p => p.member = c && p.tickets.contains ticket

/-- A part of a control entry, other than of a swap, that waits on this member goes before the chunk takes the slice
(R150). -/
def State.partFirst (s : State) (c : CoreId) (ticket : BitVec 32) (ids : List Nat) : Bool :=
  match s.ctlNow c with
  | some x => x.opc ≠ 0x2B && x.opc ≠ 0x2C && (x.work.waiting.any fun w => w.member = c) && ids.any (fun i => x.ids.contains i) &&
      !x.spares c ticket
  | none => false

/-- What a row finds of its slice (R142, R151, R152). -/
inductive RowIs where
  | ok
  | wait
  | bad
  | damaged
  deriving DecidableEq, Repr

def State.rowIs (s : State) (c : CoreId) (ticket : BitVec 32) (k : Chunk) (id : Nat) : RowIs :=
  if !s.strKnown c id then .bad
  else
    let r := s.strRec c id
    let spared := match s.ctlNow c with
      | some x => x.spares c ticket
      | none => false
    if r.state = stFree || r.kind ≠ k.kind || r.group ≠ s.groupOf c || s.groupOf c = 0xFF ||
        k.ch * k.ns ≠ sliceElems r (s.groupSize c) || r.ns ≠ k.ns then .bad
    else if r.damaged then .damaged
    else if r.state = stResident then .ok
    else if r.state = stMovingIn then .wait
    else if r.state = stMovingOut && spared then .ok
    else .bad

/-- The workspace a chunk needs (R133). -/
def Chunk.work (k : Chunk) (fp32 : Bool) : Nat := (if fp32 then 8 else 16) * (k.ch * k.ns) + 4096

def State.workOk (s : State) (c : CoreId) (k : Chunk) (ids : List Nat) : Bool :=
  ids.all fun id => k.work (s.strRec c id).fp32 ≤ (s.core c).sts.stsWork.toNat * 1024

/-! ### One row of a chunk (R130, R143, R154, R155) -/

/-- Element i of the record at a, as FP32. -/
def State.recF32 (s : State) (t a i : Nat) : BitVec 32 := toF32 (s.valAt t (some (recSpot t false 0 a i)))

def loadPair (fp32 : Bool) (v : BitVec 32 × BitVec 16) : Pair :=
  if fp32 then (v.1, 0)
  else (v.1, if f32Finite v.1 then toF32 (.fin (decide (v.2.toInt < 0)) v.2.toInt.natAbs (qExp v.1)) else 0)

def savePair (fp32 : Bool) (p : Pair) : BitVec 32 × BitVec 16 := if fp32 then (p.1, 0) else toFp32c (pairVal p)

/-- What element e of the slice takes at one step: h ← a·h + b, or a maximum (R130). -/
def State.stepElem (s : State) (d : Desc) (k : Chunk) (fp32 : Bool) (r e : Nat) (h : Pair) : Pair :=
  let c := e / k.ns
  let i := e % k.ns
  let x := s.recF32 (dTypeA d)
  let par (n : Nat) : BitVec 32 := BitVec.ofNat 32 (s.rdN (localPart k.par + 4 * n) 4)
  let go (ab : BitVec 32 × BitVec 32) : Pair := if fp32 then (ffma ab.1 h.1 ab.2, 0) else pairStep h ab
  if k.kind = 0 then go (scanCoeffs (x r (k.ch + c)) (par (c * k.ns + i)) (x r (2 * k.ch + i)) (x r c))
  else if k.kind = 1 then go (gatedCoeffs (x r c) (x r (k.ch + c)))
  else if k.ufn = 0 then go (affineCoeffs (par c) (par (k.ch + c)) (x r c))
  else if k.ufn = 1 then (if fp32 then (fadd h.1 (x r c), 0) else pairStep h (0x3F800000, x r c))
  else
    let y := x r c
    if (decF32 y).isNan || (pairVal h).isNan then (nan32, 0) else if (pairVal h).lt (decF32 y) then (y, 0) else h

/-- Output y of channel c (R130). -/
def State.stepOut (s : State) (d : Desc) (k : Chunk) (fp32 : Bool) (r c : Nat) (hs : List Pair) : BitVec 32 :=
  let rd (p : Pair) : BitVec 32 := if fp32 then p.1 else pairRead p
  let mine := (hs.drop (c * k.ns)).take k.ns
  if k.kind = 0 then
    let x := s.recF32 (dTypeA d) r
    scanOut ((List.range k.ns).map fun i => x (2 * k.ch + k.ns + i)) (mine.map rd)
      (BitVec.ofNat 32 (s.rdN (localPart k.par + 4 * (k.ch * k.ns + c)) 4)) (x c)
  else match mine with
    | [] => 0
    | p :: _ => rd p

/-- The reset bit of row r at step t (R141). -/
def State.resetBit (s : State) (k : Chunk) (r t : Nat) : Bool :=
  let b := t * k.rows + r
  k.rst ≠ 0 && (s.rdB (localPart k.rst + b / 8)).toNat / 2 ^ (b % 8) % 2 = 1

/-- One row's steps: the state after them, and y of each step. -/
def State.rowSteps (s : State) (d : Desc) (k : Chunk) (fp32 : Bool) (r : Nat) (hs : List Pair) :
    List Pair × List (List (BitVec 32)) :=
  (List.range k.lc).foldl
    (fun x t =>
      let at0 := localPart k.inp + r * k.inR + t * k.inT
      let h0 := if s.resetBit k r t then x.1.map fun _ => ((0, 0) : Pair) else x.1
      let h := h0.zipIdx.map fun y => s.stepElem d k fp32 at0 y.2 y.1
      (h, x.2 ++ [(List.range k.ch).map fun c => s.stepOut d k fp32 at0 c h])) (hs, [])

/-- An output record: its elements under RND, and its saturations (R143, R116). -/
def State.putOut (s : State) (d : Desc) (a : Nat) (ys : List (BitVec 32)) : Nat × State :=
  let t := dTypeOut d
  if t = 10 then (0, s.store a (ys.flatMap fun y => leBytes 4 y.toNat))
  else
    let (rnd, s) := s.rounds (dRnd d = 1) ys.length
    let zs := ys.zipIdx.map fun y => narrowFloat t (rnd y.2) y.1
    (zs.countP Prod.snd, s.store a (zs.flatMap fun z => leBytes 2 z.1.toNat))

/-- The drift monitor of slice j (R155): the flags newly set, and the state. -/
def State.driftMonitor (s : State) (c : CoreId) (id j : Nat) (vals : List (BitVec 32)) : Nat × State :=
  let a := s.strAt c id
  let n := norm2 vals
  let rn := BitVec.ofNat 32 (s.rdN (s.rnAt c id j) 4)
  let hi := BitVec.ofNat 32 (s.rdN (a + 32) 4)
  let lo := BitVec.ofNat 32 (s.rdN (a + 36) 4)
  let fl := (s.strRec c id).flags
  let zero := rn.extractLsb' 0 31 == 0
  let drifts := !zero && ((decF32 (fmul hi rn)).lt (decF32 n) || (decF32 n).lt (decF32 (fmul lo rn)))
  let bit := if !f32Finite n then 2 else if drifts then 1 else 0
  let new := bit ≠ 0 && fl / bit % 2 = 0
  let s := if new then
      (s.setStrFlags c id (fl + bit)).modSts c fun u =>
        { u with driftValid := true, driftOvf := u.driftOvf || u.driftValid,
                 driftStream := if u.driftValid then u.driftStream else BitVec.ofNat 16 id, driftCount := u.driftCount + 1 }
    else s
  let decay := (s.rdB (a + 12)).toNat % 16
  (ofBool new, s.storeN (s.rnAt c id j) 4 (if zero || !f32Finite n then n else runNorm rn n decay).toNat)

/-- Sums of a chunk so far: row-steps, resets, saturations, drifted, and whether a slice was uncorrectable. -/
structure ChunkSum where
  s : State
  steps : Nat
  resets : Nat
  sat : Nat
  drifted : Nat
  lost : Bool

/-- One row of a chunk, from its slice back to its slice (R143, R152). -/
def State.runRow (x : ChunkSum) (c : CoreId) (bad : BadSectors) (d : Desc) (k : Chunk) (r id : Nat) : ChunkSum :=
  let s := x.s
  let rc := s.strRec c id
  let size := s.groupSize c
  let j := s.groupIndex c
  let a := slotOf c + 0x400000 + rc.slot
  match s.uncorrectable bad a (sliceBytes rc size) with
  | some y => { x with s := (s.noteUncorrectable y).damage c c id, lost := true }
  | none =>
    let n := sliceElems rc size
    let hs := (List.range n).map fun e => loadPair rc.fp32 (s.getElem rc.fp32 a e)
    let (h, ys) := s.rowSteps d k rc.fp32 r hs
    let resets := (List.range k.lc).countP fun t => s.resetBit k r t
    let (sat, s) := ys.zipIdx.foldl
      (fun (p : Nat × State) y =>
        let q := p.2.putOut d (localPart k.out + r * k.outR + y.2 * k.outT) y.1
        (p.1 + q.1, q.2)) (0, s)
    let saved := h.map (savePair rc.fp32)
    let s := s.each saved.zipIdx fun s y => s.putElem rc.fp32 a y.2 y.1
    let s := if resets = 0 then s else s.storeN (s.rnAt c id j) 4 0
    let (dr, s) := if k.drift then s.driftMonitor c id j (saved.map Prod.fst) else (0, s)
    let s := if j = 0 then s.storeN (s.strAt c id + 24) 8 ((s.rdN (s.strAt c id + 24) 8 + k.lc) % 2 ^ 64) else s
    { s := s, steps := x.steps + k.lc, resets := x.resets + resets, sat := x.sat + sat, drifted := x.drifted + dr,
      lost := x.lost }

/-- Cycles of the vector unit for the rows of a chunk, its stalls aside (R153). -/
def State.chunkCycles (s : State) (c : CoreId) (k : Chunk) (ids : List Nat) : Nat :=
  64 + (ids.map fun id =>
    let r := s.strRec c id
    let v := sliceElems r (s.groupSize c) / 64
    let per := (if k.kind = 0 then 4 else if k.kind = 1 then 3 else 1) + (if r.fp32 then 0 else 2)
    8 + 2 * v + per * v * k.lc).sum

/-- STS_CYC: those cycles and the stalls, whose number is free (R153, notes/assumptions/3.md). -/
def State.countChunk (s : State) (c : CoreId) (k : Chunk) (ids : List Nat) : State :=
  let n := s.chunkCycles c k ids
  let (v, s) := s.cycles
  s.modSts c fun u => { u with stsCyc := u.stsCyc + BitVec.ofNat 64 (n + v % 2 ^ 48) }

/-- A workspace is left holding values the specification does not give. -/
def State.scratch (s : State) (a n : Nat) : State :=
  let (v, s) := s.fresh
  s.store a ((List.range n).map fun i => (Config.freeBytes v.toNat i).headD 0)

/-- The workspace of the state store holds the rows that advance and the staged row table, in places that are not given:
its bytes are free after a chunk (R133, notes/assumptions/44.md). -/
def State.useWorkspace (s : State) (c : CoreId) : State :=
  let u := (s.core c).sts
  s.scratch (slotOf c + 0x400000 + stsLimit u) (u.stsWork.toNat * 1024)

/-- The chunk runs over all the rows of its staged table, and its result words are known (R145). One that names a stream
that has become DAMAGED does nothing (R152). -/
def State.runChunk (s : State) (c : CoreId) (o : Op) (bad : BadSectors) (ids : List Nat) : State :=
  let d := o.desc
  let k := chunkOf d
  if ids.any fun id => (s.strRec c id).damaged then s.finish c o.ticket stRetired 0
  else s.unless c o (s.chunkTrouble c bad d k) fun s =>
    let x := ids.zipIdx.foldl (fun x y => State.runRow x c bad d k y.2 y.1)
      { s := (s.countChunk c k ids).useWorkspace c, steps := 0, resets := 0, sat := 0, drifted := 0, lost := false }
    let sat := if x.s.policy c (dEsc d) = 0 then 0 else x.sat
    x.s.finish c o.ticket (if x.lost then stRetired else stDone)
      (resultOf (leBytes 4 x.steps ++ leBytes 4 x.resets ++ leBytes 4 sat ++ leBytes 4 x.drifted))

/-- A started chunk: its fields and layout are checked, its row table is staged, its rows are checked, its pins narrow,
and it runs unless a slice is still moving in (R142, R150, R151). -/
def State.startChunk (s : State) (c : CoreId) (o : Op) (bad : BadSectors) : State :=
  let d := o.desc
  let k := chunkOf d
  if !State.chunkFields d k || !s.chunkLayout c d k then s.badDesc c o
  else if k.rows = 0 || k.lc = 0 then s.finish c o.ticket stDone 0
  else s.unless c o [s.readTrouble c bad (localPart k.tab) (2 * k.rows)] fun s =>
    let ids := s.rowTable k
    let is := ids.map (s.rowIs c o.ticket k)
    if ids.eraseDups.length ≠ ids.length || is.contains .bad || !s.workOk c k ids then s.badDesc c o
    else
      let s := s.modSts c fun u => { u with stsPins := u.stsPins ++ [(o.ticket, ids)] }
      if is.contains .wait && !is.contains .damaged then s.modOp c o.ticket fun o => { o with work := .chunk ids }
      else s.runChunk c o bad ids

/-- The head of the compute list may not yet take its slices, because the part of an entry goes first. -/
def State.chunkHeld (s : State) (c : CoreId) (opc : Nat) : Bool :=
  match (s.core c).startable opc with
  | none => false
  | some o =>
    let d := (s.boundsOf c [] o.desc).2
    s.partFirst c o.ticket (s.rowTable (chunkOf d))

/-- The output records a chunk writes. -/
def chunkWrites (d : Desc) : List (Nat × Nat) :=
  let k := chunkOf d
  (k.recs (localPart k.out) k.outR k.outT).map fun a => (a, outBytes d k)

def State.execChunk (s : State) (c : CoreId) (opc : Nat) (bad : BadSectors) : State :=
  if s.chunkHeld c opc then s
  else s.startVec c opc bad (fun _ => false) chunkWrites fun s o => s.startChunk c o bad

def execScan (c : CoreId) (bad : BadSectors) (s : State) : Host.Outcome State Fault Refusal := .next (s.execChunk c 0x20 bad)

def execGated (c : CoreId) (bad : BadSectors) (s : State) : Host.Outcome State Fault Refusal := .next (s.execChunk c 0x21 bad)

def execUpdate (c : CoreId) (bad : BadSectors) (s : State) : Host.Outcome State Fault Refusal := .next (s.execChunk c 0x22 bad)

/-! ### Control operations: fields and validation (R146 to R149) -/

/-- An entry of a control list (R147). -/
structure StrEntry where
  id : Nat
  id2 : Nat
  slot : Nat
  addr : Nat

def State.strEntry (s : State) (d : Desc) (i : Nat) : StrEntry :=
  let a := entryAt d i
  { id := s.rdN a 2, id2 := s.rdN (a + 2) 2, slot := s.rdN (a + 4) 4, addr := s.rdN (a + 8) 8 }

/-- Records and slots as earlier entries leave them: changed records, slots added, streams whose slot is freed. -/
structure StrPlan where
  recs : List (Nat × StrRec)
  added : List (Nat × Nat × Nat)
  removed : List Nat

def StrPlan.empty : StrPlan := { recs := [], added := [], removed := [] }

def State.planRec (s : State) (c : CoreId) (p : StrPlan) (id : Nat) : StrRec :=
  ((p.recs.find? fun x => x.1 = id).map Prod.snd).getD (s.strRec c id)

def StrPlan.set (p : StrPlan) (id : Nat) (r : StrRec) : StrPlan := { p with recs := (id, r) :: p.recs }
def StrPlan.free (p : StrPlan) (id : Nat) : StrPlan :=
  { p with added := p.added.filter fun x => x.1 ≠ id, removed := id :: p.removed }

/-- A slot of n bytes per slice is free for use on every member (R148). -/
def State.slotOk (s : State) (c : CoreId) (p : StrPlan) (slot n : Nat) : Bool :=
  slot % 64 = 0 &&
  (s.members c).all fun m =>
    let u := (s.core m).sts
    let held := ((u.stsSlices.filter fun x => !p.removed.contains x.1.toNat).map fun x => (x.2.1, x.2.2)) ++ p.added.map Prod.snd
    slot + n ≤ stsLimit u && !(held.any fun x => overlap slot n x.1 x.2) && held.length < 1024

def nearExtent (a n : Nat) : Bool := a % 64 = 0 && inNear a n

/-- The record OPEN makes (R147). -/
def openRec (d : Desc) (group : Nat) (e : StrEntry) : StrRec :=
  { state := if e.slot = noSlot then stOut else stResident, flags := 0, kind := dBits d 100 1 0,
    fp32 := dBits d 100 2 2 = 1, group := group, ns := dBits d 101 4 0, elems := d32 d 96, slot := e.slot, swap := e.addr }

/-- Validation of one entry against the plan so far; none if it fails (R147 to R149). -/
def State.strValidate (s : State) (c : CoreId) (d : Desc) (p : StrPlan) (e : StrEntry) : Option StrPlan :=
  let g := s.groupOf c
  let size := s.groupSize c
  let r := s.planRec c p e.id
  let ours := s.strKnown c e.id && (r.group = g || r.state = stFree)
  let used := ours && r.state ≠ stFree
  match dOpc d with
  | 0x28 =>
    let n := openRec d g e
    if s.strKnown c e.id && r.state = stFree && e.id2 = 0 && n.elems ≠ 0 && n.elems % (64 * size) = 0 &&
        (n.kind = 0 || n.ns = 1) && nearExtent e.addr (size * sliceBytes n size) &&
        (e.slot = noSlot || s.slotOk c p e.slot (sliceBytes n size)) then
      let p := p.set e.id n
      some (if e.slot = noSlot then p else { p with added := (e.id, e.slot, sliceBytes n size) :: p.added })
    else none
  | 0x29 =>
    if used && e.id2 = 0 && e.slot = 0 && e.addr = 0 then some ((p.set e.id { r with state := stFree }).free e.id) else none
  | 0x2A =>
    let q := s.planRec c p e.id2
    if used && s.strKnown c e.id2 && q.state ≠ stFree && e.id ≠ e.id2 && r.group = q.group && r.kind = q.kind &&
        r.ns = q.ns && r.elems = q.elems && e.slot = 0 && e.addr = 0 then some p
    else none
  | 0x2B =>
    if used && e.id2 = 0 && e.slot = 0 && e.addr = 0 then
      some (if r.state = stResident then (p.set e.id { r with state := stOut, slot := noSlot }).free e.id else p)
    else none
  | 0x2C =>
    if !(used && e.id2 = 0 && e.addr = 0) then none
    else if r.state ≠ stOut then some p
    else if e.slot ≠ noSlot && s.slotOk c p e.slot (sliceBytes r size) then
      let p := p.set e.id { r with state := stResident, slot := e.slot }
      some { p with added := (e.id, e.slot, sliceBytes r size) :: p.added }
    else none
  | _ =>
    if used && e.id2 = 0 && e.slot = 0 && nearExtent e.addr (4 * r.elems) then some p else none

def ctlCount (d : Desc) : Nat := d32 d 16

/-- A whole list validated in order. -/
def State.strValidateAll (s : State) (c : CoreId) (d : Desc) (p : StrPlan) : Option StrPlan :=
  (List.range (ctlCount d)).foldl (fun p i => p.bind fun p => s.strValidate c d p (s.strEntry d i)) (some p)

/-- The fields of a control descriptor (R146). -/
def ctlFields (d : Desc) : Bool :=
  let f (b : Nat) : Val := decF32 (BitVec.ofNat 32 (d32 d b))
  let one : Val := .fin false 1 0
  untyped d && ctlCount d ≤ 4096 && d64 d 32 % 64 = 0 && byteSpace (localPart (d64 d 32)) (16 * ctlCount d) &&
  if dOpc d = 0x28 then
    onlyFields d [(16, 4), (32, 8), (96, 7), (104, 8)] && dBits d 100 7 3 = 0 && dBits d 101 7 5 = 0 &&
    dBits d 102 7 4 = 0 && dBits d 100 1 0 ≤ 2 && 1 ≤ dBits d 101 4 0 && dBits d 101 4 0 ≤ 16 &&
    one.le (f 104) && Val.zero.le (f 108) && (f 108).le one
  else onlyFields d [(16, 4), (32, 8)]

/-! ### Performance of one entry (R138, R147, R152) -/

/-- The record's bytes as OPEN fills them. -/
def strBytes (d : Desc) (r : StrRec) : List Byte :=
  leBytes 1 r.state ++ leBytes 1 (r.kind + 4 * ofBool r.fp32) ++ leBytes 1 r.group ++ leBytes 1 r.ns ++ leBytes 4 r.elems ++
  leBytes 4 r.slot ++ leBytes 1 (dBits d 102 3 0) ++ [0, 0, 0] ++ leBytes 8 r.swap ++ leBytes 8 0 ++ leBytes 4 (d32 d 104) ++
  leBytes 4 (d32 d 108) ++ List.replicate 88 0

def State.addSlice (s : State) (m : CoreId) (id slot n : Nat) : State :=
  s.modSts m fun u => { u with stsSlices := u.stsSlices ++ [(BitVec.ofNat 16 id, slot, n)] }

def State.dropSlice (s : State) (m : CoreId) (id : Nat) : State :=
  s.modSts m fun u => { u with stsSlices := u.stsSlices.filter fun x => x.1.toNat ≠ id }

/-- Elements of one slice written from those of another, where the source can be read; says whether all could. -/
def State.copySlice (s : State) (bad : BadSectors) (src dst : Bool) (a b n : Nat) : Bool × State :=
  (List.range n).foldl
    (fun p e =>
      let s := p.2
      let (x, y) := elemAt src a e
      if s.readable bad x 4 && (src || s.readable bad y 2) then (p.1, s.putElem dst b e (convElem src dst (s.getElem src a e)))
      else (false, s)) (true, s)

/-- A member's slice of a stream copied between places; the streams to mark where one cannot be read (R152). -/
def State.copyPart (s : State) (c m : CoreId) (bad : BadSectors) (ids : List Nat) (src dst : Bool) (n a b : Nat) :
    Bool × State :=
  let (ok, s) := s.copySlice bad src dst a b n
  (ok, if ok then s else s.each ids fun s id => s.damage c m id)

/-- Every member's slice copied. -/
def State.copySlices (s : State) (c : CoreId) (bad : BadSectors) (ids : List Nat) (src dst : Bool) (n : Nat)
    (a b : CoreId → Nat → Nat) : Bool × State :=
  (s.members c).zipIdx.foldl
    (fun p x =>
      let (ok, s) := p.2.copyPart c x.1 bad ids src dst n (a x.1 x.2) (b x.1 x.2)
      (p.1 && ok, s)) (true, s)

/-- Member m's part, its slice being number j, of an entry that moves no slice out or in; says whether what it read could
be read (R138, R147, R152). -/
def State.entryPart (s : State) (c : CoreId) (d : Desc) (bad : BadSectors) (e : StrEntry) (m : CoreId) (j : Nat) :
    Bool × State :=
  let size := s.groupSize c
  let r := s.strRec c e.id
  let n := sliceElems r size
  match dOpc d with
  | 0x28 =>
    let nb := sliceBytes (openRec d (s.groupOf c) e) size
    (true,
      if e.slot = noSlot then s.store (e.addr + j * nb) (List.replicate nb 0)
      else (s.store (slotOf m + 0x400000 + e.slot) (List.replicate nb 0)).addSlice m e.id e.slot nb)
  | 0x29 => (true, s.dropSlice m e.id)
  | 0x2A =>
    let q := s.strRec c e.id2
    s.copyPart c m bad [e.id, e.id2] r.fp32 q.fp32 n (sliceAt r size m j) (sliceAt q size m j)
  | 0x2D => s.copyPart c m bad [e.id] true r.fp32 n (e.addr + 4 * n * j) (sliceAt r size m j)
  | 0x2E => s.copyPart c m bad [e.id] r.fp32 true n (sliceAt r size m j) (e.addr + 4 * n * j)
  | _ => (true, s)

/-- The record of an entry's stream once its last member has finished; `ok` says whether every member could read. -/
def State.entryRecord (s : State) (c : CoreId) (d : Desc) (e : StrEntry) (ok : Bool) : State :=
  match dOpc d with
  | 0x28 => s.store (s.strAt c e.id) (strBytes d (openRec d (s.groupOf c) e))
  | 0x29 => (s.setStrState c e.id stFree).storeN (s.strAt c e.id + 8) 4 noSlot
  | 0x2A =>
    let a := s.strAt c e.id
    let b := s.strAt c e.id2
    let s := s.setStrFlags c e.id2 (s.strRec c e.id).flags
    (s.store (b + 24) (s.rd (a + 24) 8)).store (b + 64) (s.rd (a + 64) 64)
  | 0x2D =>
    let s := s.setStrFlags c e.id ((s.strRec c e.id).flags / 8 * 8 + (if ok then 0 else 4))
    s.store (s.strAt c e.id + 64) (List.replicate 64 0)
  | _ => s

/-- The parts of the members that `now` picks. -/
def State.entryParts (s : State) (c : CoreId) (d : Desc) (bad : BadSectors) (e : StrEntry) (now : CoreId → Bool) :
    Bool × State :=
  ((s.members c).zipIdx.filter fun x => now x.1).foldl
    (fun p x =>
      let (ok, s) := p.2.entryPart c d bad e x.1 x.2
      (p.1 && ok, s)) (true, s)

/-! ### Pins (R150) -/

def isChunk (o : Op) : Bool := 0x20 ≤ dOpc o.desc && dOpc o.desc ≤ 0x22

/-- The chunk of a ticket on a member pins a stream: it has not narrowed its pin to the slices its rows name, or it names
the stream. -/
def Core.pins (k : Core) (ticket : BitVec 32) (ids : List Nat) : Bool :=
  (k.ops.any fun o => o.ticket = ticket && isChunk o && !(k.sts.stsPins.any fun x => x.1 = ticket)) ||
  k.sts.stsPins.any fun x => x.1 = ticket && x.2.any fun i => ids.contains i

/-- The chunks that hold a pin on slices of these streams when an entry's part arrives, by member; a chunk that waits
for the control operation itself is not waited for. -/
def State.partWaits (s : State) (c : CoreId) (ticket : BitVec 32) (ids : List Nat) : List PartWait :=
  (s.members c).filterMap fun m =>
    let k := s.core m
    if !(k.sts.stsSlices.any fun x => ids.contains x.1.toNat) then none
    else
      let ts := ((k.ops.filter isChunk).filter fun o =>
        k.pins o.ticket ids && !(m = c && o.dep = some ticket)).map Op.ticket
      if ts.isEmpty then none else some { member := m, tickets := ts }

/-- What is left of the waits once chunks complete or start without naming the slices. -/
def State.stillWaits (s : State) (ws : List PartWait) (ids : List Nat) : List PartWait :=
  ws.filterMap fun w =>
    let ts := w.tickets.filter fun t => (s.core w.member).pins t ids
    if ts.isEmpty then none else some { w with tickets := ts }

/-! ### A control operation in progress (R149, R150) -/

def State.setCtl (s : State) (c : CoreId) (ticket : BitVec 32) (w : CtlWork) : State :=
  s.modOp c ticket fun o => { o with work := .ctl w }

def State.ctlFinish (s : State) (c : CoreId) (o : Op) (w : CtlWork) : State :=
  s.finish c o.ticket (if w.failed then stRetired else if w.deferred = 0 then stDone else stDeferred)
    (resultOf (leBytes 4 w.performed ++ leBytes 4 w.deferred))

/-- Some member's number has no usable core (R378). -/
def State.groupShort (s : State) (c : CoreId) : Bool :=
  (s.members c).length ≠ s.groupSize c || (s.members c).any fun m => !s.usable m

/-- An entry that moves slices starts to: MOVING_OUT, or the slot set and MOVING_IN (R138). -/
def State.startMove (s : State) (c : CoreId) (d : Desc) (e : StrEntry) : Option State :=
  let r := s.strRec c e.id
  if dOpc d = 0x2B && r.state = stResident then some (s.setStrState c e.id stMovingOut)
  else if dOpc d = 0x2C && r.state = stOut then
    let s := (s.setStrState c e.id stMovingIn).storeN (s.strAt c e.id + 8) 4 e.slot
    some (s.each (s.members c) fun s m => s.addSlice m e.id e.slot (sliceBytes r (s.groupSize c)))
  else none

/-- Entries in order until one waits on pins or on moving slices. -/
def State.ctlLoop (s : State) (c : CoreId) (o : Op) (bad : BadSectors) (w : CtlWork) : Nat → State
  | 0 => s.ctlFinish c o w
  | n + 1 =>
    let d := o.desc
    let e := s.strEntry d w.idx
    let next := { w with idx := w.idx + 1, waiting := [], moving := false, partOk := true }
    if s.groupShort c then s.ctlLoop c o bad { next with failed := true } n
    else
      let still := dOpc d = 0x2C || (dOpc d = 0x2B && (s.strRec c e.id).state ≠ stResident)
      let waits := if o.boundary || still then [] else s.partWaits c o.ticket (s.entryIds d w.idx)
      let w := { w with waiting := waits, deferred := w.deferred + ofBool (!waits.isEmpty) }
      match s.startMove c d e with
      | some s => s.setCtl c o.ticket { w with moving := true }
      | none =>
        let (ok, s) := s.entryParts c d bad e fun m => !(waits.any fun x => x.member = m)
        if !waits.isEmpty then s.setCtl c o.ticket { w with partOk := ok }
        else
          (s.entryRecord c d e ok).ctlLoop c o bad { next with performed := w.performed + 1, failed := w.failed || !ok } n

/-- The trouble of a control operation's addresses: its list, and the areas its entries name. -/
def State.ctlTrouble (s : State) (c : CoreId) (d : Desc) : List (Option Trouble) :=
  (List.range (ctlCount d)).map fun i =>
    let e := s.strEntry d i
    let r := s.strRec c e.id
    let size := s.groupSize c
    match dOpc d with
    | 0x28 => s.writeTrouble c e.addr (size * sliceBytes (openRec d 0 e) size)
    | 0x2D => (s.coreViolates c e.addr (4 * r.elems) false).map .violation
    | 0x2E => s.writeTrouble c e.addr (4 * r.elems)
    | _ => none

/-- Another control operation of the core is in progress. -/
def Core.ctlBusy (k : Core) (ticket : BitVec 32) : Bool :=
  k.ops.any fun o => o.ticket ≠ ticket && o.phase == .running && match o.work with
    | .ctl _ => true
    | _ => false

def State.startCtl (s : State) (c : CoreId) (o : Op) (bad : BadSectors) : State :=
  let d := o.desc
  let n := ctlCount d
  if !ctlFields d || !s.herePart (d64 d 32) || s.groupOf c = 0xFF || s.groupIndex c ≠ 0 then s.badDesc c o
  else if n = 0 then s.finish c o.ticket stDone 0
  else s.unless c o [s.readTrouble c bad (localPart (d64 d 32)) (16 * n)] fun s =>
    if (s.strValidateAll c d StrPlan.empty).isNone then s.badDesc c o
    else s.unless c o (s.ctlTrouble c d) fun s =>
      s.ctlLoop c o bad { idx := 0, waiting := [], performed := 0, deferred := 0, moving := false, failed := false } n

def State.execCtl (s : State) (c : CoreId) (opc : Nat) (bad : BadSectors) : State :=
  match (s.core c).startable opc with
  | none => s
  | some o => if (s.core c).ctlBusy o.ticket then s else s.startOp c opc bad fun s o => s.startCtl c o bad

def execStrOpen (c : CoreId) (bad : BadSectors) (s : State) : Host.Outcome State Fault Refusal := .next (s.execCtl c 0x28 bad)

def execStrClose (c : CoreId) (bad : BadSectors) (s : State) : Host.Outcome State Fault Refusal := .next (s.execCtl c 0x29 bad)

def execStrFork (c : CoreId) (bad : BadSectors) (s : State) : Host.Outcome State Fault Refusal := .next (s.execCtl c 0x2A bad)

def execSwapOut (c : CoreId) (bad : BadSectors) (s : State) : Host.Outcome State Fault Refusal := .next (s.execCtl c 0x2B bad)

def execSwapIn (c : CoreId) (bad : BadSectors) (s : State) : Host.Outcome State Fault Refusal := .next (s.execCtl c 0x2C bad)

def execStrWrite (c : CoreId) (bad : BadSectors) (s : State) : Host.Outcome State Fault Refusal := .next (s.execCtl c 0x2D bad)

def execStrRead (c : CoreId) (bad : BadSectors) (s : State) : Host.Outcome State Fault Refusal := .next (s.execCtl c 0x2E bad)

/-! ### The events of a control operation -/

/-- The control operation in progress on a lead goes on; one that was stopped while slices are on the move goes on to the
end of that move. -/
def State.onCtl (s : State) (c : CoreId) (f : State → Op → CtlWork → State) : State :=
  match (s.core c).ops.find? fun o => o.phase == .running && match o.work with | .ctl _ => true | _ => false with
  | none => s
  | some o =>
    match o.work with
    | .ctl w => if w.stop.isSome then f s o w else s.resumeOp c o.ticket fun o => f s o w
    | _ => s

/-- The present entry is finished; the next ones follow, unless the operation was stopped. -/
def State.ctlNext (s : State) (c : CoreId) (o : Op) (bad : BadSectors) (w : CtlWork) (ok : Bool) : State :=
  let w := { w with idx := w.idx + 1, waiting := [], moving := false, partOk := true, performed := w.performed + 1,
                    failed := w.failed || !ok }
  match w.stop with
  | some st => s.finish c o.ticket st (resultOf (leBytes 4 w.performed ++ leBytes 4 w.deferred))
  | none => s.ctlLoop c o bad w (ctlCount o.desc - w.idx)

/-- Parts of an entry whose pins are gone are performed on their members; the entry is finished with the last one
(R150). -/
def execDeferredEntryPart (c : CoreId) (bad : BadSectors) (s : State) : Host.Outcome State Fault Refusal :=
  .next (s.onCtl c fun s o w =>
    let ws := s.stillWaits w.waiting (s.entryIds o.desc w.idx)
    if w.waiting.isEmpty then s
    else if w.moving then s.setCtl c o.ticket { w with waiting := ws }
    else
      let e := s.strEntry o.desc w.idx
      let (ok, s) := s.entryParts c o.desc bad e fun m =>
        (w.waiting.any fun x => x.member = m) && !(ws.any fun x => x.member = m)
      if !ws.isEmpty then s.setCtl c o.ticket { w with waiting := ws, partOk := w.partOk && ok }
      else (s.entryRecord c o.desc e (w.partOk && ok)).ctlNext c o bad w (w.partOk && ok))

/-- A stream's slices are copied to its swap area: it is OUT and its slots are free. -/
def State.swapOutDone (s : State) (c : CoreId) (bad : BadSectors) (id : Nat) : Bool × State :=
  let r := s.strRec c id
  let size := s.groupSize c
  let (ok, s) := s.copySlices c bad [id] r.fp32 r.fp32 (sliceElems r size) (sliceAt r size)
    (fun _ j => r.swap + j * sliceBytes r size)
  let s := (s.setStrState c id stOut).storeN (s.strAt c id + 8) 4 noSlot
  (ok, s.each (s.members c) fun s m => s.dropSlice m id)

/-- The last slice of a swap-out is copied. -/
def execLastSliceCopiedOut (c : CoreId) (bad : BadSectors) (s : State) : Host.Outcome State Fault Refusal :=
  .next (s.onCtl c fun s o w =>
    if dOpc o.desc ≠ 0x2B || !w.moving || !(s.stillWaits w.waiting (s.entryIds o.desc w.idx)).isEmpty then s
    else
      let (ok, s) := s.swapOutDone c bad (s.strEntry o.desc w.idx).id
      s.ctlNext c o bad w ok)

/-- Chunks of the group that waited for slices to move in run once all of theirs are RESIDENT (R151). -/
def State.wakeChunks (s : State) (c : CoreId) (bad : BadSectors) : State :=
  s.each (s.members c) fun s m => s.each (s.core m).ops fun s o =>
    match o.phase, o.work with
    | .running, .chunk ids =>
      if ids.any fun id => s.rowIs m o.ticket (chunkOf o.desc) id == .wait then s else s.runChunk m o bad ids
    | _, _ => s

/-- A stream's slices are copied in: it is RESIDENT, and chunks that waited for it run. -/
def State.swapInDone (s : State) (c : CoreId) (bad : BadSectors) (id : Nat) : Bool × State :=
  let r := s.strRec c id
  let size := s.groupSize c
  let (ok, s) := s.copySlices c bad [id] r.fp32 r.fp32 (sliceElems r size)
    (fun _ j => r.swap + j * sliceBytes r size) (sliceAt r size)
  (ok, (s.setStrState c id stResident).wakeChunks c bad)

/-- The last slice of a swap-in is copied. -/
def execLastSliceCopiedIn (c : CoreId) (bad : BadSectors) (s : State) : Host.Outcome State Fault Refusal :=
  .next (s.onCtl c fun s o w =>
    if dOpc o.desc ≠ 0x2C || !w.moving then s
    else
      let (ok, s) := s.swapInDone c bad (s.strEntry o.desc w.idx).id
      s.ctlNext c o bad w ok)

end Sys2Proof.Machine
end

