-- ==== Sys2Proof/Machine/Kv.lean ====
section
/-! DEFINITION. The KV cache (chapter 6): sequence records, pages and the punnet, APPEND and the control operations,
ATTEND and COMBINE; and KV_RING with its arrival (R292). -/

namespace Sys2Proof.Machine

/-! ### Sequence records (R160) -/

structure SeqRec where
  opened : Bool
  layout : Nat
  ptype : Nat
  home : Nat
  h : Nat
  sp : Nat
  d : Nat
  head0 : Nat
  w : Nat
  spidx : Nat
  cap : Nat
  len : Nat
  flushed : Nat
  resv : Nat
  left : Nat
  live : Nat
  deriving DecidableEq, Repr

def State.seqKnown (s : State) (p : PartId) (id : Nat) : Bool :=
  let g := (s.part p).cfg
  decide (g.seqFirst.toNat ≤ id) && decide (id < g.seqFirst.toNat + g.seqCount.toNat)

def State.seqAt (s : State) (p : PartId) (id : Nat) : Nat :=
  (s.part p).cfg.seqBase.toNat + (id - (s.part p).cfg.seqFirst.toNat) * 128

def State.seqRec (s : State) (p : PartId) (id : Nat) : SeqRec :=
  let a := s.seqAt p id
  let b0 := (s.rdB a).toNat
  { opened := b0 % 4 = 1, layout := b0 / 4 % 4, ptype := b0 / 16, home := s.rdN (a + 1) 1, h := s.rdN (a + 2) 1 % 32,
    sp := s.rdN (a + 3) 1 % 128, d := s.rdN (a + 4) 2, head0 := s.rdN (a + 6) 2, w := s.rdN (a + 8) 4,
    spidx := s.rdN (a + 12) 1 % 64, cap := s.rdN (a + 13) 1, len := s.rdN (a + 16) 8, flushed := s.rdN (a + 24) 8,
    resv := s.rdN (a + 32) 4, left := s.rdN (a + 36) 4, live := s.rdN (a + 40) 2 }

/-- The record's 128 bytes. -/
def SeqRec.bytes (r : SeqRec) : List Byte :=
  leBytes 1 (ofBool r.opened + 4 * r.layout + 16 * r.ptype) ++ leBytes 1 r.home ++ leBytes 1 r.h ++ leBytes 1 r.sp ++
  leBytes 2 r.d ++ leBytes 2 r.head0 ++ leBytes 4 r.w ++ leBytes 1 r.spidx ++ leBytes 1 r.cap ++ [0, 0] ++
  leBytes 8 r.len ++ leBytes 8 r.flushed ++ leBytes 4 r.resv ++ leBytes 4 r.left ++ leBytes 2 r.live ++
  List.replicate 86 0

def State.setSeq (s : State) (p : PartId) (id : Nat) (r : SeqRec) : State := s.store (s.seqAt p id) r.bytes

def State.modSeq (s : State) (p : PartId) (id : Nat) (f : SeqRec → SeqRec) : State := s.setSeq p id (f (s.seqRec p id))

/-! ### Pages (R157 to R159) -/

def noPage : Nat := 0xFFFFFFFF

/-- Entry e of a page list. -/
def State.plistAt (s : State) (p : PartId) (id e : Nat) : Nat :=
  let g := (s.part p).cfg
  g.plistBase.toNat + (id - g.seqFirst.toNat) * 4 * g.capMax.toNat + 4 * e

def State.entry (s : State) (p : PartId) (id e : Nat) : Nat := s.rdN (s.plistAt p id e) 4

def State.setEntry (s : State) (p : PartId) (id e v : Nat) : State := s.storeN (s.plistAt p id e) 4 v

def State.pageAt (s : State) (p : PartId) (page : Nat) : Nat :=
  (s.part p).cfg.pgBase.toNat + page * (s.part p).cfg.pageKib.toNat * 1024

def State.metaAt (s : State) (p : PartId) (page : Nat) : Nat := (s.part p).cfg.pgmetaBase.toNat + 16 * page

structure PageMeta where
  refs : Nat
  fill : Nat
  st : Nat
  bad : Bool
  seq : Nat
  deriving DecidableEq, Repr

def State.page (s : State) (p : PartId) (page : Nat) : PageMeta :=
  let a := s.metaAt p page
  let b := (s.rdB (a + 4)).toNat
  { refs := s.rdN a 2, fill := s.rdN (a + 2) 2, st := b % 4, bad := b / 4 % 2 = 1, seq := s.rdN (a + 8) 4 }

def State.setPage (s : State) (p : PartId) (page : Nat) (m : PageMeta) : State :=
  s.store (s.metaAt p page)
    (leBytes 2 m.refs ++ leBytes 2 m.fill ++ leBytes 1 (m.st + 4 * ofBool m.bad) ++ [0, 0, 0] ++ leBytes 4 m.seq)

def State.modPage (s : State) (p : PartId) (page : Nat) (f : PageMeta → PageMeta) : State :=
  s.setPage p page (f (s.page p page))

def pgFree : Nat := 0
def pgLive : Nat := 1
def pgPending : Nat := 2

/-- Bytes of one head's vector: its elements, and its scale bytes for MXFP8 (R158). -/
def vecElems (pt d : Nat) : Nat := d * elemW pt / 8
def vecScales (pt d : Nat) : Nat := if isBlock pt then d / 32 else 0
def vecBytes (pt d : Nat) : Nat := vecElems pt d + vecScales pt d

/-- RG (R158). -/
def regionBytes (pt d : Nat) : Nat := 256 * vecBytes pt d

/-- RS (R164). -/
def rowSectors (pt h d : Nat) : Nat := ceilDiv (2 * h * vecBytes pt d) 64

/-- Where slot t of region i of a page keeps its elements and its scales. -/
def slotPlaces (base pt d i t : Nat) : Nat × Nat :=
  let r := base + i * regionBytes pt d
  (r + t * vecElems pt d, r + 256 * vecElems pt d + t * vecScales pt d)

/-- Position p's page and its entry of the page list, if this module holds it (R161). -/
def SeqRec.entryOf (r : SeqRec) (pos : Nat) : Option Nat :=
  let j := pos / 256
  if r.layout = 0 || r.layout = 3 then (if r.cap = 0 then none else some (j % r.cap))
  else if r.layout = 2 then (if j % r.sp = r.spidx then some (j / r.sp) else none)
  else some j

def SeqRec.ring (r : SeqRec) : Bool := r.layout = 0 || r.layout = 3

/-- The oldest retained position of a ring (R162). -/
def SeqRec.oldest (r : SeqRec) : Nat :=
  if r.len = 0 then 0 else 256 * ((r.len - 1) / 256 + 1 - r.cap)

/-! ### Reservations (R163) -/

/-- Free pages that no sequence and no started APPEND has a claim to. -/
def Part.unreserved (x : Part) : Nat := x.kvFree.toNat - x.kvReserved.toNat - x.kvClaimed

def State.modKv (s : State) (p : PartId) (free reserved : BitVec 32 → BitVec 32) : State :=
  s.modPart p fun x => { x with kvFree := free x.kvFree, kvReserved := reserved x.kvReserved }

/-- A page becomes FREE and is credited. -/
def State.freePage (s : State) (p : PartId) (page : Nat) : State :=
  let m := s.page p page
  let s := s.setPage p page { m with st := pgFree, refs := 0, bad := false }
  let r := s.seqRec p m.seq
  if s.seqKnown p m.seq && r.opened && r.left < r.resv then
    (s.setSeq p m.seq { r with left := r.left + 1 }).modKv p (· + 1) (· + 1)
  else s.modKv p (· + 1) fun x => x

def State.partCores (s : State) (p : PartId) : List CoreId := (List.finRange 176).filter fun c => s.owner c = some p

/-- A page becomes PENDING: it waits for every ATTEND and KV_RING of the partition that has started (R159, R292). -/
def State.pendPage (s : State) (p : PartId) (page : Nat) : State :=
  let s := s.modPage p page fun m => { m with st := pgPending, refs := 0 }
  let cs := (s.partCores p).filter fun c => !(s.core c).kvc.holds.isEmpty
  if cs.isEmpty then s.freePage p page
  else s.each cs fun s c => s.modKvc c fun u =>
    { u with holds := u.holds.map fun h => { h with pages := h.pages ++ [page] } }

/-- One reference to a page is dropped. -/
def State.dropPage (s : State) (p : PartId) (page : Nat) : State :=
  if page = noPage then s
  else if 1 < (s.page p page).refs then s.modPage p page fun m => { m with refs := m.refs - 1 }
  else s.pendPage p page

/-- Allocation of the lowest-numbered free page to a sequence; says whether it was an unreserved one. -/
def State.allocPage (s : State) (p : PartId) (id : Nat) : Option (Nat × Bool) × State :=
  match (List.range (s.part p).cfg.pgCount.toNat).find? fun g => (s.page p g).st = pgFree with
  | none => (none, s)
  | some g =>
    let r := s.seqRec p id
    let s := s.setPage p g { refs := 1, fill := 0, st := pgLive, bad := false, seq := id }
    if 0 < r.left then (some (g, false), (s.setSeq p id { r with left := r.left - 1 }).modKv p (· - 1) (· - 1))
    else (some (g, true), s.modKv p (· - 1) fun x => x)

/-! ### The punnet (R164, R166) -/

def PunnetRow.sectors (r : PunnetRow) : Nat := ceilDiv r.bytes.length 64

/-- Rows in order with the sector each starts at: rows lie one after another. -/
def placeRows : Nat → List PunnetRow → List (Nat × PunnetRow)
  | _, [] => []
  | n, r :: rest => (n, r) :: placeRows (n + r.sectors) rest

/-- The punnet's own error report of this step enters its rows (R183): a sector of `bad` names the row that lies there. -/
def State.markPunnet (s : State) (c : CoreId) (bad : BadSectors) : State :=
  let base := (slotOf c + 0x500000) / 64
  if bad.any fun x => decide (base ≤ x) && decide (x < base + 2048) then
    s.modKvc c fun u =>
      { u with punnet := (placeRows 0 u.punnet).map fun x =>
          let hit := bad.any fun y => decide (base + x.1 ≤ y) && decide (y < base + x.1 + x.2.sectors)
          { x.2 with uncorrectable := x.2.uncorrectable || hit } }
  else s

/-- KVC_ERR latches a sequence. -/
def State.kvError (s : State) (c : CoreId) (id : Nat) : State :=
  s.modKvc c fun u => { u with kvUnc := true, kvErrSeq := if u.kvUnc then u.kvErrSeq else BitVec.ofNat 20 id }

/-- One row written into its page slot. -/
def State.flushRow (s : State) (p : PartId) (home : CoreId) (r : SeqRec) (x : PunnetRow) : State :=
  match r.entryOf x.pos with
  | none => s
  | some e =>
    let g := s.entry p x.seq.toNat e
    if g = noPage then s else
    let base := s.pageAt p g
    let t := x.pos % 256
    let n := vecBytes r.ptype r.d
    let s := s.each (List.range (2 * r.h)) fun s i =>
      let bs := (x.bytes.drop (i * n)).take n
      let (a, b) := slotPlaces base r.ptype r.d i t
      (s.store a (bs.take (vecElems r.ptype r.d))).store b (bs.drop (vecElems r.ptype r.d))
    let s := s.modPage p g fun m => { m with fill := max m.fill (t + 1), bad := m.bad || x.uncorrectable }
    if x.uncorrectable then s.kvError home x.seq.toNat else s

/-- Rows that leave their line: freed, or kept for the ATTENDs that hold them. -/
def KvcUnit.retireRows (u : KvcUnit) (id : Nat) : KvcUnit :=
  { u with punnet := u.punnet.filterMap fun x =>
      if x.seq.toNat = id && x.live then (if x.holders.isEmpty then none else some { x with live := false }) else some x }

/-- Why a line is flushed: for a full page, for room, or for another reason of R166. -/
inductive FlushFor where
  | full
  | room
  | other
  deriving DecidableEq, Repr

/-- The flush of a line (R166). -/
def State.flushLine (s : State) (p : PartId) (id : Nat) (why : FlushFor) : State :=
  let r := s.seqRec p id
  match toFin? 176 r.home with
  | none => s
  | some home =>
    let rows := (s.core home).kvc.punnet.filter fun x => x.seq.toNat = id && x.live
    let s := s.each rows fun s x => s.flushRow p home r x
    let s := s.modSeq p id fun r => { r with flushed := r.len, live := 0 }
    s.modKvc home fun u =>
      let u := u.retireRows id
      match why with
      | .full => { u with flFull := u.flFull + 1 }
      | .room => { u with flRoom := u.flRoom + 1 }
      | .other => { u with flOther := u.flOther + 1 }

/-- The line with rows that no ATTEND holds whose last append is oldest. -/
def KvcUnit.oldestLine (u : KvcUnit) : Option Nat :=
  let lastOf (id : BitVec 20) : Nat := ((u.punnet.zipIdx.filter fun x => x.1.seq = id && x.1.live).map Prod.snd).max?.getD 0
  let lines := ((u.punnet.filter fun x => x.live && x.holders.isEmpty).map PunnetRow.seq).eraseDups
  (lines.foldl (fun (b : Option (BitVec 20)) i => match b with
    | none => some i
    | some j => if lastOf i < lastOf j then some i else some j) none).map BitVec.toNat

/-- Flushes for room until n sectors are free; false when the APPEND must wait. -/
def State.makeRoom (s : State) (p : PartId) (c : CoreId) (n : Nat) : Nat → Bool × State
  | 0 => (false, s)
  | fuel + 1 =>
    let u := (s.core c).kvc
    if u.used + n ≤ (s.part p).cfg.punnetSectors.toNat then (true, s)
    else match u.oldestLine with
      | none => (false, s)
      | some id => (s.flushLine p id .room).makeRoom p c n fuel

/-! ### Holds (R159, R173) -/

/-- What an ATTEND or KV_RING held is released: rows and pages that nothing else holds are freed. -/
def State.releaseHold (s : State) (p : PartId) (c : CoreId) (ticket : BitVec 32) : State :=
  match (s.core c).kvc.holds.find? fun h => h.ticket = ticket with
  | none => s
  | some h =>
    let s := s.modKvc c fun u => { u with holds := u.holds.filter fun h => h.ticket ≠ ticket }
    let s := s.each ((s.partCores p).filter fun k => (s.core k).kvc.punnet.any fun x => x.holders.contains (c, ticket))
      fun s k => s.modKvc k fun u =>
        { u with punnet := u.punnet.filterMap fun x =>
            let hs := x.holders.filter fun y => y ≠ (c, ticket)
            if hs.isEmpty && !x.live then none else some { x with holders := hs } }
    let still := (s.partCores p).flatMap fun k => (s.core k).kvc.holds.flatMap Hold.pages
    s.each h.pages.eraseDups fun s g =>
      if (s.page p g).st = pgPending && !still.contains g then s.freePage p g else s

/-! ### APPEND (R167 to R169) -/

structure App where
  rows : Nat
  h : Nat
  d : Nat
  tab : Nat
  k : Nat
  v : Nat
  kS : Nat
  vS : Nat

def appOf (d : Desc) : App where
  rows := d32 d 16
  h := d16 d 20
  d := d16 d 22
  tab := d64 d 32
  k := d64 d 40
  v := d64 d 48
  kS := d64 d 64
  vS := d64 d 72

/-- The sequence of each row. -/
def State.appIds (s : State) (a : App) : List Nat := (List.range a.rows).map fun r => s.rdN (localPart a.tab + 4 * r) 4

/-- A page is an MXFP8 or a BF16 one. -/
def pageType (t : Nat) : Bool := t = 3 || t = 4 || t = 8

def State.appFields (s : State) (c : CoreId) (d : Desc) (a : App) : Bool :=
  let ta := dTypeA d
  let ext := extent ta false (a.h * a.d)
  onlyFields d [(16, 8), (32, 24), (64, 16)] && a.rows ≤ 65536 && a.h ≤ 16 && dTmode d = 0 && !dPadz d && dTypeB d = 0 &&
  pageType (dTypeOut d) && (ta = 8 || ta = 9 || ta = 10 || ta = dTypeOut d) &&
  (a.rows = 0 || (s.areaOk c a.tab (4 * a.rows) && s.rowsOk c a.k a.rows a.kS ext && s.rowsOk c a.v a.rows a.vS ext))

/-- Every sequence of an operation is open and of this shape. -/
def State.seqFits (s : State) (p : PartId) (h d pt id : Nat) : Bool :=
  let r := s.seqRec p id
  s.seqKnown p id && r.opened && r.h = h && r.d = d && r.ptype = pt

/-- What the rows so far come to: lengths, entries that hold a page of the APPEND's own, pages that lost a reference,
pages needed by sequence. -/
structure AppPlan where
  lens : List (Nat × Nat)
  own : List (Nat × Nat)
  lost : List Nat
  needs : List Nat

def AppPlan.len (x : AppPlan) (r : SeqRec) (id : Nat) : Nat := ((x.lens.find? fun y => y.1 = id).map Prod.snd).getD r.len

/-- One row of the claim (R162, R168); none where the page list would run out. -/
def State.planRow (s : State) (p : PartId) (x : AppPlan) (id : Nat) : Option AppPlan :=
  let r := s.seqRec p id
  let pos := x.len r id
  let y := { x with lens := (id, pos + 1) :: x.lens }
  match r.entryOf pos with
  | none => some y
  | some e =>
    if r.cap ≤ e then none
    else if pos % 256 = 0 then
      let out := r.ring && decide (r.cap ≤ pos / 256) && !x.own.contains (id, e)
      some { y with own := (id, e) :: y.own, needs := id :: y.needs,
                    lost := if out then s.entry p id e :: y.lost else y.lost }
    else if x.own.contains (id, e) then some y
    else
      let g := s.entry p id e
      if 1 < (s.page p g).refs - x.lost.count g then
        some { y with own := (id, e) :: y.own, needs := id :: y.needs, lost := g :: y.lost }
      else some y

/-- Unreserved pages that an APPEND must claim; none if a page list runs out. -/
def State.planAppend (s : State) (p : PartId) (ids : List Nat) : Option Nat :=
  let x := ids.foldl (fun x id => x.bind fun x => s.planRow p x id)
    (some { lens := [], own := [], lost := [], needs := [] })
  x.map fun x => ((x.needs.eraseDups).map fun id => x.needs.count id - (s.seqRec p id).left).sum

/-- A head's vector of a key or value record in page type, with its saturations and the blocks whose pip demand is not met
(R117, R168 step 4). -/
def State.quantVec (s : State) (ta pt L at0 first d : Nat) (stochastic : Bool) : (List Byte × Nat × Nat) × State :=
  if ta = pt then
    let els := if isBlock pt then s.rd (at0 + first) d else s.rd (at0 + 2 * first) (2 * d)
    let scs := if isBlock pt then s.rd (at0 + ceilDiv L 32 * 32 + first / 32) (d / 32) else []
    ((els ++ scs, 0, 0), s)
  else
    let xs := (List.range d).map fun j => toF32 (s.valAt ta (some (recSpot ta false L at0 (first + j))))
    let (rnd, s) := s.rounds stochastic d
    if isBlock pt then
      let bs := (groups 32 xs).zipIdx.map fun b => quantBlock pt 0 (fun i => rnd (32 * b.2 + i)) b.1
      (((bs.flatMap fun b => packCodes 8 b.codes) ++ bs.map fun b => BitVec.ofNat 8 b.scale,
        (bs.map BlockOut.sat).sum, (bs.map fun b => (blockCounts 0 b).2).sum), s)
    else
      let zs := xs.zipIdx.map fun x => narrowFloat 8 (rnd x.2) x.1
      ((zs.flatMap fun z => leBytes 2 z.1.toNat, zs.countP Prod.snd, 0), s)

/-- Both records of row r in page type, with their monitor counts. -/
def State.quantRow (s : State) (d : Desc) (a : App) (r : Nat) : (List Byte × Nat × Nat) × State :=
  let one (s : State) (base i : Nat) := s.quantVec (dTypeA d) (dTypeOut d) (a.h * a.d) base (i * a.d) a.d (dRnd d = 1)
  (List.range (2 * a.h)).foldl
    (fun x i =>
      let base := if i < a.h then localPart a.k + r * a.kS else localPart a.v + r * a.vS
      let ((bs, n, m), s) := one x.2 base (i % a.h)
      ((x.1.1 ++ bs, x.1.2.1 + n, x.1.2.2 + m), s)) (([], 0, 0), s)

/-- The slots that a copy on append takes over (R168 step 3). -/
def State.copyPage (s : State) (p : PartId) (r : SeqRec) (g n : Nat) : State :=
  let fill := (s.page p g).fill
  let s := s.each (List.range (2 * r.h)) fun s i =>
    let (a, b) := slotPlaces (s.pageAt p g) r.ptype r.d i 0
    let (x, y) := slotPlaces (s.pageAt p n) r.ptype r.d i 0
    (s.store x (s.rd a (fill * vecElems r.ptype r.d))).store y (s.rd b (fill * vecScales r.ptype r.d))
  s.modPage p n fun m => { m with fill := fill, bad := m.bad || (s.page p g).bad }

/-- A page for a sequence: its claim is drawn (R163, R168). -/
def State.appPage (s : State) (p : PartId) (id e : Nat) (w : AppendWork) : Option Nat × AppendWork × State :=
  match s.allocPage p id with
  | (none, s) => (none, w, s)
  | (some (g, un), s) =>
    let s := s.setEntry p id e g
    if un && 0 < w.claimed then
      (some g, { w with claimed := w.claimed - 1 }, s.modPart p fun x => { x with kvClaimed := x.kvClaimed - 1 })
    else (some g, w, s)

/-- Step 4 of a row: its bytes in page type, and its monitor counts and trip (R117, R118; that an output tile of an APPEND
is one row of its table is a DESIGN CHOICE, notes/assumptions/45.md). -/
def State.appQuant (s : State) (c : CoreId) (d : Desc) (a : App) (w : AppendWork) : AppendWork × State :=
  let ((bs, sat, pip), s) := s.quantRow d a w.row
  let trip := s.policy c (dEsc d) != 0 && s.tripped c sat pip
  ({ w with sat := w.sat + sat, staged := some bs }, s.countTrips c (ofBool trip) 0)

/-- Steps 1 to 4 of one row; the Bool says that a copied page could not be read. -/
def State.appPrep (s : State) (p : PartId) (c : CoreId) (bad : BadSectors) (d : Desc) (a : App) (id : Nat)
    (w : AppendWork) : Bool × AppendWork × State :=
  let r := s.seqRec p id
  let pos := r.len
  match r.entryOf pos with
  | none => (false, { w with row := w.row + 1, skipped := w.skipped + 1 }, s.setSeq p id { r with len := pos + 1 })
  | some e =>
    let old := s.entry p id e
    let (lost, w, s) :=
      if pos % 256 = 0 then
        let s := if r.ring && decide (r.cap ≤ pos / 256) then (s.dropPage p old).setEntry p id e noPage else s
        let (_, w, s) := s.appPage p id e w
        (false, w, s)
      else if 1 < (s.page p old).refs then
        let used := (s.page p old).fill
        let unread := (List.range (2 * r.h)).any fun i =>
          let (x, y) := slotPlaces (s.pageAt p old) r.ptype r.d i 0
          !s.readable bad x (used * vecElems r.ptype r.d) || !s.readable bad y (used * vecScales r.ptype r.d)
        if unread then (true, w, (s.modPage p old fun m => { m with bad := true }).kvError c id)
        else
          let (g, w, s) := s.appPage p id e w
          match g with
          | none => (false, w, s)
          | some g =>
            let s := ((s.copyPage p r old g).dropPage p old).modKvc c fun u => { u with flCopies := u.flCopies + 1 }
            (false, { w with copies := w.copies + 1 }, s)
      else (false, w, s)
    if lost then (true, w, s)
    else
      let (w, s) := s.appQuant c d a w
      (false, w, s)

/-- Step 5 of one row, for which there is room. -/
def State.appStore (s : State) (p : PartId) (c : CoreId) (id : Nat) (bs : List Byte) : State :=
  let pos := (s.seqRec p id).len
  let row : PunnetRow := { seq := BitVec.ofNat 20 id, pos := pos, bytes := bs, uncorrectable := false, live := true,
                           holders := [] }
  let s := s.modKvc c fun u => { u with punnet := u.punnet ++ [row] }
  let s := s.modSeq p id fun r => { r with len := pos + 1, live := r.live + 1 }
  if pos % 256 = 255 then s.flushLine p id .full else s

/-- The APPEND is over: what it claimed and did not use is unreserved again. -/
def State.appEnd (s : State) (p : PartId) (c : CoreId) (o : Op) (w : AppendWork) (st : Status) : State :=
  let s := s.modPart p fun x => { x with kvClaimed := x.kvClaimed - w.claimed }
  s.finish c o.ticket st
    (resWords [w.appended, w.copies, if s.policy c (dEsc o.desc) = 0 then 0 else w.sat, w.skipped])

/-- The staged row is stored once there is room for it; the Bool says that it is. -/
def State.appPlace (s : State) (p : PartId) (c : CoreId) (d : Desc) (a : App) (id : Nat) (w : AppendWork) :
    Bool × AppendWork × State :=
  match w.staged with
  | none => (true, w, s)
  | some bs =>
    let (room, s) := s.makeRoom p c (rowSectors (dTypeOut d) a.h a.d) ((s.core c).kvc.punnet.length + 1)
    if room then (true, { w with row := w.row + 1, appended := w.appended + 1, staged := none }, s.appStore p c id bs)
    else (false, w, s)

/-- Rows in table order until one must wait for room. -/
def State.appLoop (s : State) (p : PartId) (c : CoreId) (o : Op) (bad : BadSectors) (w : AppendWork) : Nat → State
  | 0 => s.appEnd p c o w stDone
  | n + 1 =>
    let d := o.desc
    let a := appOf d
    let id := s.rdN (localPart a.tab + 4 * w.row) 4
    let (lost, w, s) := if w.staged.isSome then (false, w, s) else s.appPrep p c bad d a id w
    if lost then s.appEnd p c o w stRetired
    else match s.appPlace p c d a id w with
      | (true, w, s) => s.appLoop p c o bad w n
      | (false, w, s) => s.modOp c o.ticket fun o => { o with work := .append w }

/-- Another APPEND or KV control operation of the core is in progress (R165). -/
def Core.kvBusy (k : Core) : Bool :=
  k.ops.any fun o => o.phase == .running && match o.work with
    | .append _ => true
    | _ => false

/-- A step of the KV unit, which does one operation at a time; its writes outside the pools wait for those that go first
(R56). -/
def State.kvStart (s : State) (c : CoreId) (opc : Nat) (bad : BadSectors) (writes : Desc → List (Nat × Nat))
    (f : State → PartId → Op → State) : State :=
  if (s.core c).kvBusy then s
  else s.startVec c opc bad (fun _ => false) writes fun s o =>
    match s.owner c with
    | none => s.badDesc c o
    | some p => f (s.markPunnet c bad) p o

/-- Trouble of the records of some sequences, and of their page lists where those are needed (R183, R229). -/
def State.seqTrouble (s : State) (p : PartId) (c : CoreId) (bad : BadSectors) (ids : List Nat) (lists : Bool) :
    List (Option Trouble) :=
  (ids.filter (s.seqKnown p)).flatMap fun id =>
    [s.readTrouble c bad (s.seqAt p id) 128,
     if lists then s.readTrouble c bad (s.plistAt p id 0) (4 * (s.seqRec p id).cap) else none]

/-- Trouble of the rows an operation reads. -/
def State.rowsRead (s : State) (c : CoreId) (bad : BadSectors) (g rows stride n : Nat) : List (Option Trouble) :=
  (List.range rows).map fun r => s.readTrouble c bad (localPart g + r * stride) n

def State.startAppend (s : State) (p : PartId) (c : CoreId) (bad : BadSectors) (o : Op) : State :=
  let d := o.desc
  let a := appOf d
  let n := recBytes (dTypeA d) false (a.h * a.d)
  if !s.appFields c d a then s.badDesc c o
  else if a.rows = 0 then s.finish c o.ticket stDone 0
  else s.unless c o (s.readTrouble c bad (localPart a.tab) (4 * a.rows) ::
      (s.rowsRead c bad a.k a.rows a.kS n ++ s.rowsRead c bad a.v a.rows a.vS n)) fun s =>
    let ids := s.appIds a
    s.unless c o (s.seqTrouble p c bad ids.eraseDups true) fun s =>
    if !(ids.eraseDups.all fun id => s.seqFits p a.h a.d (dTypeOut d) id && (s.seqRec p id).home = c.val) then s.badDesc c o
    else match s.planAppend p ids with
      | none => s.badDesc c o
      | some un =>
        if (s.part p).unreserved < un then s.badDesc c o
        else
          (s.modPart p fun x => { x with kvClaimed := x.kvClaimed + un }).appLoop p c o bad
            { row := 0, appended := 0, copies := 0, sat := 0, skipped := 0, claimed := un } a.rows

def execAppend (c : CoreId) (bad : BadSectors) (s : State) : Host.Outcome State Fault Refusal :=
  .next (s.kvStart c 0x31 bad (fun _ => []) fun s p o => s.startAppend p c bad o)

/-- An APPEND that waits for room goes on (R166). -/
def State.resumeAppend (s : State) (c : CoreId) (bad : BadSectors) : State :=
  match s.owner c, (s.core c).ops.find? fun o => o.phase == .running && match o.work with
      | .append _ => true
      | _ => false with
  | some p, some o => s.resumeOp c o.ticket fun o =>
    match o.work with
    | .append w => s.appLoop p c o bad w ((appOf o.desc).rows - w.row)
    | _ => s
  | _, _ => s

def State.resumeAppends (s : State) (p : PartId) : State := s.each (s.partCores p) fun s c => s.resumeAppend c []

/-! ### KV control operations (R170 to R172) -/

structure KvEntry where
  id : Nat
  id2 : Nat
  resv : Nat
  home : Nat

def State.kvEntry (s : State) (d : Desc) (i : Nat) : KvEntry :=
  let a := localPart (d64 d 32) + 16 * i
  { id := s.rdN a 4, id2 := s.rdN (a + 4) 4, resv := s.rdN (a + 8) 4, home := s.rdN (a + 12) 1 }

/-- The record a KV_OPEN entry makes. -/
def kvOpened (d : Desc) (capMax : Nat) (e : KvEntry) : SeqRec :=
  let layout := dBits d 96 1 0
  let w := d32 d 104
  { opened := true, layout := layout, ptype := d8 d 97, home := e.home, h := d8 d 98, sp := d8 d 108, d := d16 d 100,
    head0 := d16 d 102, w := w, spidx := d8 d 109, cap := if layout = 0 || layout = 3 then w / 256 + 1 else capMax,
    len := 0, flushed := 0, resv := e.resv, left := e.resv, live := 0 }

/-- R161 and the sizes of R171 for a record to be opened. -/
def State.openOk (s : State) (p : PartId) (r : SeqRec) : Bool :=
  let g := (s.part p).cfg
  let cap := g.capMax.toNat
  pageType r.ptype && 1 ≤ r.h && r.h ≤ 16 && (r.d = 64 || r.d = 128 || r.d = 256) && 1 ≤ r.sp && r.sp ≤ 64 &&
  r.spidx < r.sp &&
  (if r.ring then r.w % 256 = 0 && 256 ≤ r.w && r.w ≤ 256 * (cap - 1) && r.sp = 1 && (r.layout = 3 || r.head0 = 0)
   else r.w = 0 && (r.layout = 2 || r.sp = 1)) &&
  2 * r.h * regionBytes r.ptype r.d ≤ g.pageKib.toNat * 1024 && rowSectors r.ptype r.h r.d ≤ g.punnetSectors.toNat

/-- Records as the earlier entries of a list leave them: which are open, and their homes. -/
abbrev KvPlan := List (Nat × Bool × Nat)

def State.planSeq (s : State) (p : PartId) (x : KvPlan) (id : Nat) : Bool × Nat :=
  match x.find? fun y => y.1 = id with
  | some y => y.2
  | none => let r := s.seqRec p id; (r.opened, r.home)

/-- Validation of one entry issued on core c (R165, R171). -/
def State.kvValidate (s : State) (p : PartId) (c : CoreId) (d : Desc) (x : KvPlan) (i : Nat) : Option KvPlan :=
  let e := s.kvEntry d i
  let a := localPart (d64 d 32) + 16 * i
  let one := s.planSeq p x e.id
  let blank := s.rdN (a + 13) 1 = 0 && s.rdN (a + 15) 1 = 0 && s.seqKnown p e.id
  let homeOk := (s.partCores p).any fun k => k.val = e.home
  match dOpc d with
  | 0x38 =>
    if blank && !one.1 && e.id2 = 0 && e.home = c.val && s.openOk p (kvOpened d (s.part p).cfg.capMax.toNat e) then
      some ((e.id, true, e.home) :: x)
    else none
  | 0x39 =>
    if blank && one.1 && one.2 = c.val && e.id2 = 0 && e.resv = 0 && e.home = 0 then some ((e.id, false, 0) :: x) else none
  | 0x3A =>
    if blank && s.seqKnown p e.id2 && one.1 && one.2 = c.val && !(s.planSeq p x e.id2).1 && e.id ≠ e.id2 && homeOk then
      some ((e.id2, true, e.home) :: x)
    else none
  | _ => if blank && one.1 && one.2 = c.val && e.id2 = 0 && e.resv = 0 && e.home = 0 then some x else none

def State.kvValidateAll (s : State) (p : PartId) (c : CoreId) (d : Desc) (n : Nat) : Option KvPlan :=
  (List.range n).foldl (fun x i => x.bind fun x => s.kvValidate p c d x i) (some [])

/-- RESV of an entry is granted (R163). -/
def State.grant (s : State) (p : PartId) (n : Nat) : Option State :=
  if n ≤ (s.part p).unreserved then some (s.modKv p (fun x => x) (· + BitVec.ofNat 32 n)) else none

/-- One entry performed, or refused for lack of pages; an entry whose source an earlier refusal left FREE is refused
too. -/
def State.kvPerform (s : State) (p : PartId) (c : CoreId) (d : Desc) (i : Nat) : Bool × State :=
  let e := s.kvEntry d i
  let cap := (s.part p).cfg.capMax.toNat
  let r := s.seqRec p e.id
  match dOpc d with
  | 0x38 =>
    match s.grant p e.resv with
    | none => (false, s)
    | some s =>
      let s := s.setSeq p e.id (kvOpened d cap e)
      (true, s.each (List.range cap) fun s k => s.setEntry p e.id k noPage)
  | 0x39 =>
    if !r.opened then (false, s) else
    let s := s.modKvc c fun u => u.retireRows e.id
    let s := s.each (List.range cap) fun s k => (s.dropPage p (s.entry p e.id k)).setEntry p e.id k noPage
    let r := s.seqRec p e.id
    let s := s.modKv p (fun x => x) (· - BitVec.ofNat 32 r.left)
    (true, s.setSeq p e.id { r with opened := false, left := 0, live := 0 })
  | 0x3A =>
    if !r.opened then (false, s) else
    match s.grant p e.resv with
    | none => (false, s)
    | some s =>
      let s := if 0 < r.live then s.flushLine p e.id .other else s
      let r := s.seqRec p e.id
      let s := s.setSeq p e.id2 { r with home := e.home, resv := e.resv, left := e.resv }
      (true, s.each (List.range cap) fun s k =>
        let g := s.entry p e.id k
        let s := s.setEntry p e.id2 k g
        if g = noPage then s else s.modPage p g fun m => { m with refs := m.refs + 1 })
  | _ => if !r.opened then (false, s) else (true, s.flushLine p e.id .other)

/-- One entry of an operation; in a boundary bundle its grant is drawn from the bundle's reservation (R325). -/
def State.kvEntryStep (s : State) (p : PartId) (c : CoreId) (o : Op) (i : Nat) : Bool × State :=
  let d := o.desc
  if o.boundary && (dOpc d = 0x38 || dOpc d = 0x3A) then
    let n := BitVec.ofNat 32 (s.kvEntry d i).resv
    let move (s : State) (f : BitVec 32 → BitVec 32) : State :=
      (s.modKv p (fun x => x) f).modBound p fun b => { b with bundleRes := f b.bundleRes }
    let (ok, s) := (move s (· - n)).kvPerform p c d i
    (ok, if ok then s else move s (· + n))
  else s.kvPerform p c d i

/-- The fields of a KV control descriptor (R170). -/
def kvFields (d : Desc) : Bool :=
  untyped d && d32 d 16 ≤ 4096 && d64 d 32 % 64 = 0 && byteSpace (localPart (d64 d 32)) (16 * d32 d 16) &&
  if dOpc d = 0x38 then onlyFields d [(16, 4), (32, 8), (96, 3), (100, 10)] && d8 d 96 ≤ 3 && d8 d 97 ≤ 15
  else onlyFields d [(16, 4), (32, 8)]

/-- The bytes a KV control operation writes outside the pools: its list's outcomes. -/
def kvWrites (d : Desc) : List (Nat × Nat) := [(localPart (d64 d 32), 16 * d32 d 16)]

/-- A list on its way: how many entries are performed and refused, and why it ended early. -/
structure KvRun where
  s : State
  done : Nat
  refused : Nat
  stop : Option Trouble

/-- Entry i, unless the list has ended: performed, refused (0x01), or not reached (0x02), as its own page list or one
before it could not be read (R170, R172, R229). -/
def State.kvOne (p : PartId) (c : CoreId) (bad : BadSectors) (o : Op) (x : KvRun) (i : Nat) : KvRun :=
  let at14 := localPart (d64 o.desc 32) + 16 * i + 14
  let trouble := if dOpc o.desc = 0x3B then none
    else (x.s.seqTrouble p c bad [(x.s.kvEntry o.desc i).id] (dOpc o.desc != 0x38)).findSome? id
  match x.stop, trouble with
  | some _, _ => { x with s := x.s.storeN at14 1 2 }
  | none, some t => { x with s := x.s.storeN at14 1 2, stop := some t }
  | none, none =>
    match x.s.kvEntryStep p c o i with
    | (true, s) => { x with s := s.storeN at14 1 0, done := x.done + 1 }
    | (false, s) => { x with s := s.storeN at14 1 1, refused := x.refused + 1 }

def State.startKv (s : State) (p : PartId) (c : CoreId) (bad : BadSectors) (o : Op) : State :=
  let d := o.desc
  let n := d32 d 16
  let a := localPart (d64 d 32)
  if !kvFields d || !s.herePart (d64 d 32) then s.badDesc c o
  else if n = 0 then s.finish c o.ticket stDone 0
  else s.unless c o [s.readTrouble c bad a (16 * n), s.writeTrouble c a (16 * n)] fun s =>
    let ids := (List.range n).flatMap fun i => [(s.kvEntry d i).id, (s.kvEntry d i).id2]
    s.unless c o (s.seqTrouble p c bad ids.eraseDups false) fun s =>
    if (s.kvValidateAll p c d n).isNone then s.badDesc c o
    else
      let x := (List.range n).foldl (State.kvOne p c bad o) { s := s, done := 0, refused := 0, stop := none }
      let s := match x.stop with
        | some (.lost y) => x.s.noteUncorrectable y
        | _ => x.s
      s.finish c o.ticket (if x.stop.isSome then stRetired else if x.refused ≠ 0 then stAdmitRefused else stDone)
        (resWords [x.done, x.refused])

/-! ### KV_RING (R292) -/

/-- FN of the response that says an arrival failed its check (the specification gives the ring's own messages no form:
notes/assumptions/14.md). -/
def nackKvRing : Byte := 0x40

/-- The answer of NEXT to the module the pages came from. -/
def State.kvAnswer (s : State) (a : KvArrival) (op fn : Byte) : State :=
  s.forward { cls := 2, vc := 0, op := op, part := BitVec.ofNat 4 a.part.val, fn := fn, dest := a.srcModule,
              src := s.fab.moduleId, tag := a.tag, len := 0, addr := BitVec.ofNat 46 (localPart a.sig.toNat), data := [] } 0 none

/-- Step 2: the guest can take what is carried. -/
def State.kvGuestOk (s : State) (a : KvArrival) : Bool :=
  let r := s.seqRec a.part a.dstSeq.toNat
  s.seqKnown a.part a.dstSeq.toNat && r.opened && r.layout = 2 && r.sp = a.sp.toNat && r.h = a.h.toNat && r.d = a.d.toNat &&
  r.head0 = a.head0.toNat && r.ptype = a.ptype.toNat && a.pages.length ≤ (s.part a.part).cfg.capMax.toNat

/-- Steps 4 to 6 at NEXT: the pages are drawn and written, take the place of the guest's list, and SIG rises. -/
def State.kvInstall (s : State) (a : KvArrival) : State :=
  let p := a.part
  let id := a.dstSeq.toNat
  let cap := (s.part p).cfg.capMax.toNat
  let olds := (List.range cap).map fun k => s.entry p id k
  let s := s.each (List.range cap) fun s k => s.setEntry p id k noPage
  let s := s.each a.pages.zipIdx fun s x =>
    match s.allocPage p id with
    | (none, s) => s
    | (some (g, _), s) =>
      ((s.setEntry p id x.2 g).modPage p g fun m => { m with fill := x.1.2.toNat }).store (s.pageAt p g) x.1.1
  let s := s.each olds fun s g => s.dropPage p g
  let s := s.modSeq p id fun r => { r with len := a.flushed.toNat, flushed := a.flushed.toNat, spidx := a.spidx.toNat }
  let sig := localPart a.sig.toNat
  (s.storeN sig 8 ((s.rdN sig 8 + 1) % 2 ^ 64)).kvAnswer a opAck 0

/-- An arrival is checked, and installed or left to wait for its reservation (steps 2 and 3). -/
def State.kvArrive (s : State) (a : KvArrival) : State :=
  let sig := localPart a.sig.toNat
  if !s.kvGuestOk a then s.kvAnswer a opNack nackKvRing
  else if !s.mayAccess a.part sig 8 true then s.kvAnswer a opNack nackViolation
  else if (s.seqRec a.part a.dstSeq.toNat).left < a.pages.length then
    s.modFab fun f => { f with kvArrivals := f.kvArrivals ++ [a] }
  else s.kvInstall a

/-- Arrivals that waited are taken once their reservation is there. -/
def State.kvWaiting (s : State) : State :=
  s.each s.fab.kvArrivals fun s a =>
    if a.pages.length ≤ (s.seqRec a.part a.dstSeq.toNat).left then
      (s.modFab fun f => { f with kvArrivals := f.kvArrivals.erase a }).kvInstall a
    else s

def execKvRingArrival (a : KvArrival) (s : State) : Host.Outcome State Fault Refusal := .next (s.kvArrive a)

def execKvOpen (c : CoreId) (bad : BadSectors) (s : State) : Host.Outcome State Fault Refusal :=
  .next ((s.kvStart c 0x38 bad kvWrites fun s p o => s.startKv p c bad o).kvWaiting)

def execKvClose (c : CoreId) (bad : BadSectors) (s : State) : Host.Outcome State Fault Refusal :=
  .next ((s.kvStart c 0x39 bad kvWrites fun s p o => s.startKv p c bad o).kvWaiting)

def execKvFork (c : CoreId) (bad : BadSectors) (s : State) : Host.Outcome State Fault Refusal :=
  .next (s.kvStart c 0x3A bad kvWrites fun s p o => s.startKv p c bad o)

def execKvFlush (c : CoreId) (bad : BadSectors) (s : State) : Host.Outcome State Fault Refusal :=
  .next (s.kvStart c 0x3B bad kvWrites fun s p o => s.startKv p c bad o)

/-- The bytes of a page in use. -/
def State.pageBytes (s : State) (p : PartId) (r : SeqRec) (g : Nat) : List Byte :=
  s.rd (s.pageAt p g) (2 * r.h * regionBytes r.ptype r.d)

/-- NEXT has drawn its pages: each page carried is copied there by BWRITE. Where they lie is told in no form that the
specification gives, so their addresses at NEXT are free values (R292, notes/assumptions/14.md). -/
def State.ringPages (s : State) (c : CoreId) (o : Op) : State :=
  match s.owner c, (s.core c).kvc.holds.find? fun h => h.ticket = o.ticket with
  | some p, some h =>
    let r := s.seqRec p (d32 o.desc 16)
    let n := 2 * r.h * regionBytes r.ptype r.d
    let (xs, s) := h.pages.foldl
      (fun (x : List Xfer × State) g =>
        let (v, s) := x.2.fresh
        (x.1 ++ [cpy (s.globalOf (s.pageAt p g)) (d32 o.desc 24 * 2 ^ 46 + v.toNat % 2 ^ 26 * 4096) n], s)) ([], s)
    match s.runXfers c o.ticket [] xs with
    | (.done, s) => s.finish c o.ticket stDone o.result
    | (.waiting, s) => s
    | (.lost y, s) => (s.noteUncorrectable y).finish c o.ticket stRetired 0
  | _, _ => s.finish c o.ticket stDone o.result

def State.startRing (s : State) (p : PartId) (c : CoreId) (bad : BadSectors) (o : Op) : State :=
  let d := o.desc
  let id := d32 d 16
  let next := d32 d 24
  let sig := d64 d 32
  let r := s.seqRec p id
  if !plainHeader d || !onlyFields d [(16, 12), (32, 8)] || !(next < 2 ^ 18) || modulePart sig ≠ next || sig % 8 ≠ 0 ||
      !s.seqKnown p id || !r.opened || r.home ≠ c.val then s.badDesc c o
  else s.unless c o [if s.isLocal sig then s.writeTrouble c (localPart sig) 8 else s.globalTrouble c bad sig 8 true] fun s =>
    let s := if 0 < r.live then s.flushLine p id .other else s
    let r := s.seqRec p id
    let gs := ((List.range r.cap).map fun e => s.entry p id e).filter (· ≠ noPage)
    let lost := gs.any fun g =>
      (s.page p g).bad || !s.readable bad (s.pageAt p g) (2 * r.h * regionBytes r.ptype r.d)
    if lost then s.finish c o.ticket stRetired 0
    else
      let tag := s.freeTag
      let a : KvArrival :=
        { srcModule := s.fab.moduleId, part := p, tag := tag, dstSeq := BitVec.ofNat 32 (d32 d 20),
          sp := BitVec.ofNat 8 r.sp, spidx := BitVec.ofNat 8 r.spidx, h := BitVec.ofNat 8 r.h, d := BitVec.ofNat 16 r.d,
          head0 := BitVec.ofNat 16 r.head0, ptype := BitVec.ofNat 4 r.ptype, flushed := BitVec.ofNat 64 r.flushed,
          pages := gs.map fun g => (s.pageBytes p r g, BitVec.ofNat 16 (s.page p g).fill), sig := BitVec.ofNat 64 sig }
      let s := s.modKvc c fun u => { u with holds := u.holds ++ [{ ticket := o.ticket, pages := gs }] }
      let s := s.modFab fun f => { f with reqs := f.reqs ++ [{ tag := tag, owner := .op c o.ticket }], nextTag := tag + 1 }
      let s := s.modOp c o.ticket fun o => { o with tags := [tag], result := resWords [gs.length], work := .script [] }
      if s.isLocal sig then s.kvArrive a
      else s.modFab fun f => { f with kvSent := f.kvSent ++ [{ a with pages := a.pages.map fun x => ([], x.2) }] }

def execKvRing (c : CoreId) (bad : BadSectors) (s : State) : Host.Outcome State Fault Refusal :=
  .next (s.startOp c 0x74 bad fun s o =>
    match s.owner c with
    | none => s.badDesc c o
    | some p => ((s.markPunnet c bad).startRing p c bad o).resumeAppend c [])

/-! ### ATTEND (R173 to R183) -/

structure Att where
  rows : Nat
  h : Nat
  d : Nat
  arrMin : Nat
  qt : Nat
  q : Nat
  o : Nat
  lse : Nat
  qS : Nat
  oS : Nat
  ws : Nat
  scale : BitVec 32
  pips : Bool

def attOf (d : Desc) : Att where
  rows := d32 d 16
  h := d16 d 20
  d := d16 d 22
  arrMin := d16 d 24
  qt := d64 d 32
  q := d64 d 40
  o := d64 d 48
  lse := d64 d 56
  qS := d64 d 64
  oS := d64 d 72
  ws := d64 d 96
  scale := BitVec.ofNat 32 (d32 d 104)
  pips := dBits d 108 0 0 = 1

/-- A row of the query table: its sequence and the positions [LO, HI) (R175). -/
structure QRow where
  seq : Nat
  lo : Nat
  hi : Nat
  deriving DecidableEq, Repr

def State.qRow (s : State) (p : PartId) (a : Att) (r : Nat) : QRow :=
  let x := localPart a.qt + 8 * r
  let seq := s.rdN x 4
  let hi := s.rdN (x + 4) 4
  let m := s.seqRec p seq
  { seq := seq, hi := hi, lo := if m.ring then hi - m.w else 0 }

/-- Types that ATTEND and COMBINE may write (R174). -/
def attOut (t : Nat) : Bool := t ≤ 10

/-- The workspace (R174). -/
def Att.wsBytes (a : Att) : Nat := up64 (min a.rows 1024 * (8 + 4 * a.d))

/-- The partition's pools, records, lists and metadata. -/
def State.kvPools (s : State) (p : PartId) : List Range := ((s.readAreas p).take 5).drop 1

def State.attFields (s : State) (p : PartId) (c : CoreId) (d : Desc) (a : Att) : Bool :=
  let ta := dTypeA d
  let tb := dTypeB d
  let L := a.h * a.d
  let qn := rowsExtent a.rows a.qS (extent ta false L)
  let on := rowsExtent a.rows a.oS (s.outExtent c d a.pips L)
  let ln := if a.lse = 0 then 0 else 4 * a.rows * a.h
  let outs := [(localPart a.o, on), (localPart a.lse, ln)]
  let ins := [(localPart a.qt, 8 * a.rows), (localPart a.q, qn), (localPart a.ws, a.wsBytes)] ++
    (s.kvPools p).map fun r => (r.1, r.2 - r.1)
  onlyFields d [(16, 10), (32, 48), (96, 13)] && d8 d 108 ≤ 1 && a.rows ≤ 65536 && a.h ≤ 16 && a.arrMin ≤ 1025 &&
  dTmode d = 0 && !dPadz d && pageType tb && (if isBlock tb then isBlock ta else ta = 8 || ta = 9) && attOut (dTypeOut d) &&
  pipOk a.pips (dTypeOut d) &&
  (a.rows = 0 ||
    (s.areaOk c a.qt (8 * a.rows) && s.rowsOk c a.q a.rows a.qS (extent ta false L) &&
     s.rowsOk c a.o a.rows a.oS (s.outExtent c d a.pips L) && (a.lse = 0 || (a.lse % 4 = 0 && s.areaOk c a.lse ln)) &&
     a.ws % 64 = 0 && s.herePart a.ws && ownStore c a.ws a.wsBytes &&
     !(outs.any fun x => ins.any fun y => overlap x.1 x.2 y.1 y.2)))

/-- A row's sequence and positions are legal (R175). -/
def State.qRowOk (s : State) (p : PartId) (d : Desc) (a : Att) (x : QRow) : Bool :=
  let m := s.seqRec p x.seq
  s.seqFits p a.h a.d (dTypeB d) x.seq && x.hi ≤ m.len && (!m.ring || m.oldest ≤ x.lo)

/-- Positions of a row that this module holds. -/
def State.seen (s : State) (p : PartId) (x : QRow) : List Nat :=
  ((List.range (x.hi - x.lo)).map (· + x.lo)).filter fun pos => ((s.seqRec p x.seq).entryOf pos).isSome

/-- A vector in page type from its element and scale bytes (R158), decoded. -/
def vecOf (pt : Nat) (els scs : List Byte) : List (BitVec 32) :=
  if isBlock pt then els.zipIdx.map fun x => toF32 (blockVal pt x.1.toNat (scs.getD (x.2 / 32) 0).toNat [] x.2)
  else (elemsOf 2 els).map fun x => toF32 (decBf16 (BitVec.ofNat 16 x))

/-- Where an attention row finds a position: a page, or a live row of the punnet of its home. -/
inductive KvPlace where
  | page (g : Nat)
  | row (c : CoreId) (x : PunnetRow)
  | nowhere
  deriving DecidableEq, Repr

def State.kvPlace (s : State) (p : PartId) (seq pos : Nat) : KvPlace :=
  let m := s.seqRec p seq
  if pos < m.flushed then
    match m.entryOf pos with
    | some e => .page (s.entry p seq e)
    | none => .nowhere
  else match toFin? 176 m.home with
    | none => .nowhere
    | some c =>
      match (s.core c).kvc.punnet.find? fun x => x.seq.toNat = seq && x.live && x.pos = pos with
      | some x => .row c x
      | none => .nowhere

/-- Region i (keys, then values, by head) of a position, decoded. -/
def State.kvVec (s : State) (p : PartId) (m : SeqRec) (i pos : Nat) (k : KvPlace) : List (BitVec 32) :=
  let ne := vecElems m.ptype m.d
  let ns := vecScales m.ptype m.d
  match k with
  | .page g =>
    let (a, b) := slotPlaces (s.pageAt p g) m.ptype m.d i (pos % 256)
    vecOf m.ptype (s.rd a ne) (s.rd b ns)
  | .row _ x =>
    let bs := (x.bytes.drop (i * (ne + ns))).take (ne + ns)
    vecOf m.ptype (bs.take ne) (bs.drop ne)
  | .nowhere => []

/-- A position's data of a head cannot be read (R183). -/
def State.kvLost (s : State) (p : PartId) (bad : BadSectors) (m : SeqRec) (h pos : Nat) (k : KvPlace) : Bool :=
  match k with
  | .page g =>
    (s.page p g).bad ||
    [h, m.h + h].any fun i =>
      let (a, b) := slotPlaces (s.pageAt p g) m.ptype m.d i (pos % 256)
      !s.readable bad a (vecElems m.ptype m.d) || !s.readable bad b (vecScales m.ptype m.d)
  | .row _ x => x.uncorrectable
  | .nowhere => false

/-! ### Visits (R176) -/

/-- One visit of a row group: a page, or the punnet where there is none; and the rows that stream against it, each with
the positions it sees there. -/
structure Visit where
  page : Option Nat
  rows : List (Nat × List Nat)
  deriving DecidableEq, Repr

/-- The positions of a row below its sequence's FLUSHED that lie in page g, or the live ones. -/
def State.seenAt (s : State) (p : PartId) (x : QRow) (page : Option Nat) : List Nat :=
  (s.seen p x).filter fun pos =>
    match page, s.kvPlace p x.seq pos with
    | some g, .page k => g = k
    | none, .row _ _ => true
    | _, _ => false

/-- The visits of a group of rows of the query table: its pages in the order of first reference, and the punnet. -/
def State.visitsOf (s : State) (p : PartId) (rows : List (Nat × QRow)) : List Visit :=
  let pages := (rows.flatMap fun x => (s.seen p x.2).filterMap fun pos => match s.kvPlace p x.2.seq pos with
    | .page g => some g
    | _ => none).eraseDups
  let visit (g : Option Nat) : Visit :=
    { page := g, rows := (rows.map fun x => (x.1, s.seenAt p x.2 g)).filter fun y => !y.2.isEmpty }
  ((pages.map some ++ [none]).map visit).filter fun v => !v.rows.isEmpty

/-- The visit runs on the array (R176). -/
def Visit.array (a : Att) (v : Visit) : Bool := v.page.isSome && decide (a.arrMin ≤ v.rows.length)

/-- The column tiles of 64 positions that a page visit issues. -/
def Visit.tiles (v : Visit) : Nat := ((v.rows.flatMap fun x => x.2.map fun pos => pos % 256 / 64).eraseDups).length

/-- The passes of a visit of head dimension D on the array, and their beats: a QK pass for each tile that is issued, at
the rate of the page type, and ⌈D/64⌉ PV passes at G = 1. -/
def Visit.passes (a : Att) (pt : Nat) (v : Visit) : Nat × Nat :=
  if v.array a then
    (v.tiles + ceilDiv a.d 64, v.tiles * ceilDiv v.rows.length (rateG pt) + ceilDiv a.d 64 * v.rows.length)
  else (0, 0)

/-- A visit of head h reads data that cannot be read (R183). -/
def State.visitLost (s : State) (p : PartId) (bad : BadSectors) (rowOf : Nat → QRow) (h : Nat) (v : Visit) : Bool :=
  v.rows.any fun x => x.2.any fun pos =>
    s.kvLost p bad (s.seqRec p (rowOf x.1).seq) h pos (s.kvPlace p (rowOf x.1).seq pos)

/-- The passes and beats of some visits are counted; a re-run's passes are not (R86, R104). -/
def State.countVisits (s : State) (c : CoreId) (a : Att) (pt : Nat) (rerun : Bool) (vs : List Visit) : State :=
  s.each (vs.filter fun v => v.array a) fun s v =>
    (s.countBubbles c false).modArr c fun u =>
      { u with beats := u.beats + BitVec.ofNat 64 (v.passes a pt).2,
               passes := if rerun then u.passes else u.passes + BitVec.ofNat 64 (v.passes a pt).1 }

/-! ### One row and head (R177, R178, R181) -/

/-- A position as a visit takes it: its key, and its value, which the array takes in BF16. -/
def State.kvPair (s : State) (p : PartId) (a : Att) (x : QRow) (h : Nat) (v : Visit) (pos : Nat) :
    List (BitVec 32) × List (BitVec 32) :=
  let m := s.seqRec p x.seq
  let k := s.kvPlace p x.seq pos
  let vs := s.kvVec p m (m.h + h) pos k
  (s.kvVec p m h pos k, if v.array a then vs.map bf16Weight else vs)

/-- The element j of head h of a row's output: o/l, where that keeps the bound of R181 or its terms are not all finite, and
else the value nearest to the exact attention. -/
def attElem (scale : BitVec 32) (q : List (BitVec 32)) (visits : Nat)
    (kvs : List (List (BitVec 32) × List (BitVec 32))) (l o : BitVec 32) (j : Nat) : BitVec 32 :=
  let c := fdiv o l
  let ts := kvs.map fun y => (scoreVal scale q y.1, y.2.getD j 0)
  if !(ts.all fun t => !t.1.isNan && !t.1.isInf && f32Finite t.2) then c
  else
    let eta := attnEta q.length (kvs.map fun y => (scoreVal scale q y.1, scoreSize scale q y.1))
    bounded c (f32Finite c && attnWithin c eta visits ts) (attnNearest ts)

/-- One row and head over its visits in order: its D results and its log-sum-exp, and whether it saw nothing. The scores
of positions that the row does not see weigh exactly zero, so they are left out (R176 to R178). -/
def State.attHead (s : State) (p : PartId) (d : Desc) (a : Att) (r : Nat) (x : QRow) (h : Nat) (visits : List Visit) :
    List (BitVec 32) × BitVec 32 × Bool :=
  let q := (List.range a.d).map fun j =>
    toF32 (s.valAt (dTypeA d) (some (recSpot (dTypeA d) false (a.h * a.d) (localPart a.q + r * a.qS) (h * a.d + j))))
  let mine := visits.filterMap fun v => (v.rows.find? fun y => y.1 = r).map fun y => (v, y.2)
  let terms := mine.map fun y => y.2.map fun pos => s.kvPair p a x h y.1 pos
  let scored := terms.map fun ts => ts.map fun t => (attnScore a.scale q t.1, t.2)
  let y := scored.foldl softVisit (Soft.start a.d)
  if y.l = 0 then (List.replicate a.d 0, negInf32, true)
  else
    let all := ((List.range a.d).map fun j =>
        attElem a.scale q mine.length terms.flatten y.l (y.o.getD j 0) j, lseOf (Config.attnLse y.m y.l) y.m y.l, false)
    match scored.flatten with
    | [(sc, v)] => if f32Finite sc then (v, sc, false) else all
    | _ => all

/-- Output tiles: for each head, groups of up to 1,024 rows (R176, R179). -/
def headTiles (rows h d : Nat) : List (Nat × TileSpec) :=
  (List.range h).flatMap fun i => (groups 1024 (List.range rows)).map fun g =>
    (i, { rows := g, n0 := i * d, n1 := i * d + d, passes := [] })

/-- The view of records of H·D elements that ATTEND and COMBINE write. -/
def headView (d : Desc) (out stride len : Nat) (pips : Bool) : View :=
  { ta := 10, tb := 10, tout := dTypeOut d, outPips := pips, accum := false, ref := 0, len := len, rnd := dRnd d = 1,
    esc := dEsc d, a := fun _ _ => none, b := fun _ _ => none, out := fun r n => (localPart out + r * stride, n),
    writes := fun _ _ => true }

/-- What a head of a row gives: its elements, its log-sum-exp, and whether it saw nothing. -/
abbrev HeadOut := List (BitVec 32) × BitVec 32 × Bool

/-- The results of some tiles drained, their log-sum-exps written, and the operation finished; `again` is
what the re-run of the first n tiles does besides (R178, R179, R182). -/
def State.headsEnd (s : State) (c : CoreId) (o : Op) (v : View) (lse h : Nat) (lost : Bool) (again : State → Nat → State)
    (tiles : List (Nat × TileSpec × List HeadOut)) : State :=
  let r := s.vectorDrain c o.ticket v (tiles.map fun t => (t.2.1, t.2.2.map Prod.fst))
  let empty := ((tiles.flatMap fun t => ((t.2.1.rows.zip t.2.2).filter fun x => x.2.2.2).map Prod.fst).eraseDups).length
  let s := if lse = 0 then r.s else
    r.s.each tiles fun s t => s.each (t.2.1.rows.zip t.2.2) fun s x =>
      s.storeN (localPart lse + 4 * (x.1 * h + t.1)) 4 x.2.2.1.toNat
  let st := if lost then stRetired
    else combine (if r.widened then stEscalated else stDone) (if empty = 0 then stDone else stEmptyRows)
  (again s r.escalated).finish c o.ticket st (resWords [empty, r.escalated, r.sat, r.pip])

/-- Trouble of the rows an operation writes. -/
def State.rowsWrite (s : State) (c : CoreId) (g rows stride n : Nat) : List (Option Trouble) :=
  (List.range rows).map fun r => s.writeTrouble c (localPart g + r * stride) n

/-- Bytes of one written record, widened or not. -/
def State.outBytesOf (s : State) (c : CoreId) (d : Desc) (pips : Bool) (L : Nat) : Nat :=
  max (recBytes (dTypeOut d) pips L) (if s.mayWiden c (dEsc d) (dTypeOut d) then recBytes 3 false L else 0)

/-- A started ATTEND takes its pages and rows (R173). -/
def State.attHold (s : State) (p : PartId) (c : CoreId) (ticket : BitVec 32) (xs : List QRow) : State :=
  let places := (xs.eraseDups.flatMap fun x => (s.seen p x).map fun pos => s.kvPlace p x.seq pos)
  let pages := (places.filterMap fun k => match k with
    | .page g => some g
    | _ => none).eraseDups
  let rows := places.filterMap fun k => match k with
    | .row k x => some (k, x.seq, x.pos)
    | _ => none
  let s := s.modKvc c fun u => { u with holds := u.holds ++ [{ ticket := ticket, pages := pages }] }
  s.each (rows.map fun x => x.1).eraseDups fun s k => s.modKvc k fun u =>
    { u with punnet := u.punnet.map fun y =>
        if y.live && rows.contains (k, y.seq, y.pos) then { y with holders := y.holders ++ [(c, ticket)] } else y }

/-- The pages of a tile that cannot be read become BAD, and the core's KVC_ERR latches the sequence (R183). -/
def State.attBad (s : State) (p : PartId) (c : CoreId) (bad : BadSectors) (xs : List QRow) (h : Nat) : State :=
  s.each xs fun s x =>
    let m := s.seqRec p x.seq
    s.each (s.seen p x) fun s pos =>
      let k := s.kvPlace p x.seq pos
      if s.kvLost p bad m h pos k then
        let s := match k with
          | .page g => s.modPage p g fun y => { y with bad := true }
          | _ => s
        s.kvError c x.seq
      else s

def State.startAttend (s : State) (p : PartId) (c : CoreId) (bad : BadSectors) (o : Op) : State :=
  let d := o.desc
  let a := attOf d
  let L := a.h * a.d
  if !s.attFields p c d a then s.badDesc c o
  else if a.rows = 0 then s.finish c o.ticket stDone 0
  else s.unless c o (s.readTrouble c bad (localPart a.qt) (8 * a.rows) ::
      (s.rowsRead c bad a.q a.rows a.qS (recBytes (dTypeA d) false L) ++
       s.rowsWrite c a.o a.rows a.oS (s.outBytesOf c d a.pips L) ++
       [if a.lse = 0 then none else s.writeTrouble c (localPart a.lse) (4 * a.rows * a.h)])) fun s =>
    let xs := (List.range a.rows).map fun r => s.qRow p a r
    s.unless c o (s.seqTrouble p c bad (xs.map QRow.seq).eraseDups true) fun s =>
    if !(xs.all fun x => s.qRowOk p d a x) then s.badDesc c o
    else
      let s := s.attHold p c o.ticket xs
      let rowOf (r : Nat) : QRow := xs.getD r { seq := 0, lo := 0, hi := 0 }
      let tiles := (headTiles a.rows a.h a.d).map fun t => (t.1, t.2, s.visitsOf p (t.2.rows.map fun r => (r, rowOf r)))
      let lost (h : Nat) (v : Visit) : Bool := s.visitLost p bad rowOf h v
      let good := tiles.filter fun t => !(t.2.2.any (lost t.1))
      let outs := good.map fun t => (t.1, t.2.1, t.2.1.rows.map fun r => s.attHead p d a r (rowOf r) t.1 t.2.2)
      let reads := tiles.flatMap fun t => t.2.2.takeWhile fun v => !lost t.1 v
      let s := s.each (tiles.filter fun t => t.2.2.any (lost t.1)) fun s t => s.attBad p c bad (t.2.1.rows.map rowOf) t.1
      let s := (s.scratch (localPart a.ws) (min a.rows 1024 * (8 + 4 * a.d))).countVisits c a (dTypeB d) false reads
      s.headsEnd c o (headView d a.o a.oS L a.pips) a.lse a.h (good.length ≠ tiles.length)
        (fun s n => s.countVisits c a (dTypeB d) true ((good.take n).flatMap fun t => t.2.2)) outs

/-- Passes of an operation that started earlier are still to enter the array (R54). -/
def Core.passesFirst (k : Core) : Bool := !k.arr.prep.isEmpty || k.ops.any Op.expands

/-- What an ATTEND writes: its outputs, its log-sum-exps and its workspace. -/
def State.attWrites (s : State) (c : CoreId) (d : Desc) : List (Nat × Nat) :=
  let a := attOf d
  rowRanges a.o a.rows a.oS (s.outBytesOf c d a.pips (a.h * a.d)) ++
    [(localPart a.ws, a.wsBytes)] ++ (if a.lse = 0 then [] else [(localPart a.lse, 4 * a.rows * a.h)])

/-- An ATTEND starts once the passes of the operations before it have entered the array, as its own come after them (R54;
notes/assumptions/45.md). -/
def execAttend (c : CoreId) (bad : BadSectors) (s : State) : Host.Outcome State Fault Refusal :=
  .next (if (s.core c).passesFirst then s else
    s.startVec c 0x30 bad (fun _ => false) (s.attWrites c) fun s o =>
      match s.owner c with
      | none => s.badDesc c o
      | some p => (s.each (s.partCores p) fun s k => s.markPunnet k bad).startAttend p c bad o)

/-! ### COMBINE (R182) -/

structure Cmb where
  rows : Nat
  h : Nat
  d : Nat
  parts : Nat
  inp : Nat
  lin : Nat
  o : Nat
  lse : Nat
  inR : Nat
  inP : Nat
  linP : Nat
  oS : Nat

def cmbOf (d : Desc) : Cmb where
  rows := d32 d 16
  h := d16 d 20
  d := d16 d 22
  parts := d8 d 24
  inp := d64 d 32
  lin := d64 d 40
  o := d64 d 48
  lse := d64 d 56
  inR := d64 d 64
  inP := d64 d 72
  linP := d64 d 80
  oS := d64 d 88

def State.cmbFields (s : State) (c : CoreId) (d : Desc) (a : Cmb) : Bool :=
  let L := a.h * a.d
  let ext := extent 10 false L
  let on := rowsExtent a.rows a.oS (s.outExtent c d false L)
  let ln := if a.lse = 0 then 0 else 4 * a.rows * a.h
  let outs := [(localPart a.o, on), (localPart a.lse, ln)]
  let ins := (List.range a.parts).flatMap fun i =>
    [(localPart a.inp + i * a.inP, rowsExtent a.rows a.inR ext), (localPart a.lin + i * a.linP, 4 * a.rows * a.h)]
  onlyFields d [(16, 9), (32, 64)] && a.rows ≤ 65536 && 1 ≤ a.h && a.h ≤ 16 && (a.d = 64 || a.d = 128 || a.d = 256) &&
  2 ≤ a.parts && a.parts ≤ 16 && dTmode d = 0 && !dPadz d && dTypeA d = 10 && dTypeB d = 0 && attOut (dTypeOut d) &&
  (a.rows = 0 ||
    (a.inP % 64 = 0 && a.linP % 4 = 0 && a.lin % 4 = 0 && s.herePart a.inp && s.herePart a.lin &&
     (List.range a.parts).all (fun i => s.rowsOk c (a.inp + i * a.inP) a.rows a.inR ext &&
       s.areaOk c (a.lin + i * a.linP) (4 * a.rows * a.h)) &&
     s.rowsOk c a.o a.rows a.oS (s.outExtent c d false L) && (a.lse = 0 || (a.lse % 4 = 0 && s.areaOk c a.lse ln)) &&
     !(outs.any fun x => ins.any fun y => overlap x.1 x.2 y.1 y.2)))

/-- One row and head of the merge. -/
def State.cmbHead (s : State) (a : Cmb) (r h : Nat) : HeadOut :=
  let w (x : Nat) : BitVec 32 := BitVec.ofNat 32 (s.rdN x 4)
  let lses := (List.range a.parts).map fun i => w (localPart a.lin + i * a.linP + 4 * (r * a.h + h))
  if lses.all fun y => y = negInf32 then (List.replicate a.d 0, negInf32, true)
  else
    ((List.range a.d).map fun j =>
      combineOut lses ((List.range a.parts).map fun i =>
        w (localPart a.inp + i * a.inP + r * a.inR + 4 * (h * a.d + j))),
     combineLse lses, false)

def State.startCombine (s : State) (c : CoreId) (bad : BadSectors) (o : Op) : State :=
  let d := o.desc
  let a := cmbOf d
  let L := a.h * a.d
  if !s.cmbFields c d a then s.badDesc c o
  else if a.rows = 0 then s.finish c o.ticket stDone 0
  else s.unless c o (((List.range a.parts).flatMap fun i =>
        s.readTrouble c bad (localPart a.lin + i * a.linP) (4 * a.rows * a.h) ::
        s.rowsRead c bad (a.inp + i * a.inP) a.rows a.inR (4 * L)) ++
      s.rowsWrite c a.o a.rows a.oS (s.outBytesOf c d false L) ++
      [if a.lse = 0 then none else s.writeTrouble c (localPart a.lse) (4 * a.rows * a.h)]) fun s =>
    let outs := (headTiles a.rows a.h a.d).map fun t => (t.1, t.2, t.2.rows.map fun r => s.cmbHead a r t.1)
    s.headsEnd c o (headView d a.o a.oS L false) a.lse a.h false (fun s _ => s) outs

/-- What a COMBINE writes. -/
def State.cmbWrites (s : State) (c : CoreId) (d : Desc) : List (Nat × Nat) :=
  let a := cmbOf d
  rowRanges a.o a.rows a.oS (s.outBytesOf c d false (a.h * a.d)) ++
    (if a.lse = 0 then [] else [(localPart a.lse, 4 * a.rows * a.h)])

def execCombine (c : CoreId) (bad : BadSectors) (s : State) : Host.Outcome State Fault Refusal :=
  .next (s.startVec c 0x32 bad (fun _ => false) (s.cmbWrites c) fun s o => s.startCombine c bad o)

end Sys2Proof.Machine
end

