-- ==== Sys2Proof/Machine/Complete.lean ====
section
/-! DEFINITION. OP_COMPLETE: the completion of an operation whose status is known (R48, R49, R50, R53, R337, R358), and
what it sets free. -/

namespace Sys2Proof.Machine

/-- A message of the operation has no response yet: a piece in flight (R49, R366). -/
def State.opInFlight (s : State) (c : CoreId) (ticket : BitVec 32) : Bool :=
  s.fab.reqs.any fun r => r.owner == .op c ticket

/-- An operation that failed the checks at issue and whose turn has come: first of its list, with its wait met, not behind
the step fence and its list not frozen (R45, R53). -/
def Core.badTurn (k : Core) (o : Op) : Bool :=
  let frozen := k.reg.frzCore || (if o.move then k.reg.frzMlist else k.reg.frzClist)
  o.bad && o.dep.isNone && !k.behindFence o && !frozen && ((k.head o.move).map Op.ticket) == some o.ticket

/-- The operation may complete: its status is known and no piece of it is in flight, or it failed at issue and its turn
has come. -/
def State.mayComplete (s : State) (c : CoreId) (ticket : BitVec 32) : Option (Op × Status) :=
  match s.findOp c ticket with
  | some o =>
    match o.phase with
    | .finished st => if (s.core c).drainsFor ticket || s.opInFlight c ticket then none else some (o, st)
    | .queued => if (s.core c).badTurn o then some (o, stBadDesc) else none
    | _ => none
  | none => none

/-- The handle field of a record and of a token (R49, R356). -/
def Op.handle (o : Op) : BitVec 32 :=
  match o.host with
  | some h => h
  | none => o.ticket

/-- FLAGS of the record of an operation (R358). -/
def Op.flags (o : Op) : Nat := ofBool o.host.isSome + 2 + 4 * ofBool o.waited

/-- A FUSED that failed has FAIL in every band word, then RDONE (R207). -/
def State.completeFused (s : State) (c : CoreId) (o : Op) (st : Status) : State :=
  let f := fusOf o.desc
  if dOpc o.desc = 0x43 && isFailure st && f.exch && cntOk o.desc then
    (s.each (List.range 6) fun s i =>
      s.storeN (cntAt c o.desc i) 8 (bandWord f.run true st 0)).writeRdone c o.desc
  else s

/-- The record at CREC, or the latch of a failure that can leave no record (R49). -/
def State.completeRecord (s : State) (c : CoreId) (o : Op) (st : Status) (cyc : Nat) : State :=
  let a := dCrec o.desc
  if a ≠ 0 && crecLegal c a && !s.crecOutside c o.desc then
    s.store a (recordBytes o.handle st (partByte (s.owner c)) o.flags o.result cyc)
  else if isFailure st then
    s.modReg c fun r =>
      if r.elogValid then { r with elogOvf := true }
      else { r with elogValid := true, elogStatus := st, elogTicket := o.ticket }
  else s

/-- The token keeps the status, the slot is freed, and waits on the operation are met (R47 to R49). -/
def Core.retireOp (k : Core) (o : Op) (st : Status) : Core :=
  { k with
    ops := (k.ops.filter fun x => x.ticket ≠ o.ticket).map fun x =>
      if x.dep = some o.ticket then { x with dep := none, depSt := st } else x
    tokens := match o.sig with
      | none => k.tokens
      | some t =>
        let x := k.tokens[t.toNat]
        if x.busy && x.ticket = o.handle then k.tokens.set t.toNat { x with busy := false, status := st } else k.tokens
    completed := k.completed + 1
    sts := { k.sts with stsPins := k.sts.stsPins.filter fun x => x.1 ≠ o.ticket } }

/-- Every TWAIT on the operation retires with its status (R31, R50). -/
def State.wakeTokens (s : State) (c : CoreId) (ticket : BitVec 32) (st : Status) : State :=
  s.each (List.finRange 32) fun s t =>
    let x := s.thread c t
    if x.st == .waitToken && x.tokTicket = ticket then
      (s.modThread c t fun x => { x.setReg x.tokRd (st.setWidth 64) with st := .ready }).advance c t
    else s

/-- A freed slot goes to the lowest-numbered thread that waits for one, and to the next one where its TISS does not
retire (R31, R45). -/
def State.wakeIssue (s : State) (c : CoreId) (bad : BadSectors) : State :=
  s.each (List.finRange 32) fun s t =>
    let x := s.thread c t
    if x.st == .waitIssue && (s.core c).slotFree then s.retireTiss c t x.tissRd x.tissAddr bad else s

/-- Engine cycles of an operation (R337): a free number. -/
def State.engineCycles (s : State) (c : CoreId) : Nat × State :=
  let (n, s) := s.cycles
  (n, match s.owner c with
    | none => s
    | some p => s.modPart p fun x => { x with engine := x.engine + BitVec.ofNat 64 n })

/-- What the operation held of the KV cache is released, and what waited for it goes on (R159, R166, R292). -/
def State.completeKv (s : State) (c : CoreId) (ticket : BitVec 32) : State :=
  match s.owner c with
  | none => s
  | some p =>
    if (s.core c).kvc.holds.any fun h => h.ticket = ticket then
      ((s.releaseHold p c ticket).resumeAppends p).kvWaiting
    else s

/-- The completion of an operation in the order of R49. -/
def State.complete (s : State) (c : CoreId) (o : Op) (st : Status) : State :=
  let s := s.completeFused c o st
  let (cyc, s) := s.engineCycles c
  let s := s.completeRecord c o st cyc
  let s := s.modCore c fun k => k.retireOp o st
  let s := match o.host with
    | some h => s.completeCmd h st o.flags o.result cyc
    | none => s
  ((s.completeKv c o.ticket).wakeTokens c o.ticket st).wakeIssue c []

/-- A collective that failed passes FAIL on first, and completes in this step where no answer is to come (R14, R289). -/
def execOpComplete (c : CoreId) (ticket : BitVec 32) (s : State) : Host.Outcome State Fault Refusal :=
  .next (match s.mayComplete c ticket with
    | some (o, st) =>
      if s.failDue c o st then
        let s := s.passFail c o st
        if s.opInFlight c ticket then s else s.complete c o st
      else s.complete c o st
    | none => s)

end Sys2Proof.Machine
end

