-- ==== Sys2Proof/Machine/Conv.lean ====
section
/-! DEFINITION. CONV, CONV_T, POOL and FUSED with its polls (chapter 7). -/

namespace Sys2Proof.Machine

/-- A forward convolution, plain or transposed, from its start (R188 to R195). -/
def State.runConv (s : State) (c : CoreId) (o : Op) (pos : Nat → Nat → Pos) (parts : List (List Nat × List (List Nat))) :
    State :=
  let d := o.desc
  let g := geoOf d
  if !s.convLegal c d none then s.badDesc c o
  else if g.isZero then s.finish c o.ticket stDone 0
  else
    let (tiles, dead) := convTiles pos (s.core c).width g.tw g.cout g.cin g.cinp parts
    s.startArray c o 0 0 0 tiles dead

def execConv (c : CoreId) (bad : BadSectors) (s : State) : Host.Outcome State Fault Refusal :=
  .next (s.startIf c 0x40 bad (earlyBad (leastConv 1) fun d => s.convLegal c d none) fun s o =>
    let g := geoOf o.desc
    s.runConv c o g.fwd [(List.range g.outPixels, g.tapGroups)])

def execConvT (c : CoreId) (bad : BadSectors) (s : State) : Host.Outcome State Fault Refusal :=
  .next (s.startIf c 0x41 bad (earlyBad (leastConv 1) fun d => s.convLegal c d none) fun s o =>
    let g := geoOf o.desc
    s.runConv c o g.trans (phaseParts g (List.range g.outPixels) g.transPhase))

def execPool (c : CoreId) (bad : BadSectors) (s : State) : Host.Outcome State Fault Refusal :=
  .next (s.startVec c 0x42 bad (earlyBad (leastConv 0) fun d => s.convLegal c d none) (s.poolWrites c) fun s o =>
    let d := o.desc
    let g := geoOf d
    if !s.convLegal c d none then s.badDesc c o
    else if g.isZero then s.finish c o.ticket stDone 0
    else
      let tiles := poolTiles d [List.range g.outPixels]
      s.unless c o [s.poolTrouble c bad d g.xAt tiles] fun s =>
        let r := s.vectorDrain c o.ticket (poolView d) (tiles.map fun t => (t, s.poolSums d g.xAt t))
        let e := poolEmpty d
        let st := combine (if r.widened then stEscalated else stDone) (if e = 0 then stDone else stEmptyRows)
        r.s.finish c o.ticket st (resWords [e, r.escalated, r.sat, r.pip]))

def execFused (c : CoreId) (bad : BadSectors) (s : State) : Host.Outcome State Fault Refusal :=
  .next (s.startOp c 0x43 bad fun s o => s.startFused c bad o)

/-! ### Polls of a stripe's neighbours (R205, R206) -/

/-- The FUSED that runs on a core. -/
def State.fusedRunning (s : State) (c : CoreId) : Option (Op × FusedWork) :=
  (s.core c).ops.findSome? fun o =>
    if o.phase == .running then
      match o.work with
      | .fused f _ => some (o, f)
      | _ => none
    else none

/-- The band words that a waiting pass of a stripe needs are read again (R205). -/
def State.pollBands (s : State) (c : CoreId) (bad : BadSectors) (o : Op) (f : FusedWork) : State :=
  if !f.waitBand then s
  else
    let (v, s) := s.cycles
    let s := s.modCnv c fun u => { u with cnvWait := u.cnvWait + BitVec.ofNat 64 v }
    let needs := match o.work with
      | .fused _ (some a) => match a.todo with
        | r :: _ => passNeeds o f a r
        | [] => (0, 0)
      | _ => match f.layers[f.layer]? with
        | some l => layerNeeds o f l
        | none => (0, 0)
    s.withBands c bad o f needs fun s => s

def execBandWordPoll (c : CoreId) (bad : BadSectors) (s : State) : Host.Outcome State Fault Refusal :=
  .next (match s.fusedRunning c with
    | none => s
    | some (o, f) => s.resumeOp c o.ticket fun o => s.pollBands c bad o f)

/-- The core completes once each neighbour that reads from it shows RDONE equal to RUN (R206). -/
def State.pollRdone (s : State) (c : CoreId) (o : Op) (f : FusedWork) : State :=
  let d := o.desc
  if f.waitRdone && (fusReaders d).all fun k => s.rdN (cntAt k d 6) 8 / 2 ^ 48 = (fusOf d).run then
    let st := combine (if f.widened then stEscalated else stDone) (if f.empty then stEmptyRows else stDone)
    (s.modCnv c fun u => { u with xActive := false }).finish c o.ticket st (resWords f.res)
  else s

def execRdonePoll (c : CoreId) (s : State) : Host.Outcome State Fault Refusal :=
  .next (match s.fusedRunning c with
    | none => s
    | some (o, f) => s.resumeOp c o.ticket fun o => s.pollRdone c o f)

end Sys2Proof.Machine
end

