-- ==== Sys2Proof/Machine/Objects.lean ====
section
/-! DEFINITION. Tensor objects (R247 to R254), the slow tier beneath them (R242 to R246), and prefetch schedules (R255,
R256). -/

namespace Sys2Proof.Machine

/-! ### Records (R247) -/

def obFree : Nat := 0
def obSlow : Nat := 1
def obFar : Nat := 2
def obNear : Nat := 3
def obUp : Nat := 4
def obDown : Nat := 5
def obPoisoned : Nat := 6

structure ObjRec where
  id : Nat
  st : Nat
  dest : Nat
  holder : Nat
  owner : Nat
  extents : Nat
  share : Nat
  near : Nat
  far : Nat
  dirty : Nat
  pins : List Nat
  deriving DecidableEq, Repr

def State.obj (s : State) (slot : Nat) : ObjRec :=
  let a := s.objRec slot
  let b6 := s.rdN (a + 6) 1
  let b7 := s.rdN (a + 7) 1
  { id := s.rdN a 6, st := b6 % 8, dest := b6 / 16 % 4, holder := b7 % 16, owner := b7 / 16, extents := s.rdN (a + 8) 4,
    share := s.rdN (a + 12) 2, near := s.rdN (a + 16) 8, far := s.rdN (a + 24) 8, dirty := s.rdN (a + 32) 4,
    pins := (List.range 16).map fun p => s.rdN (a + 40 + 2 * p) 2 }

def ObjRec.bytes (r : ObjRec) : List Byte :=
  leBytes 6 r.id ++ leBytes 1 (r.st + 16 * r.dest) ++ leBytes 1 (r.holder + 16 * r.owner) ++ leBytes 4 r.extents ++
  leBytes 2 r.share ++ [0, 0] ++ leBytes 8 r.near ++ leBytes 8 r.far ++ leBytes 4 r.dirty ++ leBytes 4 0 ++
  r.pins.flatMap (leBytes 2)

def State.putObj (s : State) (slot : Nat) (r : ObjRec) : State := s.write (s.objRec slot) r.bytes

def State.modObj (s : State) (slot : Nat) (f : ObjRec → ObjRec) : State := s.putObj slot (f (s.obj slot))

def State.slots (s : State) : List Nat := List.range s.tier.objCount.toNat

/-- The record of an object that is not FREE. -/
def State.findObj (s : State) (id : Nat) : Option Nat :=
  s.slots.find? fun i => (s.obj i).st ≠ obFree && (s.obj i).id = id

def State.freeSlot (s : State) : Option Nat := s.slots.find? fun i => (s.obj i).st = obFree

/-- The resident copy's tier and address. -/
def ObjRec.copy (r : ObjRec) : Option (Nat × Nat) :=
  if r.near ≠ noAddr then some (3, r.near) else if r.far ≠ noAddr then some (2, r.far) else none

def ObjRec.addr (r : ObjRec) : Nat := (r.copy.map Prod.snd).getD noAddr

def ObjRec.pin (r : ObjRec) (p : Nat) : Nat := r.pins.getD p 0

def ObjRec.pinned (r : ObjRec) : Bool := r.pins.any (· ≠ 0)

/-! ### Charges (R248) -/

/-- What partition p is charged for one resident copy. -/
def ObjRec.chargeOf (r : ObjRec) (p : Nat) : Nat :=
  let k := r.pins.countP (· ≠ 0)
  if k = 0 then (if r.holder = p then r.extents else 0) else if r.pin p ≠ 0 then (r.extents + k - 1) / k else 0

/-- Copies of an object in a tier: resident, and the destination of a move up or down. -/
def State.copiesIn (s : State) (slot tier : Nat) : Nat :=
  let r := s.obj slot
  let here := match r.copy with
    | some (t, _) => ofBool (t = tier)
    | none => 0
  here + s.tier.moves.countP fun m => m.slot = slot && m.dest.toNat = tier && !m.create

def State.chargeIn (s : State) (p tier : Nat) : Nat :=
  (s.slots.map fun i => s.copiesIn i tier * (s.obj i).chargeOf p).sum

/-- TIER_CHARGE of every partition, recomputed. -/
def State.recharge (s : State) : State :=
  s.each (List.finRange 16) fun s p => s.modPart p fun x =>
    { x with nearCharge := BitVec.ofNat 32 (s.chargeIn p.val 3), farCharge := BitVec.ofNat 32 (s.chargeIn p.val 2) }

def State.budgetOf (s : State) (p : PartId) (tier : Nat) : Nat :=
  if tier = 3 then (s.part p).cfg.nearBudget.toNat else (s.part p).cfg.farBudget.toNat

/-! ### Placements (R252) -/

/-- Ranges that resident copies and destinations of moves take, other than those of the object in `slot`. -/
def State.takenByOthers (s : State) (slot : Option Nat) : List (Nat × Nat) :=
  (s.slots.filterMap fun i => if some i = slot then none else s.objCopy i) ++
  (s.tier.moves.filterMap fun m =>
    if some m.slot = slot || m.dest = 1 then none else some (m.dstAddr.toNat, m.extents * 65536))

/-- A placement of n bytes in a tier for the partitions of `share`. -/
def State.placeOk (s : State) (slot : Option Nat) (tier a n share : Nat) : Bool :=
  a % 65536 = 0 &&
  (if tier = 3 then decide (a + n ≤ s.nearTop) else decide (farBase ≤ a) && decide (a + n ≤ farBase + 0x40000000000)) &&
  (List.finRange 16).all (fun p => share / 2 ^ p.val % 2 = 0 || (firstOutside (s.windows p false) a n).isNone) &&
  !((s.takenByOthers slot).any fun x => overlap a n x.1 x.2)

/-! ### The slow tier (R242 to R246) -/

/-- The slow tier can be written. -/
def State.slowWritable (s : State) : Bool := !s.tier.slowRo && !s.tier.slowLost && !s.pwr.shutting

/-- Requests to the slow tier wait while a pair's duties pass to the other: an object's stripes lie on both dies' channels
(R242, R380). -/
def State.slowWaits (s : State) : Bool := s.rep.takeover.isSome

/-- A NAND channel waits while the duties of its own die's pair pass to the other (R17, R380). -/
def State.slowWaitsAt (s : State) (ch : Fin 8) : Bool :=
  match s.rep.takeover with
  | some p => p.val = ch.val / 4
  | none => false

def State.slowObj (s : State) (id : Nat) : Option SlowObj := s.tier.slowObjs.find? fun o => o.id.toNat = id

def insertObj (x : SlowObj) : List SlowObj → List SlowObj
  | [] => [x]
  | y :: r => if x.id.toNat < y.id.toNat then x :: y :: r else y :: insertObj x r

/-- The translation layer's entry of an object replaced, in ascending ID (R441). -/
def State.setSlowObj (s : State) (x : SlowObj) : State :=
  s.modTier fun t => { t with slowObjs := insertObj x (t.slowObjs.filter fun y => y.id ≠ x.id) }

def State.modSlow (s : State) (c : Fin 8) (f : SlowChan → SlowChan) : State :=
  s.modTier fun t => { t with slow := vmod t.slow c f }

/-- Die d of the channel is in service. -/
def State.dieUp (s : State) (c : Fin 8) (d : Fin 16) : Bool := (vget s.tier.slow c).dies.getLsbD d.val

/-! ### Stripes and blocks (R242 to R244; notes/assumptions/47.md) -/

def State.blockAt (s : State) (c : Fin 8) (d : Fin 16) (n : Nat) : FlashBlock :=
  ((vget s.tier.slow c).blocks.find? fun b => b.die = d && b.num = n).getD
    { die := d, num := n, erases := none, reads := 0, scrub := false, retired := false }

def State.modFlash (s : State) (c : Fin 8) (d : Fin 16) (n : Nat) (f : FlashBlock → FlashBlock) : State :=
  let b := s.blockAt c d n
  s.modSlow c fun x => { x with blocks := (x.blocks.filter fun b => !(b.die = d && b.num = n)) ++ [f b] }

/-- Channels on which a stripe of die d can have a page: the die is in service there, and the block is not retired. A
parity group that lost a die writes its stripes with one page less (R246). -/
def State.stripeChans (s : State) (d : Fin 16) (num : Nat) : List (Fin 8) :=
  (List.finRange 8).filter fun c => s.dieUp c d && !(s.blockAt c d (Config.flashBlock num)).retired

/-- The parity page's channel: the stripe number mod 8, or the next that can have a page (R242). -/
def parityChan (num : Nat) (chs : List (Fin 8)) : Option (Fin 8) :=
  (List.range 8).findSome? fun i => chs.find? fun c => c.val = (num + i) % 8

/-- The channel of the next data page of a stripe. -/
def State.stripeRoom (s : State) (st : Stripe) : Option (Fin 8) :=
  (s.stripeChans st.die st.num).find? fun c => !(st.pages.any fun p => p.ch = c)

/-- A new stripe with its parity page; the translation layer is free to choose the die. -/
def State.newStripe (s : State) : State :=
  let (v, s) := s.fresh
  let n := s.tier.stripeNext
  let dies := (List.finRange 16).filter fun d => 2 ≤ (s.stripeChans d n).length
  match dies[v.toNat % dies.length]? with
  | none => s
  | some d =>
    let pages := match parityChan n (s.stripeChans d n) with
      | some c => [{ ch := c, die := d, use := .parity }]
      | none => []
    s.modTier fun t => { t with stripes := t.stripes ++ [{ num := n, die := d, pages := pages }], stripeNext := n + 1 }

/-- The stripe that is being filled. -/
def State.openStripe (s : State) : Option Stripe := s.tier.stripes.find? fun st => st.num + 1 = s.tier.stripeNext

/-- A page is written to the open stripe; none where that is full or there is none. -/
def State.addPage (s : State) (id : BitVec 48) (page : Nat) : Option State :=
  match s.openStripe with
  | none => none
  | some st =>
    match s.stripeRoom st with
    | none => none
    | some c => some (s.modTier fun t =>
        { t with stripes := t.stripes.map fun x =>
            if x.num = st.num then { x with pages := x.pages ++ [{ ch := c, die := x.die, use := .data id page }] } else x })

/-- A page is written to the open stripe, or to a new one where that is full. -/
def State.placePage (s : State) (id : BitVec 48) (page : Nat) : State :=
  match s.addPage id page with
  | some u => u
  | none =>
    match s.newStripe.addPage id page with
    | some u => u
    | none => s.newStripe

def PageUse.isData : PageUse → Bool
  | .data _ _ => true
  | _ => false

/-- Pages that satisfy p hold old contents; a stripe with nothing else is free. -/
def State.dropPages (s : State) (p : BitVec 48 → Nat → Bool) : State :=
  s.modTier fun t =>
    { t with stripes := (t.stripes.map fun st => { st with pages := st.pages.map fun (x : FlashPage) =>
               match x.use with
               | .data id n => if p id n then { x with use := .stale } else x
               | _ => x }).filter fun st => st.num + 1 = t.stripeNext || st.pages.any fun x => x.use.isData }

/-- A page is rewritten elsewhere. -/
def State.movePage (s : State) (id : BitVec 48) (page : Nat) : State :=
  (s.dropPages fun i n => i = id && n = page).placePage id page

/-- Every page of a stripe is rewritten elsewhere, and the stripe is free. -/
def State.moveStripe (s : State) (num : Nat) : State :=
  match s.tier.stripes.find? fun st => st.num = num with
  | none => s
  | some st =>
    let s := s.modTier fun t => { t with stripes := t.stripes.filter fun x => x.num ≠ num }
    s.each st.pages fun s x => match x.use with
      | .data id n => s.placePage id n
      | _ => s

/-- The four pages of an extent are written to fresh places (R243). -/
def State.placeExtent (s : State) (id : BitVec 48) (e : Nat) : State :=
  s.each [4 * e, 4 * e + 1, 4 * e + 2, 4 * e + 3] fun s n => s.movePage id n

/-- The page that a stripe has on a channel. -/
def State.flashPage (s : State) (num : Nat) (c : Fin 8) : Option FlashPage :=
  (s.tier.stripes.find? fun st => st.num = num).bind fun st => st.pages.find? fun x => x.ch = c

/-- What a page read is of: page n of an object. -/
def State.readOf (s : State) (r : PageRead) : Option (BitVec 48 × Nat) :=
  match s.flashPage r.stripe r.ch with
  | some x => (match x.use with
    | .data id n => some (id, n)
    | _ => none)
  | none => none

/-- Reads of the pages that satisfy p count in their blocks (R244). -/
def State.countReads (s : State) (p : PageUse → Bool) : State :=
  s.each (s.tier.stripes.flatMap fun st => st.pages.map fun x => (st.num, x)) fun s x =>
    if p x.2.use then s.modFlash x.2.ch x.2.die (Config.flashBlock x.1) fun b => { b with reads := b.reads + 1 } else s

def State.countExtentReads (s : State) (id : BitVec 48) (es : List Nat) : State :=
  s.countReads fun u => match u with
    | .data i n => i = id && es.contains (n / 4)
    | _ => false

/-- A block is erased. A count that the channel's lowest and highest alone bound is a free one between them, and whether the
lowest rises is free. -/
def State.eraseBlock (s : State) (c : Fin 8) (d : Fin 16) (n : Nat) : State :=
  let (v, s) := s.fresh
  let (w, s) := s.fresh
  let x := vget s.tier.slow c
  let lo := x.wearMin.toNat
  let hi := x.wearMax.toNat
  let old := (s.blockAt c d n).erases.getD (lo + v.toNat % (hi - lo + 1))
  let s := s.modFlash c d n fun b => { b with erases := some (old + 1), reads := 0, scrub := false }
  s.modSlow c fun x =>
    { x with wearMax := BitVec.ofNat 16 (min 65535 (max hi (old + 1))),
             wearMin := if old = lo && w.getLsbD 0 && lo < hi then x.wearMin + 1 else x.wearMin }

/-- The valid pages of a block are rewritten elsewhere, with their stripes, and it is erased. -/
def State.scrubBlock (s : State) (c : Fin 8) (d : Fin 16) (n : Nat) : State :=
  let hit := s.tier.stripes.filter fun st =>
    Config.flashBlock st.num = n && st.pages.any fun x => x.ch = c && x.die = d
  (s.each hit fun s st => s.moveStripe st.num).eraseBlock c d n

/-! ### The objects' contents (R243) -/

def State.dropSlowObj (s : State) (id : Nat) : State :=
  (s.dropPages fun i _ => i.toNat = id).modTier fun t => { t with slowObjs := t.slowObjs.filter fun y => y.id.toNat ≠ id }

/-- Extent e of an object written to flash (R243). -/
def State.writeExtent (s : State) (id e : Nat) (bs : List Byte) : State :=
  match s.slowObj id with
  | none => s
  | some o => (s.placeExtent o.id e).setSlowObj
      { o with written := if o.written.contains e then o.written else o.written ++ [e],
               data := memPuts o.data (e * 65536) bs }

/-- Extent e as flash holds it. -/
def State.readExtent (s : State) (id e : Nat) : List Byte :=
  match s.slowObj id with
  | none => []
  | some o => (List.range 65536).map fun i => memGet o.data (e * 65536 + i)

/-! ### Failures of pages and dies (R245, R246) -/

/-- Dies retired so far. -/
def State.diesRetired (s : State) : Nat :=
  (s.tier.slow.toList.map fun x => 16 - (List.range 16).countP fun d => x.dies.getLsbD d).sum

/-- A die of a channel is retired: its pages are rebuilt onto another die of the channel. With the ninth the slow tier
becomes read-only (R246). -/
def State.retireDie (s : State) (c : Fin 8) (d : Fin 16) (cls : Nat) : State :=
  if !s.dieUp c d then s
  else if 8 ≤ s.diesRetired then (s.modTier fun t => { t with slowRo := true }).latchFault
  else
    let s := s.modSlow c fun x => { x with dies := x.dies &&& ~~~((1 : BitVec 16) <<< d.val) }
    let new := ((List.finRange 16).find? fun e => s.dieUp c e).getD d
    let s := s.modTier fun t =>
      { t with stripes := t.stripes.map fun st => { st with pages := st.pages.map fun (x : FlashPage) =>
                 if x.ch = c && x.die = d then { x with die := new } else x } }
    (s.tierEvent 4 (c.val * 16 + d.val) 0).noteRetired 0xFF cls (c.val * 16 + d.val) (c.val * 16 + d.val)

/-- Failures of programs and erases, each judged against the threshold of class 4 (R246, R303). -/
def State.dieFails (s : State) (fs : DieFails) : State :=
  s.each fs fun s x =>
    if !s.dieUp x.1 x.2 then s
    else
      let s := s.modSlow x.1 fun y => { y with progEvents := vmod y.progEvents x.2 (· + 1) }
      let (y, s) := s.crosses 4 (vget (vget s.tier.slow x.1).progEvents x.2)
      if y then s.retireDie x.1 x.2 4 else s

/-- A page is read elsewhere from now on: with its stripe, where it is the parity page. -/
def State.rewritePage (s : State) (r : PageRead) : State :=
  match s.flashPage r.stripe r.ch with
  | none => s
  | some x => match x.use with
    | .data id n => s.movePage id n
    | .parity => s.moveStripe r.stripe
    | .stale => s

/-- The block of a page is retired, once, and the ledger's map of retired blocks follows (R392). -/
def State.retireBlock (s : State) (c : Fin 8) (d : Fin 16) (n : Nat) : State :=
  if (s.blockAt c d n).retired then s
  else
    ((s.modFlash c d n fun b => { b with retired := true }).modSlow c fun x => { x with retired := x.retired + 1 }).ledger 9

/-- How a page read came out (R245): it is counted in SLOW_ERR; read-retry schedules the block's scrub; a rebuild retires
the block, rewrites the page and is an event of the die's class 5; a loss retires the block. -/
def State.pageRead (s : State) (r : PageRead) : State :=
  match s.flashPage r.stripe r.ch with
  | none => s
  | some x =>
    let n := Config.flashBlock r.stripe
    match r.out with
    | .clean => s
    | .retried =>
      (s.modFlash r.ch x.die n fun b => { b with scrub := true }).modSlow r.ch fun y => { y with retries := y.retries + 1 }
    | .rebuilt =>
      let s := (s.retireBlock r.ch x.die n).modSlow r.ch fun y =>
        { y with rebuilds := y.rebuilds + 1, parityEvents := vmod y.parityEvents x.die (· + 1) }
      let (y, s) := s.crosses 5 (vget (vget s.tier.slow r.ch).parityEvents x.die)
      let s := s.rewritePage r
      if y then s.retireDie r.ch x.die 5 else s
    | .lost => (s.retireBlock r.ch x.die n).modSlow r.ch fun y => { y with lost := y.lost + 1 }

def State.pagesRead (s : State) (rs : List PageRead) : State := s.each rs fun s r => s.pageRead r

/-- The reads that are of extents `es` of an object. -/
def State.readsOf (s : State) (rs : List PageRead) (id : BitVec 48) (es : List Nat) : List PageRead :=
  rs.filter fun r => match s.readOf r with
    | some (i, n) => i = id && es.contains (n / 4)
    | none => false

def anyLost (rs : List PageRead) : Bool := rs.any fun r => r.out == .lost

/-- Extents of an object are read from flash: their reads count, and their outcomes have their effects. -/
def State.readSlow (s : State) (rs : List PageRead) (id : BitVec 48) (es : List Nat) : State :=
  if es.isEmpty then s else (s.countExtentReads id es).pagesRead (s.readsOf rs id es)

/-! ### Dirty extents (R249) -/

def State.dirtyMap (s : State) (slot : Nat) : Nat := s.tier.dirtyBase.toNat + 2048 * slot

def State.isDirty (s : State) (slot e : Nat) : Bool := (s.rdB (s.dirtyMap slot + e / 8)).toNat / 2 ^ (e % 8) % 2 = 1

def State.dirtyList (s : State) (slot : Nat) : List Nat :=
  (List.range (s.obj slot).extents).filter fun e => s.isDirty slot e

/-- The extents `es`, and no others, are dirty. -/
def State.setDirtyTo (s : State) (slot : Nat) (es : List Nat) : State :=
  let n := (s.obj slot).extents
  let s := s.wipe (s.dirtyMap slot) 2048
  let s := if es.isEmpty then s else s.write (s.dirtyMap slot) (leBytes ((n + 7) / 8) (es.map (2 ^ ·)).sum)
  s.modObj slot fun r => { r with dirty := es.length }

/-- All extents clean, or all dirty. -/
def State.setAllDirty (s : State) (slot : Nat) (v : Bool) : State :=
  s.setDirtyTo slot (if v then List.range (s.obj slot).extents else [])

/-- Whether extent e of the resident copy can be read (R229). -/
def State.copyReadable (s : State) (bad : BadSectors) (a e : Nat) : Bool := s.readable bad (a + e * 65536) 65536

/-- Extents of the copy at a are written to the slow tier (R243). -/
def State.writeExtents (s : State) (id a : Nat) (es : List Nat) : State :=
  s.each es fun s e => s.writeExtent id e (s.rd (a + e * 65536) 65536)

/-- Dirty extents written to the slow tier, their bits cleared; none where one cannot be read (R229, R249). -/
def State.writeBack (s : State) (slot : Nat) (bad : BadSectors) : Option State :=
  let r := s.obj slot
  let es := s.dirtyList slot
  if es.any fun e => !s.copyReadable bad r.addr e then none
  else some ((s.writeExtents r.id r.addr es).setAllDirty slot false)

/-! ### Replies -/

/-- Result words of an object operation (R251). -/
def objResult (slot w a : Nat) : BitVec 128 := result3 slot w a

/-- A request is answered: the operation finishes, or its prefetch entry does (R256). A request of an operation that no
longer runs has no answer. -/
def State.objReply (s : State) (w : Waiter) (st : Status) (result : BitVec 128) : State :=
  match s.running w.core w.ticket with
  | none => s
  | some _ =>
    let st := if w.late && st = stDone then stDeferred else st
    match w.entry with
    | none => s.finish w.core w.ticket st result
    | some i => s.modOp w.core w.ticket fun o =>
      match o.work with
      | .prefetch p => { o with work := .prefetch { p with done := p.done ++ [(i, st)] } }
      | _ => o

/-- Answer with the record's slot and copy. -/
def State.objDone (s : State) (w : Waiter) (slot : Nat) (st : Status) (w1 : Nat) : State :=
  s.objReply w st (objResult slot w1 (s.obj slot).addr)

def State.objFail (s : State) (w : Waiter) (st : Status) : State := s.objReply w st 0

def State.findMove (s : State) (slot : Nat) : Option ObjMove := s.tier.moves.find? fun m => m.slot = slot

def State.dropMove (s : State) (slot : Nat) : State :=
  s.modTier fun t => { t with moves := t.moves.filter fun m => m.slot ≠ slot }

def State.addWaiter (s : State) (slot : Nat) (w : Waiter) (joined : Bool) : State :=
  s.modTier fun t =>
    { t with moves := t.moves.map fun m =>
        if m.slot = slot then { m with waiters := m.waiters ++ [{ w with joined := joined, late := w.late || !joined }] }
        else m }

/-- An object becomes POISONED: its copies are freed, and the host is told (R254). -/
def State.poisonObj (s : State) (slot : Nat) : State :=
  let s := s.setAllDirty slot false
  let s := s.modObj slot fun r => { r with st := obPoisoned, dest := 0, near := noAddr, far := noAddr }
  let s := (s.dropMove slot).recharge
  let r := s.obj slot
  let s := s.tierEvent 1 0 r.id
  s.each ((List.range 16).filter fun p => r.share / 2 ^ p % 2 = 1) fun s p =>
    s.notify { code := nPoisoned, part := BitVec.ofNat 8 p, unit := 0, id := BitVec.ofNat 64 r.id, detail := 0 }

/-! ### Requests (R252, R253) -/

/-- One pin added or removed. -/
def State.addPin (s : State) (slot : Nat) (p : PartId) (n : Int) : State :=
  (s.modObj slot fun r => { r with pins := r.pins.set p.val (Int.toNat ((r.pin p.val : Nat) + n) % 65536) }).recharge

def State.startObjMove (s : State) (slot : Nat) (up : Bool) (src dest : Nat) (srcAddr dstAddr : Nat) (create : Bool)
    (wrote : List Nat) (w : Waiter) : State :=
  let r := s.obj slot
  let m : ObjMove :=
    { id := BitVec.ofNat 48 r.id, slot := slot, up := up, src := BitVec.ofNat 3 src, dest := BitVec.ofNat 2 dest,
      srcAddr := BitVec.ofNat 64 srcAddr, dstAddr := BitVec.ofNat 64 dstAddr, create := create, extents := r.extents,
      wrote := wrote, waiters := [{ w with joined := true }] }
  let s := s.modObj slot fun r => { r with st := if up then obUp else obDown, dest := dest }
  (s.modTier fun t => { t with moves := t.moves ++ [m] }).recharge

/-- CREATE of a FREE or POISONED object. -/
def State.objCreate (s : State) (p : PartId) (id : Nat) (w : Waiter) : State :=
  let tier := w.tier.toNat
  let share := w.share.toNat ||| 2 ^ p.val
  let n := w.extents * 65536
  let a := w.addr.toNat
  let old := s.findObj id
  let freed := match old with
    | some i => (s.obj i).extents
    | none => 0
  match (match old with | some i => some i | none => s.freeSlot) with
  | none => s.objFail w stAdmitRefused
  | some slot =>
    let fits := w.extents ≤ s.tier.slowFree.toNat + freed &&
      (tier = 1 || s.chargeIn p.val tier + w.extents ≤ s.budgetOf p tier)
    if tier ≠ 1 && !s.placeOk (some slot) tier a n share then s.objFail w stBadDesc
    else if s.tier.slowLost || (tier = 1 && !s.slowWritable) then s.objFail w stRetired
    else if !fits then s.objFail w stAdmitRefused
    else
      let s := s.modTier fun t => { t with slowFree := t.slowFree + BitVec.ofNat 32 freed - BitVec.ofNat 32 w.extents }
      let s := s.setSlowObj { id := BitVec.ofNat 48 id, owner := p, share := BitVec.ofNat 16 share, extents := w.extents,
                              written := [], data := [] }
      let pins := match old with
        | some i => (s.obj i).pins
        | none => List.replicate 16 0
      let s := s.putObj slot
        { id := id, st := if tier = 3 then obNear else if tier = 2 then obFar else obDown, dest := 0, holder := p.val,
          owner := p.val, extents := w.extents, share := share, near := if tier = 3 then a else noAddr,
          far := if tier = 2 then a else noAddr, dirty := 0, pins := pins }
      if tier = 1 then s.startObjMove slot false 0 1 a noAddr true [] w
      else
        let s := (s.setAllDirty slot true).recharge
        s.objDone w slot stDone 0

/-- PROMOTE of an object that is SLOW_ONLY, FAR or NEAR. -/
def State.objPromote (s : State) (p : PartId) (slot : Nat) (w : Waiter) : State :=
  let r := s.obj slot
  let tier := w.tier.toNat
  let cur := match r.copy with
    | some (t, _) => t
    | none => 1
  if tier ≤ cur then
    let s := if w.pin then s.addPin slot p 1 else s
    s.objDone w slot stDone 0
  else
    let pins := if w.pin then r.pins.set p.val (r.pin p.val + 1) else r.pins
    let add := { r with pins := pins, holder := p.val }.chargeOf p.val
    if cur = 1 && s.tier.slowLost then s.objFail w stRetired
    else if s.budgetOf p tier < s.chargeIn p.val tier + add then s.objFail w stAdmitRefused
    else
      let s := s.modObj slot fun r => { r with holder := p.val, pins := pins }
      s.startObjMove slot true cur tier r.addr w.addr.toNat false [] w

/-- EVICT of an object in NEAR or FAR without pins: its dirty extents are written back, and the move goes on. An extent that
cannot be read stays dirty, and the end of the move reads it again. -/
def State.objEvict (s : State) (slot : Nat) (bad : BadSectors) (w : Waiter) : State :=
  let r := s.obj slot
  if r.pinned then (s.recharge).objDone w slot stNotEvicted 0
  else match r.copy with
    | none => s.objDone w slot stDone 0
    | some (t, a) =>
      let es := s.dirtyList slot
      if !es.isEmpty && !s.slowWritable then s.objFail w stRetired
      else
        let sent := es.filter fun e => s.copyReadable bad a e
        let s := (s.writeExtents r.id a sent).setDirtyTo slot (es.filter fun e => !sent.contains e)
        s.startObjMove slot false t w.tier.toNat a w.addr.toNat false sent w

/-- A record becomes FREE, and its copies and slow extents with it. -/
def State.freeRecord (s : State) (slot : Nat) : State :=
  let r := s.obj slot
  let s := s.modTier fun t => { t with slowFree := t.slowFree + BitVec.ofNat 32 r.extents }
  (((s.dropSlowObj r.id).wipe (s.dirtyMap slot) 2048).wipe (s.objRec slot) 128).recharge

/-- DELETE: the record is FREE. -/
def State.objDelete (s : State) (p : PartId) (slot : Nat) (w : Waiter) : State :=
  let r := s.obj slot
  if (r.pins.zipIdx).any fun x => x.1 ≠ 0 && x.2 ≠ p.val then s.objDone w slot stNotEvicted 0
  else (s.freeRecord slot).objReply w stDone (objResult slot 0 noAddr)

/-- PIN of an object that is not POISONED. -/
def State.objPin (s : State) (p : PartId) (slot : Nat) (w : Waiter) : State :=
  let n := (s.obj slot).pin p.val
  if (!w.pin && n = 0) || (w.pin && n = 65535) then s.objFail w stBadDesc
  else
    let s := s.addPin slot p (if w.pin then 1 else -1)
    s.objDone w slot stDone ((s.obj slot).pin p.val)

def State.objWriteback (s : State) (slot : Nat) (bad : BadSectors) (w : Waiter) : State :=
  let r := s.obj slot
  if r.copy.isNone then s.objDone w slot stDone 0
  else if !(s.dirtyList slot).isEmpty && !s.slowWritable then s.objFail w stRetired
  else match s.writeBack slot bad with
    | some s => s.objDone w slot stDone 0
    | none => (s.poisonObj slot).objDone w slot stWeightLost 0

/-- A move down is abandoned: the state is that of its source, and every EVICT that waited on it is not done. -/
def State.abandonMove (s : State) (slot : Nat) (m : ObjMove) : State :=
  let s := s.modObj slot fun r => { r with st := if m.src = 3 then obNear else obFar, dest := 0 }
  let s := (s.dropMove slot).recharge
  s.each m.waiters fun s w => if w.joined then s.objDone w slot stNotEvicted 0 else s

/-- One request in the state the object has now (R253), with the requests that waited for a move it abandoned. -/
def State.objStep (s : State) (bad : BadSectors) (id : Nat) (w : Waiter) : State × List Waiter :=
  match s.owner w.core with
  | none => (s.objFail w stBadDesc, [])
  | some p =>
    let k := w.kind.toNat
    match s.findObj id with
    | none => (if k = 0x60 then s.objCreate p id w else s.objFail w stBadDesc, [])
    | some slot =>
      let r := s.obj slot
      let n := r.extents * 65536
      let mine := r.share / 2 ^ p.val % 2 = 1
      let placed := k = 0x61 || (k = 0x62 && w.tier = 2)
      if !mine then (s.objFail w stBadDesc, [])
      else if k = 0x60 then (if r.st = obPoisoned then s.objCreate p id w else s.objFail w stBadDesc, [])
      else if placed && !s.placeOk (some slot) w.tier.toNat w.addr.toNat n r.share then (s.objFail w stBadDesc, [])
      else if k = 0x65 && ((r.pins.zipIdx).any fun x => x.1 ≠ 0 && x.2 ≠ p.val) then (s.objDone w slot stNotEvicted 0, [])
      else if k = 0x63 && !w.pin && r.pin p.val = 0 then (s.objFail w stBadDesc, [])
      else if r.st = obPoisoned then
        (if k = 0x65 then s.objDelete p slot w else s.objDone w slot stWeightLost 0, [])
      else match s.findMove slot with
        | none =>
          (if k = 0x61 then s.objPromote p slot w
           else if k = 0x62 then s.objEvict slot bad w
           else if k = 0x63 then s.objPin p slot w
           else if k = 0x64 then s.objWriteback slot bad w
           else s.objDelete p slot w, [])
        | some m =>
          if k = 0x63 && (m.up || m.create || !w.pin) then (s.objPin p slot w, [])
          else if m.up then
            if k = 0x61 && w.tier = m.dest then
              let s := if w.pin then s.addPin slot p 1 else s
              (s.addWaiter slot w true, [])
            else (s.addWaiter slot w false, [])
          else if (k = 0x61 || k = 0x63) && !m.create then
            let later := m.waiters.filter fun x => !x.joined
            let s := s.abandonMove slot m
            let s := if k = 0x63 || w.pin then s.addPin slot p 1 else s
            (s.objDone w slot stDone (if k = 0x63 then (s.obj slot).pin p.val else 0), later)
          else if k = 0x62 && w.tier = m.dest then (s.addWaiter slot w true, [])
          else (s.addWaiter slot w false, [])

/-- The first sector of the object table that cannot be read (R229). -/
def State.tableLost (s : State) (bad : BadSectors) : Option Nat :=
  s.uncorrectable bad s.tier.objBase.toNat (128 * s.tier.objCount.toNat)

/-- One request; where it abandons a move down, every EVICT that waited for that move is not done, and the other requests
are handled in the state the object has again (R253). Where the table cannot be read, the request is not handled (R229). -/
def State.objAct (s : State) (bad : BadSectors) (id : Nat) (w : Waiter) : State :=
  match s.tableLost bad with
  | some x => (s.noteUncorrectable x).objFail w stRetired
  | none =>
    let (s, later) := s.objStep bad id w
    s.each later fun s x =>
      if x.kind = 0x62 then
        match s.findObj id with
        | some slot => s.objDone x slot stNotEvicted 0
        | none => s.objFail x stBadDesc
      else (s.objStep [] id x).1

/-- The end of a move: requests that joined it complete, and the others are handled in turn. -/
def State.endMove (s : State) (m : ObjMove) (st : Status) (lostWords : Nat) : State :=
  let s := (s.dropMove m.slot).recharge
  let s := s.each m.waiters fun s w =>
    if w.joined then s.objDone w m.slot st (if w.kind = 0x62 then lostWords else 0) else s
  s.each m.waiters fun s w =>
    if w.joined then s else if isFailure st then s.objDone w m.slot st 0 else s.objAct [] m.id.toNat w

/-! ### The events of moves -/

def State.moveOf (s : State) (id : BitVec 48) (up : Bool) : Option ObjMove := s.tier.moves.find? fun m => m.id = id && m.up == up

/-- Extents that a move reads from the slow tier: those that are clean and cannot be read at the source copy (R229), and all
of them where the source is the slow tier. -/
def State.rereads (s : State) (m : ObjMove) (bad : BadSectors) : List Nat :=
  (List.range m.extents).filter fun e =>
    m.src = 1 || (!s.copyReadable bad m.srcAddr.toNat e && !s.isDirty m.slot e)

/-- The bytes of extent e that a move up brings; none where a dirty extent cannot be read. -/
def State.upExtent (s : State) (m : ObjMove) (bad : BadSectors) (e : Nat) : Option (List Byte) :=
  if (s.rereads m bad).contains e then some (s.readExtent m.id.toNat e)
  else if s.copyReadable bad m.srcAddr.toNat e then some (s.rd (m.srcAddr.toNat + e * 65536) 65536) else none

/-- The copy of a move is whole: the object is in its new tier. -/
def State.movedTo (s : State) (m : ObjMove) (bytes : List (List Byte)) : State :=
  let s := s.modObj m.slot fun r => { r with st := obSlow, dest := 0, near := noAddr, far := noAddr }
  let s := s.each bytes.zipIdx fun s x => s.store (m.dstAddr.toNat + x.2 * 65536) x.1
  s.modObj m.slot fun r =>
    { r with st := m.dest.toNat, near := if m.dest = 3 then m.dstAddr.toNat else noAddr,
             far := if m.dest = 2 then m.dstAddr.toNat else noAddr }

def execMoveUpDone (id : BitVec 48) (pages : List PageRead) (bad : BadSectors) (s : State) :
    Host.Outcome State Fault Refusal :=
  .next (match s.moveOf id true with
    | none => s
    | some m =>
      let again := s.rereads m bad
      if !again.isEmpty && s.slowWaits then s
      else
        let es := List.range m.extents
        let lost := anyLost (s.readsOf pages m.id again) || es.any fun e => (s.upExtent m bad e).isNone
        let bytes := es.map fun e => (s.upExtent m bad e).getD []
        let s := s.readSlow pages m.id again
        if lost then (s.poisonObj m.slot).endMove m stWeightLost 0 else (s.movedTo m bytes).endMove m stDone 0)

/-- What a move down carries to its destination: an extent written back and dirtied again leaves the far copy with the
bytes that were written back (R251), and so does a clean one that cannot be read (R229). -/
def State.downExtent (s : State) (m : ObjMove) (bad : BadSectors) (e : Nat) : List Byte :=
  if (s.isDirty m.slot e && m.wrote.contains e) || (s.rereads m bad).contains e then s.readExtent m.id.toNat e
  else s.rd (m.srcAddr.toNat + e * 65536) 65536

/-- A CREATE to the slow tier has read its range. -/
def State.createdSlow (s : State) (m : ObjMove) (fails : DieFails) : State :=
  let s := (s.writeExtents m.id.toNat m.srcAddr.toNat (List.range m.extents)).dieFails fails
  (s.modObj m.slot fun r => { r with st := obSlow, dest := 0 }).endMove m stDone 0

/-- A CREATE to a slow tier that can no longer be written: nothing of it stays (R246). -/
def State.uncreate (s : State) (m : ObjMove) : State :=
  let s := (s.dropMove m.slot).freeRecord m.slot
  s.each m.waiters fun s w => if w.joined then s.objFail w stRetired else s.objAct [] m.id.toNat w

/-- The end of an EVICT's one pass: extents not yet written back are, and for DEST far the copy goes to its place. -/
def State.evicted (s : State) (m : ObjMove) (pages : List PageRead) (bad : BadSectors) (fails : DieFails) : State :=
  let first := (s.dirtyList m.slot).filter fun e => !m.wrote.contains e
  let again := (s.dirtyList m.slot).filter fun e => m.wrote.contains e
  let slow := if m.dest = 2 then again ++ s.rereads m bad else []
  let lost := anyLost (s.readsOf pages m.id slow)
  let bytes := if m.dest = 2 then (List.range m.extents).map fun e => s.downExtent m bad e else []
  let s := s.readSlow pages m.id slow
  if lost then (s.poisonObj m.slot).endMove m stWeightLost 0
  else
    let s := ((s.writeExtents m.id.toNat m.srcAddr.toNat first).dieFails fails).setAllDirty m.slot false
    let s := if m.dest = 2 then s.movedTo m bytes
      else s.modObj m.slot fun r => { r with st := obSlow, dest := 0, near := noAddr, far := noAddr }
    s.endMove m stDone again.length

def execMoveDownDone (id : BitVec 48) (pages : List PageRead) (bad : BadSectors) (fails : DieFails) (s : State) :
    Host.Outcome State Fault Refusal :=
  .next (match s.moveOf id false with
    | none => s
    | some m =>
      let first := if m.create then List.range m.extents else (s.dirtyList m.slot).filter fun e => !m.wrote.contains e
      if s.slowWaits then s
      else if first.any fun e => !s.copyReadable bad m.srcAddr.toNat e then
        (s.poisonObj m.slot).endMove m stWeightLost 0
      else if !first.isEmpty && !s.slowWritable then
        if m.create then s.uncreate m
        else (s.modObj m.slot fun r => { r with st := m.src.toNat, dest := 0 }).endMove m stRetired 0
      else if m.create then s.createdSlow m fails
      else s.evicted m pages bad fails)

/-! ### Object operations (R251) -/

/-- The header and the fields an object operation has; all others are zero. -/
def objFields (d : Desc) : Bool :=
  let k := dOpc d
  let b := d8 d 96
  let tier := b % 4
  untyped d && dN d 38 2 = 0 &&
  onlyFields d ([(32, 6)] ++ (if k = 0x60 then [(16, 4), (40, 8), (96, 1), (98, 2)] else
    if k = 0x61 then [(40, 8), (96, 1)] else
    if k = 0x62 then [(96, 1)] ++ (if tier = 2 then [(40, 8)] else []) else
    if k = 0x63 then [(96, 1)] else if k = 0x66 then [(48, 8)] else [])) &&
  (if k = 0x60 then b = tier && 1 ≤ tier && 1 ≤ d32 d 16 && d32 d 16 ≤ 16384
   else if k = 0x61 then b < 8 && (tier = 2 || tier = 3)
   else if k = 0x62 then b = tier && (tier = 1 || tier = 2)
   else if k = 0x63 then b = 0 || b = 4 else true)

/-- The request that an operation makes. -/
def objReq (c : CoreId) (o : Op) : Waiter :=
  let d := o.desc
  { core := c, ticket := o.ticket, entry := none, kind := BitVec.ofNat 8 (dOpc d), tier := BitVec.ofNat 2 (d8 d 96),
    addr := BitVec.ofNat 64 (d64 d 40), pin := dBits d 96 2 2 = 1, extents := d32 d 16, share := BitVec.ofNat 16 (d16 d 98),
    joined := false, late := false }

def State.startObj (s : State) (c : CoreId) (opc : Nat) (bad : BadSectors) : State :=
  s.startOp c opc bad fun s o =>
    if !objFields o.desc then s.badDesc c o
    else if opc = 0x60 && dBits o.desc 96 1 0 = 1 then
      let a := d64 o.desc 40
      let n := d32 o.desc 16 * 65536
      if !s.herePart a || !byteSpace (localPart a) n then s.badDesc c o
      else s.unless c o [(s.coreViolates c (localPart a) n false).map .violation] fun s =>
        (s.modOp c o.ticket fun o => { o with work := .object }).objAct bad (dN o.desc 32 6)
          { objReq c o with addr := BitVec.ofNat 64 (localPart a) }
    else (s.modOp c o.ticket fun o => { o with work := .object }).objAct bad (dN o.desc 32 6) (objReq c o)

def execObjCreate (c : CoreId) (s : State) : Host.Outcome State Fault Refusal := .next (s.startObj c 0x60 [])

def execObjPromote (c : CoreId) (s : State) : Host.Outcome State Fault Refusal := .next (s.startObj c 0x61 [])

def execObjEvict (c : CoreId) (bad : BadSectors) (s : State) : Host.Outcome State Fault Refusal :=
  .next (s.startObj c 0x62 bad)

def execObjPin (c : CoreId) (s : State) : Host.Outcome State Fault Refusal := .next (s.startObj c 0x63 [])

def execObjWriteback (c : CoreId) (bad : BadSectors) (fails : DieFails) (s : State) : Host.Outcome State Fault Refusal :=
  .next (if ((s.core c).startable 0x64).isNone then s else (s.startObj c 0x64 bad).dieFails fails)

def execObjDelete (c : CoreId) (s : State) : Host.Outcome State Fault Refusal := .next (s.startObj c 0x65 [])

def execObjQuery (c : CoreId) (bad : BadSectors) (s : State) : Host.Outcome State Fault Refusal :=
  .next (s.startOp c 0x66 bad fun s o =>
    let d := o.desc
    let q := d64 d 48
    let a := localPart q
    if !objFields d || q % 64 ≠ 0 || !s.herePart q || !byteSpace a 128 then s.badDesc c o
    else match s.findObj (dN d 32 6), s.owner c with
      | some slot, some p =>
        if (s.obj slot).share / 2 ^ p.val % 2 = 0 then s.badDesc c o
        else s.unless c o [(s.tableLost bad).map .lost, s.writeTrouble c a 128] fun s =>
          (s.store a (s.rd (s.objRec slot) 128)).finish c o.ticket stDone (objResult slot 0 (s.obj slot).addr)
      | _, _ => s.badDesc c o)

/-! ### Prefetch schedules (R255, R256) -/

structure PfEntry where
  id : Nat
  action : Nat
  flags : Nat
  atValue : Nat
  addr : Nat

def State.pfEntry (s : State) (d : Desc) (i : Nat) : PfEntry :=
  let a := localPart (d64 d 32) + 32 * i
  { id := s.rdN a 6, action := s.rdN (a + 6) 1, flags := s.rdN (a + 7) 1, atValue := s.rdN (a + 8) 4, addr := s.rdN (a + 16) 8 }

def pfCount (d : Desc) : Nat := d32 d 16

/-- An entry's bytes meet R251 and R255. -/
def State.pfOk (s : State) (d : Desc) (i : Nat) : Bool :=
  let e := s.pfEntry d i
  let a := localPart (d64 d 32) + 32 * i
  e.action ≤ 3 && e.flags ≤ 3 && (e.action ≤ 1 || e.flags % 2 = 0) && (e.action ≠ 3 || e.addr = 0) &&
  s.rdN (a + 12) 4 = 0 && s.rdN (a + 24) 8 = 0

def State.pfFields (s : State) (c : CoreId) (d : Desc) : Bool :=
  let n := pfCount d
  untyped d && onlyFields d [(16, 4), (32, 24), (96, 1)] && n ≤ 65536 && 1 ≤ d8 d 96 && d8 d 96 ≤ 16 &&
  d64 d 32 % 64 = 0 && d64 d 48 % 64 = 0 && d64 d 40 % 8 = 0 && s.herePart (d64 d 32) && s.herePart (d64 d 40) &&
  s.herePart (d64 d 48) && inNearOrStore c (localPart (d64 d 40)) 8 && byteSpace (localPart (d64 d 32)) (32 * n) &&
  byteSpace (localPart (d64 d 48)) (8 * n)

def execPrefetch (c : CoreId) (s : State) : Host.Outcome State Fault Refusal :=
  .next (s.startOp c 0x67 [] fun s o =>
    let d := o.desc
    let n := pfCount d
    if !s.pfFields c d then s.badDesc c o
    else if n = 0 then s.finish c o.ticket stDone (resultOf (leBytes 4 0 ++ leBytes 4 0 ++ leBytes 4 0xFFFFFFFF))
    else s.unless c o [s.readTrouble c [] (localPart (d64 d 32)) (32 * n), s.writeTrouble c (localPart (d64 d 48)) (8 * n),
        (s.coreViolates c (localPart (d64 d 40)) 8 false).map .violation] fun s =>
      if (List.range n).all fun i => s.pfOk d i then
        s.modOp c o.ticket fun o => { o with work := .prefetch { next := 0, inflight := [], done := [] } }
      else s.badDesc c o)

/-- Entry i acts as the matching operation of the issuing partition. -/
def State.pfStart (s : State) (c : CoreId) (o : Op) (i : Nat) : State :=
  let e := s.pfEntry o.desc i
  let w : Waiter :=
    { core := c, ticket := o.ticket, entry := some i, kind := if e.action ≤ 1 then 0x61 else 0x62,
      tier := if e.action = 0 then 3 else if e.action = 3 then 1 else 2, addr := BitVec.ofNat 64 e.addr,
      pin := e.flags % 2 = 1, extents := 0, share := 0, joined := false, late := false }
  let s := s.modOp c o.ticket fun o =>
    match o.work with
    | .prefetch p => { o with work := .prefetch { p with next := i + 1, inflight := p.inflight ++ [i] } }
    | _ => o
  if e.flags / 2 = 1 then
    match s.findObj e.id, s.owner c with
    | some slot, some p =>
      let r := s.obj slot
      if r.share / 2 ^ p.val % 2 = 0 || r.pin p.val = 0 then s.objFail w stBadDesc
      else (s.addPin slot p (-1)).objAct [] e.id w
    | _, _ => s.objFail w stBadDesc
  else s.objAct [] e.id w

/-- Entries start in list order while the progress word and INFLIGHT let them. -/
def State.pfStarts (s : State) (c : CoreId) (ticket : BitVec 32) (prog : Nat) : Nat → State
  | 0 => s
  | n + 1 =>
    match s.running c ticket with
    | none => s
    | some o =>
      match o.work with
      | .prefetch p =>
        if p.next < pfCount o.desc && p.inflight.length < d8 o.desc 96 && (s.pfEntry o.desc p.next).atValue ≤ prog then
          (s.pfStart c o p.next).pfStarts c ticket prog n
        else s
      | _ => s

def execPrefetchProgressPoll (c : CoreId) (ticket : BitVec 32) (bad : BadSectors) (s : State) :
    Host.Outcome State Fault Refusal :=
  .next (s.resumeOp c ticket fun o =>
    match o.work with
    | .prefetch _ =>
      let a := localPart (d64 o.desc 40)
      s.unless c o [s.readTrouble c bad a 8] fun s => s.pfStarts c ticket (s.rdN a 8) (d8 o.desc 96)
    | _ => s)

/-- Entry i of a schedule completes: its readiness word is written (R256). -/
def execPrefetchEntryDone (c : CoreId) (ticket : BitVec 32) (i : Nat) (s : State) : Host.Outcome State Fault Refusal :=
  .next (match s.running c ticket with
    | none => s
    | some o =>
      match o.work with
      | .prefetch p =>
        match p.inflight.contains i, p.done.find? fun x => x.1 = i with
        | true, some (_, st) =>
          let s := s.storeN (localPart (d64 o.desc 48) + 8 * i) 8 (2 ^ 63 + st.toNat)
          let p := { p with inflight := p.inflight.filter (· ≠ i) }
          if p.inflight.isEmpty && p.next = pfCount o.desc then
            let (st, r) := pfResult p.done
            s.finish c ticket st r
          else s.modOp c ticket fun o => { o with work := .prefetch p }
        | _, _ => s
      | _ => s)

/-! ### Maintenance of the flash (R244 to R246) -/

/-- Objects with an extent in a lost page become POISONED, with the requests that wait on them (R245). -/
def State.loseObjects (s : State) (ids : List (BitVec 48)) : State :=
  s.each ids fun s id =>
    match s.findObj id.toNat with
    | none => s
    | some slot =>
      if (s.obj slot).st = obPoisoned then s
      else match s.findMove slot with
      | some m => (s.poisonObj slot).endMove m stWeightLost 0
      | none => s.poisonObj slot

/-- One pass of the patrol over every written page: its read counts, and a page that needed retries or parity is rewritten
(R244). -/
def execPatrolPass (pages : List PageRead) (fails : DieFails) (s : State) : Host.Outcome State Fault Refusal :=
  .next (if s.tier.slowLost || s.slowWaits then s
    else
      let lost := (pages.filter fun r => r.out == .lost).filterMap fun r => (s.readOf r).map Prod.fst
      let s := s.countReads fun u => u != .stale
      let s := s.each pages fun s r =>
        let s := s.pageRead r
        if r.out == .retried then s.rewritePage r else s
      (s.dieFails fails).loseObjects lost)

/-- The maintenance of the flash is switched on (R381). -/
def State.maintOn (s : State) : Bool :=
  match vat s.rep.fns 4 with
  | some f => f.st == .on || f.st == .stopping
  | none => false

/-- The first block of a channel that a scrub is due for: scheduled, or with SCRUB_READS reads (R244). -/
def State.scrubDue (s : State) (ch : Fin 8) : Option FlashBlock :=
  (vget s.tier.slow ch).blocks.find? fun b => !b.retired && (b.scrub || s.tier.scrubReads.toNat ≤ b.reads)

/-- One maintenance operation of a channel: a scrub that is due; else, where the erase counts spread by more than SPREAD, a
levelling move of a stripe that the translation layer is free to choose, whose block on the channel is erased (R244). -/
def execSlowMaintenanceOperation (ch : Fin 8) (fails : DieFails) (s : State) : Host.Outcome State Fault Refusal :=
  .next (
    let x := vget s.tier.slow ch
    if s.tier.slowLost || !x.up || !s.maintOn || s.slowWaitsAt ch then s
    else match s.scrubDue ch with
      | some b => (s.scrubBlock ch b.die b.num).dieFails fails
      | none =>
        if s.tier.spread.toNat < x.wearMax.toNat - x.wearMin.toNat then
          let (v, s) := s.fresh
          let cold := s.tier.stripes.flatMap fun st => (st.pages.filter fun p => p.ch = ch).map fun p => (st.num, p.die)
          match cold[v.toNat % cold.length]? with
          | none => s
          | some (num, die) => (s.scrubBlock ch die (Config.flashBlock num)).dieFails fails
        else s)

end Sys2Proof.Machine
end

