-- ==== Sys2Proof/Machine/Near.lean ====
section
/-! DEFINITION. Events of the near and far tiers (R228, R234 to R238, R241). -/

namespace Sys2Proof.Machine

/-! ### Retraining and retirement (R228, R234, R235) -/

/-- A retrain ends: four retries failed before it, and up to four follow it (R228). -/
def execChannelRetrainEnd (ch : ChanId) (ok : Bool) (s : State) : Host.Outcome State Fault Refusal :=
  .next (if !(s.chan ch).serves then s
    else
      let (v, s) := s.fresh
      let more : BitVec 24 := if ok then 1 + (v.truncate 2).setWidth 24 else 4
      let s := s.modChan ch fun c =>
        { c with retrains := c.retrains + 1, retries := c.retries + 4 + more, retrainEvents := c.retrainEvents + 1 }
      let (x, s) := s.crosses 0 (s.chan ch).retrainEvents
      if x then s.crossChan ch 0 else s)

/-- The poison tables hold each sector at the channel its place lies on; a table that would overflow makes its channel
cross its threshold, and TIER_EVENT latches the sector (R237). -/
def State.placePoison (s : State) (xs : List Nat) : State :=
  (s.each xs fun t x =>
    let ch := t.chanOf (x * 64)
    if (t.chan ch).poison.contains x then t
    else if (t.chan ch).poison.length < 1024 then t.modChan ch fun c => { c with poison := c.poison ++ [x] }
    else (t.tierEvent 5 ch.val x).crossChan ch 1).ledgerPoison s

/-- The channels' poison tables without the sectors `xs`. -/
def State.unpoison (s : State) (xs : List Nat) : State :=
  State.ledgerPoison { s with chans := s.chans.map fun c => { c with poison := c.poison.filter fun x => !xs.contains x } } s

def sectorsOf (g : Nat) : List Nat := [4 * g, 4 * g + 1, 4 * g + 2, 4 * g + 3]

/-- The place that a granule has after the (k + 1)-th retirement. -/
def State.newPlace (s : State) (ch : ChanId) (g : Nat) : Nat × Nat :=
  let (q, r) := s.homePlace (g * 256)
  relocate (s.tier.nretPos ++ [ch]) q r

/-- The granule's copy is still to be made. -/
def State.toCopy (s : State) (e : Evac) (g : Nat) : Bool :=
  !e.copied.contains g && g * 256 < s.nearTop && s.newPlace e.ch g ≠ s.placeOf (g * 256)

/-- The sectors of a granule that cannot be read. -/
def State.granuleLost (s : State) (bad : BadSectors) (g : Nat) : List Nat :=
  (sectorsOf g).filter fun x => bad.contains x || s.poisoned.contains x

/-- The copy of one granule. One of the retiring channel that cannot be read has every sector poisoned at its new place
(R235, step 3); of one that is relocated again the sectors that cannot be read stay so. -/
def State.copyGranule (s : State) (e : Evac) (g : Nat) (bad : BadSectors) : State :=
  let lost := s.granuleLost bad g
  let lost := if lost.isEmpty || (s.placeOf (g * 256)).1 ≠ e.ch.val then lost else sectorsOf g
  let s := if lost.isEmpty then s else s.unpoison (sectorsOf g)
  (s.modTier fun t => { t with evac := t.evac.map fun (e : Evac) => { e with left := e.left - 1, copied := g :: e.copied } }).placePoison
    lost

def execGranuleCopyPerformed (g : Nat) (bad : BadSectors) (s : State) : Host.Outcome State Fault Refusal :=
  .next (match s.tier.evac with
    | none => s
    | some e => if !s.toCopy e g || e.left ≤ 1 then s else s.copyGranule e g bad)

/-- The last copy is performed, with every one before it (R235, step 4): the channel is RETIRED, and the next queued
retirement starts. Copies of granules that can be read change no byte and no table, so only the others are named. -/
def execEvacuationEnd (bad : BadSectors) (s : State) : Host.Outcome State Fault Refusal :=
  .next (match s.tier.evac with
    | none => s
    | some e =>
      let lost := ((bad ++ s.poisoned).map (· / 4)).eraseDups.filter fun g => s.toCopy e g
      let s := s.each lost fun s g => s.copyGranule e g bad
      let all := (s.chans.toList.map Chan.poison).flatten
      let s := s.modTier fun t => { t with evac := none, nretPos := t.nretPos ++ [e.ch] }
      let s := s.modChan e.ch fun c => { c with st := .retired }
      let s := ((s.unpoison all).placePoison all).tierEvent 2 e.ch.val 0
      let s := s.noteRetired 0xFF e.cls e.ch.val e.ch.val
      s.nextRetirement s.tier.retireQueue)

/-! ### Traffic generator (R238) -/

/-- The module controller and maintenance sessions run the generators. -/
def State.maintains (s : State) (m : Master) : Bool :=
  match m with
  | .mctl => true
  | .session i => (s.sess i).isOpen && (s.sess i).maint
  | _ => false

/-- The rows that a run may use. -/
def State.tgRangeOk (s : State) (ch : ChanId) : Bool :=
  let c := s.chan ch
  let lo := if s.esp.sections.isEmpty then 0 else NR - 32768 * s.tier.nretMax.toNat
  let hi := NR - 32768 * s.nret
  let first := c.tgFirst.toNat
  c.st != .retired && c.st != .lost && c.st != .off && lo ≤ first && first + c.tgRows.toNat ≤ hi

/-- A write of START. -/
def State.tgStart (s : State) (m : Master) (ch : ChanId) : State :=
  if !s.maintains m || (s.chan ch).tgBusy then s
  else if s.tgRangeOk ch then
    s.modChan ch fun c =>
      { c with tgBusy := true, tgStop := false, tgRefused := false, tgErrors := 0, tgChecked := 0, tgFValid := false,
               tgFRow := 0, tgFSector := 0 }
  else s.modChan ch fun c => { c with tgRefused := true }

/-- A write of STOP. -/
def State.tgStopRun (s : State) (m : Master) (ch : ChanId) : State :=
  if s.maintains m && (s.chan ch).tgBusy then s.modChan ch fun c => { c with tgStop := true } else s

def execNearTgCtlStart (m : Master) (ch : ChanId) (s : State) : Host.Outcome State Fault Refusal :=
  .next (s.tgStart m ch)

def execNearTgCtlStop (m : Master) (ch : ChanId) (s : State) : Host.Outcome State Fault Refusal :=
  .next (s.tgStopRun m ch)

/-- The local address of byte 0 of a row whose home place is position q, row r (R231, read backwards). -/
def bandAddr : List Band → Nat → Nat → Nat → Option Nat
  | [], _, _, _ => none
  | b :: rest, g, q, r =>
    let rows := b.rows.toNat
    let f := b.first.toNat
    if !b.valid then bandAddr rest g q r
    else if f ≤ r && r < f + rows then
      if b.split then
        some ((g + q / 96 * (96 * rows) + (r - f) * 96 + (q % 96 + 96 * 3 - rowHash r) % 96) * 256)
      else some ((g + (r - f) * 192 + (q + 192 * 2 - rowHash r) % 192) * 256)
    else bandAddr rest (g + 192 * rows) q r

/-- The address that row r of a channel backs, if it is mapped. -/
def State.rowAddr (s : State) (ch : ChanId) (r : Nat) : Option Nat :=
  let a := match s.esp.sections with
    | [] => some ((r * 192 + (ch.val + 192 * 2 - rowHash r) % 192) * 256)
    | _ => bandAddr s.tier.bands.toList 0 ch.val r
  a.filter fun a => decide (a < s.nearTop) && decide (s.placeOf a = (ch.val, r))

/-- A run writes its pattern over n rows of its range, where the rows are mapped (R238). -/
def State.tgWrite (s : State) (ch : ChanId) (n : Nat) : State :=
  let c := s.chan ch
  s.each (List.range n) fun s i =>
    let r := c.tgFirst.toNat + i
    match s.rowAddr ch r with
    | none => s
    | some a => s.write a ((List.range 256).map fun k => Config.tgPattern c.tgPattern ch.val r k)

/-- Sectors that a whole run checks: every sector of the range in each read-back pass of each write pass. -/
def Chan.tgWhole (c : Chan) : Nat := 4 * c.tgRows.toNat * c.tgReads.toNat * c.tgPasses.toNat

/-- A run ends: with PASSES 0 only after STOP. It has written its pattern and checked every sector of its range, or, where
STOP came first, as far as it got (`checked`). `failing` are the checks that failed, in order (notes/assumptions/36.md). -/
def execTgRunEnd (ch : ChanId) (checked : BitVec 32) (failing : List (BitVec 23 × BitVec 2)) (s : State) :
    Host.Outcome State Fault Refusal :=
  .next (let c := s.chan ch
    if !c.tgBusy || (c.tgPasses = 0 && !c.tgStop) then s
    else
      let stopped := c.tgStop
      let (v, s) := s.fresh
      let bad := failing.filter fun x => decide (c.tgFirst.toNat ≤ x.1.toNat) && decide (x.1.toNat < c.tgFirst.toNat + c.tgRows.toNat)
      let s := s.tgWrite ch (if stopped then v.toNat % (c.tgRows.toNat + 1) else c.tgRows.toNat)
      s.modChan ch fun c =>
        { c with tgBusy := false, tgStop := false, tgErrors := BitVec.ofNat 32 bad.length, tgFValid := !bad.isEmpty,
                 tgChecked := if stopped then checked else BitVec.ofNat 32 c.tgWhole,
                 tgFRow := (bad.head?.map Prod.fst).getD 0, tgFSector := (bad.head?.map Prod.snd).getD 0 })

/-! ### Far ports (R241) -/

/-- An object's far copy has an extent on the port. -/
def State.farOn (s : State) (p : PortId) (r : ObjRec) : Bool :=
  r.far ≠ noAddr && (List.range (r.extents * 16)).any fun i => s.farPlace (r.far - farBase + 4096 * i) = p

/-- A pending request of a function completes with its port (R382). -/
def State.retireFn (s : State) (fn : Fin 32) : State :=
  let f := vget s.rep.fns fn
  let s := s.modRep fun r =>
    { r with fns := vset r.fns fn { f with st := .retired, queued := false, pend := [], qreqs := [] } }
  s.each (f.pend ++ f.qreqs) fun s h => s.endCmd h stRetired 0

/-- The tier that an object's far copy leaves it in when the port is gone: SLOW_ONLY, or POISONED with a dirty extent. -/
def State.loseFar (s : State) (i : Nat) : State :=
  if (s.obj i).dirty = 0 then (s.modObj i fun r => { r with st := obSlow, dest := 0, far := noAddr }).recharge
  else s.poisonObj i

/-- An object whose far copy lies on the port changes state. A move from that copy is over: an eviction to the slow tier is
then done, and a promotion is handled again in the state that the object has (notes/assumptions/34.md). -/
def State.loseFarCopy (s : State) (i : Nat) : State :=
  match s.findMove i with
  | none => s.loseFar i
  | some m =>
    let s := s.loseFar i
    if (s.obj i).st = obPoisoned then s.endMove m stWeightLost 0
    else if m.up then
      let s := (s.dropMove i).recharge
      s.each m.waiters fun s w => s.objAct [] m.id.toNat { w with joined := false }
    else s.endMove m stDone 0

/-- The port is RETIRED, and the objects whose far copy lies on it change state. -/
def State.retireFar (s : State) (p : PortId) : State :=
  let slots := s.slots.filter fun i =>
    ((s.obj i).st = obFar || (s.obj i).st = obUp || (s.obj i).st = obDown) && s.farOn p (s.obj i)
  let s := s.modFar p fun f => { f with st := .retired, rate := 0, width := 0 }
  let s := s.each slots fun s i => s.loseFarCopy i
  (((s.tierEvent 3 p.val 0).noteRetired 0xFF 9 p.val p.val)).retireFn (if p = 0 then 2 else 3)

/-- The link that was lost, or that never came back, is down after three retrains. -/
def execFarPortRetire (p : PortId) (s : State) : Host.Outcome State Fault Refusal :=
  .next (let f := vget s.tier.far p
    if f.st == .up || f.st == .training then s.retireFar p else s)

/-- A link goes down or fails replay: its retrains bring it back, or it stays down until the port is retired. -/
def execFarLinkLoss (p : PortId) (retrains : Bool) (s : State) : Host.Outcome State Fault Refusal :=
  .next (let f := vget s.tier.far p
    if f.st == .up then
      if retrains then s.modFar p fun f => { f with replays := f.replays + 1 }
      else s.modFar p fun f => { f with st := .training, replays := f.replays + 1, retrains := 3 }
    else s)

end Sys2Proof.Machine
end

