-- ==== Sys2Proof/Machine/Tumbler.lean ====
section
/-! DEFINITION. The memory-side reduction stream (R257) and tumblers (R258 to R262). -/

namespace Sys2Proof.Machine

/-! ### MEMRED (R257) -/

/-- The fields of MEMRED. -/
def memredLegal (d : Desc) : Bool :=
  let n := etypeBytes (dBits d 96 1 0)
  let len := d64 d 16 * n
  untyped d && onlyFields d [(16, 8), (32, 16), (96, 1)] && d8 d 96 < 8 && d64 d 16 ≤ 2 ^ 32 &&
  d64 d 32 % n = 0 && d64 d 40 % n = 0 && byteSpace (localPart (d64 d 32)) len && inNear (localPart (d64 d 40)) len &&
  !overlap (d64 d 32) len (d64 d 40) len

/-- MEMRED ends with the elements it updated. -/
def State.memredFinish (s : State) (c : CoreId) (o : Op) (st : Status) (elements : Nat) : State :=
  s.finish c o.ticket st (resultOf (leBytes 8 elements))

def State.memredDone (s : State) (c : CoreId) (o : Op) : State := s.memredFinish c o stDone (d64 o.desc 16)

/-- A stream that cannot read its data: what is updated stays (R257). -/
def State.memredFailed (s : State) (c : CoreId) (o : Op) (st : Status) : State :=
  s.memredFinish c o st (((o.xfers.head?).map Xfer.pos).getD 0 / etypeBytes (dBits o.desc 96 1 0))

def execMemred (c : CoreId) (bad : BadSectors) (s : State) : Host.Outcome State Fault Refusal :=
  .next (s.startOp c 0x68 bad fun s o =>
    let d := o.desc
    let e := dBits d 96 1 0
    let len := d64 d 16 * etypeBytes e
    let x := addTo (badFn e (dBits d 96 2 2 = 1)) (d64 d 32) (d64 d 40) len
    if !memredLegal d then s.badDesc c o
    else if len = 0 then s.finish c o.ticket stDone 0
    else match s.xfersTrouble c [] [x] with
      | some (.violation a) => s.trouble c o (.violation a)
      | _ =>
        match s.runXfers c o.ticket bad [x] with
        | (.done, s) => s.memredDone c o
        | (.waiting, s) => s
        | (.lost y, s) => (s.noteUncorrectable y).memredFinish c o stRetired 0)

/-! ### Tumblers -/

/-- The tumbler is one that the image assigns to the core's partition, on this module (R259, R262). -/
def State.tumbOk (s : State) (c : CoreId) (g : Nat) : Bool :=
  let a := localPart g
  let base := s.tier.tumbBase.toNat
  let i := (a - base) / 4096
  match s.owner c with
  | none => false
  | some p =>
    let q := (s.part p).cfg
    s.isLocal g && a % 4096 = 0 && base ≤ a && i < s.tier.tumbCount.toNat && q.tumbFirst.toNat ≤ i &&
    i < q.tumbFirst.toNat + q.tumbCount.toNat

/-- The tumbler's block cannot be read (R229). -/
def State.tumbLost (s : State) (bad : BadSectors) (tumb : Nat) : Option Trouble := (s.uncorrectable bad tumb 4096).map .lost

def noIndex : Nat := 0xFFFFFFFFFFFF

def State.tumbLimit (s : State) (tumb : Nat) : Nat := s.rdN (tumb + 8) 6

def tumbEntries : List Nat := List.range 252

/-- The valid unassigned entry with the lowest index. -/
def State.unassigned (s : State) (tumb : Nat) : Option Nat :=
  let es := tumbEntries.filter fun e => let x := s.claim tumb e; x.valid && x.core = 0xFF
  match (es.map fun e => (s.claim tumb e).index).min? with
  | none => none
  | some i => es.find? fun e => (s.claim tumb e).index = i

/-- Result words of a claim. -/
def claimWords (index epoch : Nat) : BitVec 128 := resultOf (leBytes 6 index ++ leBytes 2 epoch)

/-- One claim (R259): its index and epoch, or none if it must wait for an entry. -/
def State.takeClaim (s : State) (c : CoreId) (tumb : Nat) : Option (Nat × Nat) × State :=
  match s.unassigned tumb with
  | some e =>
    let x := s.claim tumb e
    (some (x.index, x.epoch), s.setClaim tumb e { x with core := c.val })
  | none =>
    let next := s.tumbNext tumb
    let epoch := s.tumbEpoch tumb
    if s.tumbLimit tumb ≤ next then (some (noIndex, epoch), s)
    else match tumbEntries.find? fun e => !(s.claim tumb e).valid with
      | none => (none, s)
      | some e =>
        let s := s.setClaim tumb e { index := next, epoch := epoch, core := c.val, valid := true }
        (some (next, epoch), s.writeN tumb 6 (next + 1))

def execTumblerClaim (c : CoreId) (bad : BadSectors) (s : State) : Host.Outcome State Fault Refusal :=
  .next (s.startOp c 0x69 bad fun s o =>
    let d := o.desc
    if !(plainHeader d && dBmode d = 0 && onlyFields d [(32, 8)] && s.tumbOk c (d64 d 32)) then s.badDesc c o
    else s.unless c o [s.tumbLost bad (localPart (d64 d 32))] fun s =>
      match s.takeClaim c (localPart (d64 d 32)) with
      | (some (i, e), s) => s.finish c o.ticket stDone (claimWords i e)
      | (none, s) => s.modOp c o.ticket fun o => { o with work := .claim })

/-- A claim that waited takes an entry that became free. -/
def execClaimWaitEnd (c : CoreId) (ticket : BitVec 32) (bad : BadSectors) (s : State) :
    Host.Outcome State Fault Refusal :=
  .next (s.resumeOp c ticket fun o =>
    if o.work == .claim then s.unless c o [s.tumbLost bad (localPart (d64 o.desc 32))] fun s =>
      match s.takeClaim c (localPart (d64 o.desc 32)) with
      | (some (i, e), s) => s.finish c ticket stDeferred (claimWords i e)
      | (none, _) => s
    else s)

/-- The fields of CLAIM_COPY (R260, R262). -/
def claimCopyLegal (d : Desc) : Bool :=
  let n := d64 d 16
  plainHeader d && dBmode d = 0 && onlyFields d [(16, 40)] && n ≤ 2 ^ 32 &&
  (n = 0 || (!overlap (d64 d 40) n (d64 d 48) n && byteSpace (localPart (d64 d 40)) n && byteSpace (localPart (d64 d 48)) n))

def execClaimCopy (c : CoreId) (bad : BadSectors) (s : State) : Host.Outcome State Fault Refusal :=
  .next (s.startOp c 0x6A bad fun s o =>
    let d := o.desc
    if !claimCopyLegal d || !s.tumbOk c (d64 d 32) then s.badDesc c o
    else s.unless c o [s.tumbLost bad (localPart (d64 d 32))] fun s =>
      if (s.findClaim (localPart (d64 d 32)) (dN d 24 6) (dN d 30 2) c.val).isNone then s.finish c o.ticket stClaimFenced 0
      else if d64 d 16 = 0 then s.copyDone c o
      else s.copyRun c o bad (cpy (d64 d 40) (d64 d 48) (d64 d 16)))

def execTumblerReset (c : CoreId) (bad : BadSectors) (s : State) : Host.Outcome State Fault Refusal :=
  .next (s.startOp c 0x6B bad fun s o =>
    let d := o.desc
    let t := localPart (d64 d 32)
    let limit := d64 d 16
    if !(plainHeader d && dBmode d = 0 && onlyFields d [(16, 8), (32, 8)] && s.tumbOk c (d64 d 32) && limit < 2 ^ 48) then
      s.badDesc c o
    else s.unless c o [s.tumbLost bad t] fun s =>
      let next := s.tumbNext t
      let epoch := (s.tumbEpoch t + 1) % 65536
      let s := s.write t (leBytes 6 0 ++ leBytes 2 epoch ++ leBytes 6 limit ++ [0, 0])
      let s := s.wipe (t + 64) 4032
      s.finish c o.ticket stDone (claimWords next epoch))

end Sys2Proof.Machine
end

