-- ==== Sys2Proof/Machine/Stop.lean ====
section
/-! DEFINITION. An operation that is ended from outside: by a hasp (R366), by its core's retirement (R376), by the release
of a held operation (R386), by a load (R314), or by a refused message (R279). How each kind of operation ends early is
notes/assumptions/20.md. -/

namespace Sys2Proof.Machine

/-- Messages of an operation that never began on a link are dropped with their tags (R366). -/
def State.dropUnsent (s : State) (c : CoreId) (ticket : BitVec 32) : State :=
  let tags := (s.fab.reqs.filter fun r => r.owner == .op c ticket).map Req.tag
  let waiting := (s.fab.fabWait.filter fun x => tags.contains x.2.tag).map fun x => x.2.tag
  s.modFab fun f => { f with fabWait := f.fabWait.filter fun x => !waiting.contains x.2.tag,
                             reqs := f.reqs.filter fun r => !waiting.contains r.tag }

/-- A control operation ends between entries: slices on the move are a piece in flight, and it ends once they have arrived
(R138, R149). -/
def State.stopCtl (s : State) (c : CoreId) (o : Op) (w : CtlWork) (st : Status) : State :=
  if w.moving then s.setCtl c o.ticket { w with stop := some (w.stop.getD st) }
  else s.finish c o.ticket st (resultOf (leBytes 4 w.performed ++ leBytes 4 w.deferred))

/-- An operation in progress ends with a failure. -/
def State.stopOp (s : State) (c : CoreId) (o : Op) (st : Status) : State :=
  let s := s.dropUnsent c o.ticket
  match o.work with
  | .append w => match s.owner c with
    | some p => s.appEnd p c o w st
    | none => s.finish c o.ticket st 0
  | .ctl w => s.stopCtl c o w st
  | .fused _ _ => s.fusedFail c o st
  | .array a => (s.abandon c o.ticket).finish c o.ticket st
      (resWords (addWords [a.passes, a.escalated, a.sat, a.pip] ((s.core c).arr.owed o.ticket)))
  | .coll w => s.collEnd c o w st
  | .shard w => s.shardStop c o w st
  | .publish _ => s.pubFail c o st
  | .prefetch p => s.finish c o.ticket st (pfResult p.done).2
  | .script counts => s.finish c o.ticket st (if dOpc o.desc = 0x73 then a2aResult counts else 0)
  | _ =>
    if dOpc o.desc = 0x6A then s.copyFailed c o st
    else if dOpc o.desc = 0x68 then s.memredFailed c o st
    else s.finish c o.ticket st 0

/-- Every operation of a core in progress, and every queued one when `queued`, ends with a failure; `keep` names those
left alone. -/
def State.stopOps (s : State) (c : CoreId) (st : Status) (queued : Bool) (keep : Op → Bool) : State :=
  s.each (s.core c).ops fun s o =>
    if keep o then s
    else match o.phase with
      | .running => s.stopOp c o st
      | .queued => if queued then s.finish c o.ticket st 0 else s
      | _ => s

end Sys2Proof.Machine
end

