-- ==== Sys2Proof/Machine/ThreadMem.lean ====
section
/-! DEFINITION. Loads, stores, FENCE, atomics and SEM (R25 to R27, R31, R37, R39, R57 to R65, R278), leases of
cross-partition semaphores (R333, R334), and LOAD_DATA_RETURN. The performing of a store is in RegWrite.lean. -/

namespace Sys2Proof.Machine

/-! ### The checks of an access (R25, R26, R39, R64, R443), in the order of notes/assumptions/18.md -/

/-- What an access is, for its checks. -/
inductive AccForm where
  | load
  | store
  | atomic
  | sem
  deriving DecidableEq, Repr

/-- An atomic or SEM may address this place (R39, R64): a core store, the near tier or the far window of this module,
or the near tier of another. -/
def atomicPlace (here sem : Bool) (a : Nat) : Bool :=
  match regionOf a with
  | .near => true
  | .far _ => here && !sem
  | .store _ _ => here && !sem
  | _ => false

/-- A store of a thread to a register address is performed or ignored rather than being a violation (R443): to a
register of its partition's own cores or own PART block, and, whether a register stands at the offset or not, to any
module block that is not a PART block. -/
def State.regWritable (s : State) (p : Option PartId) (a : Nat) : Bool :=
  match regionOf a with
  | .modReg b _ => !(0x10 ≤ b && b < 0x20) || (p.map (fun q => q.val + 0x10) = some b && (s.regAt a).isSome)
  | .coreReg c _ _ => p.isSome && s.owner c = p && (s.regAt a).isSome
  | _ => false

/-- The cause for which an access of a thread of core c is a violation. R443 names only mapped registers: a load at an
offset of a mapped block at which no register stands, and a store there in the partition's own cores or PART block, are
address violations (DESIGN CHOICE, notes/assumptions/38.md). An AMO or AMOF on the core store of a core outside the
partition, which R39 calls a disallowed place and R25 an address violation, has cause 0x03 (DESIGN CHOICE,
notes/assumptions/38.md). -/
def State.accessFault (s : State) (c : CoreId) (f : AccForm) (g n : Nat) : Option Byte :=
  let a := localPart g
  let here := s.isLocal g
  let atomic := f == .atomic || f == .sem
  if g % n ≠ 0 then some cMisaligned
  else if here && isRegAddr a && !atomic && n ≠ 8 then some cRegWidth
  else if atomic && !atomicPlace here (f == .sem) a then some cAtomic
  else if here && isRegAddr a then
    if (if f == .store then s.regWritable (s.owner c) a else (s.regAt a).isSome) then none else some cAddress
  else if here then
    if (s.coreViolates c a n (f != .load)).isSome then some cAddress else none
  else match s.owner c with
    | some p => if s.mayRemote p g then none else some cAddress
    | none => some cAddress

/-! ### SEM and its lease (R65, R333, R334) -/

/-- What a SEM brings to the memory side: the caller, its count, and the lease-table slot and generation it may use. -/
structure SemReq where
  acq : Bool
  n : Nat
  part : Nat
  core : Nat
  thread : Nat
  lease : Option (Nat × Nat)
  deriving DecidableEq, Repr

/-- What a SEM comes to: the word afterwards, whether an acquire succeeded, whether the word is a cross-partition
semaphore, and whether it was the holder's release. -/
structure SemRes where
  word : Nat
  ok : Bool
  xp : Bool
  freed : Bool
  deriving DecidableEq, Repr

/-- Bits [61:45] of a lease: its holder (R333). -/
def leaseHolder (part core thread : Nat) : Nat := part * 2 ^ 13 + core * 2 ^ 5 + thread

/-- SEM on a word. -/
def semStep (w : Nat) (r : SemReq) : SemRes :=
  let cnt := w % 2 ^ 32
  let hi := w / 2 ^ 32
  let xp := bitsOf w 63 63 = 1
  let held := bitsOf w 62 62 = 1
  let up := min (cnt + r.n) (2 ^ 32 - 1)
  if r.acq then
    if !xp then
      if r.n ≤ cnt then { word := hi * 2 ^ 32 + (cnt - r.n), ok := true, xp := false, freed := false }
      else { word := w, ok := false, xp := false, freed := false }
    else
      match r.lease with
      | some (slot, gen) =>
        if r.n ≤ cnt && !held then
          { word := 2 ^ 63 + 2 ^ 62 + leaseHolder r.part r.core r.thread * 2 ^ 45 + slot % 64 * 2 ^ 39 +
              gen % 128 * 2 ^ 32 + (cnt - r.n), ok := true, xp := true, freed := false }
        else { word := w, ok := false, xp := true, freed := false }
      | none => { word := w, ok := false, xp := true, freed := false }
  else if xp && held && bitsOf w 61 45 = leaseHolder r.part r.core r.thread then
    { word := (hi % 2 ^ 30 + 2 ^ 31) * 2 ^ 32 + up, ok := true, xp := true, freed := true }
  else { word := hi * 2 ^ 32 + up, ok := true, xp := xp, freed := false }

def Lease.ofThread (l : Lease) (c : CoreId) (t : ThreadId) (g : Word) : Bool :=
  l.used && l.core = c && l.thread = t && l.addr = g

/-- The thread's slot for this address is EXPIRED (R334). -/
def Part.leaseExpired (p : Part) (c : CoreId) (t : ThreadId) (g : Word) : Bool :=
  p.leases.toList.any fun l => l.ofThread c t g && l.expired

def Part.freeLease (p : Part) (c : CoreId) (t : ThreadId) (g : Word) : Part :=
  { p with leases := p.leases.map fun l => if l.ofThread c t g then { l with used := false, expired := false } else l }

/-- A slot of a partition's lease table is in use, or a remote acquire that is under way has named it. -/
def State.leaseBusy (s : State) (p : PartId) (i : Fin 64) : Bool :=
  (vget (s.part p).leases i).used ||
  s.cores.toList.any fun k => k.reg.part = some p && k.threads.toList.any fun x => x.acc.any fun a => a.lslot = some i

/-- The lowest free slot of the lease table (the choice of slot is open: notes/assumptions/9.md). -/
def State.leaseSlot (s : State) (p : PartId) : Option (Fin 64) := (List.finRange 64).find? fun i => !s.leaseBusy p i

/-- The request of a thread's SEM. -/
def State.semReq (s : State) (c : CoreId) (t : ThreadId) (acq : Bool) (n : Nat) : SemReq :=
  let p := (s.owner c).getD 0
  let x := s.part p
  { acq := acq, n := n, part := p.val, core := c.val, thread := t.val,
    lease := if x.cfg.leaseMax = 0 then none else (s.leaseSlot p).map fun i => (i.val, (vget x.leases i).gen.toNat) }

/-! ### Retirement of an access (R31) -/

/-- A thread leaves WAIT_MEM: its instruction retires with its result, and it runs on, or is IDLE after a pending
reset; after the last word THR_PC stays at it (DESIGN CHOICE, notes/assumptions/38.md). -/
def State.retireAcc (s : State) (c : CoreId) (t : ThreadId) (eff : Thread → Thread) : State :=
  let s := s.modThread c t fun x => { eff x with st := .ready, acc := none }
  if (s.thread c t).resetPend then
    (s.modThread c t fun x => { x with pc := if x.pc = 0xFFFFF then x.pc else x.pc + 1 }).idleThread c t true
  else (s.advance c t).stayFrozen c t

/-- SEM retires with a predicate and a status. -/
def Thread.semResult (x : Thread) (pd : Option (BitVec 3)) (rd : BitVec 6) (v : Bool) (st : Status) : Thread :=
  let x := match pd with
    | some p => x.setPred p.toNat v
    | none => x
  x.setReg rd (st.setWidth 64)

/-- What the memory side answered becomes the thread's result and the lease table of its controller, in the slot that
the acquire named (R334). -/
def State.semDone (s : State) (c : CoreId) (t : ThreadId) (a : Acc) (slot : Option (Fin 64)) (acq : Bool) (pd : BitVec 3)
    (ok xp freed : Bool) : State :=
  let p := (s.owner c).getD 0
  if acq && xp && (s.part p).cfg.leaseMax = 0 then s.freezeThread c t cAtomic (localPart a.addr.toNat)
  else
    let s :=
      if acq && xp && ok then
        match slot with
        | some i => s.modPart p fun x => { x with leases := vmod x.leases i fun l =>
            { used := true, expired := false, addr := a.addr, core := c, thread := t,
              n := a.rb.setWidth 32, gen := l.gen + 1 } }
        | none => s
      else if freed then s.modPart p fun x => x.freeLease c t a.addr
      else s
    s.retireAcc c t fun x => x.semResult (if acq then some pd else none) a.rd ok stDone

/-- A SEM by a thread whose lease has expired (R334). -/
def State.semExpired (s : State) (c : CoreId) (t : ThreadId) (a : Acc) (pd : BitVec 3) : State :=
  (match s.owner c with
   | some p => s.modPart p fun x => x.freeLease c t a.addr
   | none => s).retireAcc c t fun x => x.semResult (some pd) a.rd false stLeaseExpired

def State.leaseGone (s : State) (c : CoreId) (t : ThreadId) (g : Word) : Bool :=
  match s.owner c with
  | some p => (s.part p).leaseExpired c t g
  | none => false

/-- The value a load's bytes give (R37). -/
def loadValue (n : Nat) (signed : Bool) (v : Nat) : Word :=
  if signed then ((BitVec.ofNat 32 v).signExtend 64) else BitVec.ofNat 64 (v % 2 ^ (8 * n))

/-! ### Remote accesses (R278) -/

/-- The bytes of a SEM message, whose form the specification does not give (notes/assumptions/14.md): n, the holder,
and the lease slot and generation, with bit 63 set where one may be taken. -/
def semBytes (r : SemReq) : List Byte :=
  leBytes 4 r.n ++ leBytes 4 (leaseHolder r.part r.core r.thread) ++
  leBytes 8 (match r.lease with
    | some (slot, gen) => 2 ^ 63 + slot * 128 + gen
    | none => 0)

/-- The message of a thread's load, atomic or SEM to another module. -/
def State.sendAcc (s : State) (c : CoreId) (t : ThreadId) (a : Acc) : State :=
  match s.owner c with
  | none => s
  | some p =>
    let g := a.addr.toNat
    let die := dieOfCore c
    let own := ReqOwner.threadAcc c t
    let amo (kind n fn ord : Nat) : BitVec 16 × State :=
      s.request p die own opAmo (amoByte kind fn ord) g n
        (leBytes n a.rb.toNat ++ (if fn = 2 && kind < 2 then leBytes n a.cmp.toNat else []))
    let r := match a.kind with
      | .load n _ => s.request p die own opRead 0 g n []
      | .amo64 fn ord => amo 0 8 fn.toNat ord.toNat
      | .amo32 fn ord => amo 1 4 fn.toNat ord.toNat
      | .amof fn ord => amo 2 4 fn.toNat ord.toNat
      | .semAcq _ => s.request p die own opAmo (amoByte 3 0 1) g 16 (semBytes (s.semReq c t true (a.rb.toNat % 2 ^ 32)))
      | .semRel _ => s.request p die own opAmo (amoByte 4 0 2) g 16 (semBytes (s.semReq c t false (a.rb.toNat % 2 ^ 32)))
      | .heldStore => (0, s)
    let slot := match a.kind with
      | .semAcq _ => if (s.part p).cfg.leaseMax = 0 then none else s.leaseSlot p
      | _ => none
    r.2.modThread c t fun x => { x with acc := some { a with tag := some r.1, lslot := slot } }

/-- The access waits for every earlier store of its thread: an atomic with release, or SEM release (R60). -/
def AccKind.releases : AccKind → Bool
  | .amo64 _ ord => ord.getLsbD 1
  | .amo32 _ ord => ord.getLsbD 1
  | .amof _ ord => ord.getLsbD 1
  | .semRel _ => true
  | _ => false

def AccKind.isSem : AccKind → Bool
  | .semAcq _ => true
  | .semRel _ => true
  | _ => false

/-- A remote access of the thread that has not been sent is sent, once R60 and its lease allow. -/
def State.kickAcc (s : State) (c : CoreId) (t : ThreadId) : State :=
  let x := s.thread c t
  match x.acc with
  | none => s
  | some a =>
    if a.kind == .heldStore || s.isLocal a.addr.toNat || a.tag.isSome then s
    else if a.kind.releases && !x.stores.isEmpty then s
    else
      match a.kind with
      | .semAcq pd => if s.leaseGone c t a.addr then s.semExpired c t a pd else s.sendAcc c t a
      | .semRel pd => if s.leaseGone c t a.addr then s.semExpired c t a pd else s.sendAcc c t a
      | _ => s.sendAcc c t a

/-! ### Issue (R31, R37) -/

/-- A load, atomic or SEM issues: the thread waits for its data. -/
def State.issueAcc (s : State) (c : CoreId) (t : ThreadId) (w : IWord) (form : AccForm) (n : Nat) (g : Word)
    (kind : AccKind) : State :=
  match s.accessFault c form g.toNat n with
  | some cause => s.freezeThread c t cause (localPart g.toNat)
  | none =>
    let x := s.thread c t
    let a : Acc := { kind := kind, rd := wRd w, addr := g, rb := x.reg (wRb w), cmp := x.reg (wRd w), tag := none }
    (s.modThread c t fun x => { x with st := .waitMem, acc := some a }).kickAcc c t

/-- The address of format M: the base and an immediate scaled by the access size (R36). -/
def memAddr (x : Thread) (w : IWord) (n : Nat) : Word := x.reg (wRa w) + wImm10 w * BitVec.ofNat 64 n

def State.loadInstr (s : State) (c : CoreId) (t : ThreadId) (i : IName) (w : IWord) (n : Nat) (signed : Bool) : State :=
  s.issueInstr c t i w fun s => s.issueAcc c t w .load n (memAddr (s.thread c t) w n) (.load n signed)

/-- A store joins the thread's unperformed stores; a remote one is sent. -/
def State.addStore (s : State) (c : CoreId) (t : ThreadId) (y : Store) : State :=
  let g := y.addr.toNat
  if s.isLocal g then s.modThread c t fun x => { x with stores := x.stores ++ [y] }
  else
    match s.owner c with
    | none => s
    | some p =>
      let r := s.request p (dieOfCore c) (.threadStore c t) opWrite 0 g y.size (leBytes y.size y.val.toNat)
      r.2.modThread c t fun x => { x with stores := x.stores ++ [{ y with tag := some r.1 }] }

/-- A store issues; the ninth unperformed one is held and its thread waits (R31). -/
def State.storeInstr (s : State) (c : CoreId) (t : ThreadId) (i : IName) (w : IWord) (n : Nat) : State :=
  s.issueInstr c t i w fun s =>
    let x := s.thread c t
    let g := memAddr x w n
    match s.accessFault c .store g.toNat n with
    | some cause => s.freezeThread c t cause (localPart g.toNat)
    | none =>
      let y : Store := { addr := g, size := n, val := x.reg (wRd w), tag := none }
      if x.stores.length < 8 then (s.addStore c t y).advance c t
      else s.modThread c t fun x =>
        { x with st := .waitMem, held := some y,
                 acc := some { kind := .heldStore, rd := 0, addr := g, rb := 0, cmp := 0, tag := none } }

/-- The i-th unperformed store of a thread is performed: a held store follows, and a waiting release is sent. -/
def State.storeGone (s : State) (c : CoreId) (t : ThreadId) (i : Nat) : State :=
  let s := s.modThread c t fun x => { x with stores := x.stores.eraseIdx i }
  match (s.thread c t).held with
  | some y =>
    let s := s.modThread c t fun x => { x with held := none }
    (s.addStore c t y).retireAcc c t fun x => x
  | none => s.kickAcc c t

/-- Bytes [a, a + n) and [b, b + m) share a byte. -/
def sharesByte (a n b m : Nat) : Bool := decide (a < b + m) && decide (b < a + n)

/-! ### Loads, stores and FENCE (R37, R59) -/

def execLdb (c : CoreId) (t : ThreadId) (w : IWord) (s : State) : Host.Outcome State Fault Refusal :=
  .next (s.loadInstr c t .ldb w 1 false)

def execLdh (c : CoreId) (t : ThreadId) (w : IWord) (s : State) : Host.Outcome State Fault Refusal :=
  .next (s.loadInstr c t .ldh w 2 false)

def execLdw (c : CoreId) (t : ThreadId) (w : IWord) (s : State) : Host.Outcome State Fault Refusal :=
  .next (s.loadInstr c t .ldw w 4 false)

def execLdd (c : CoreId) (t : ThreadId) (w : IWord) (s : State) : Host.Outcome State Fault Refusal :=
  .next (s.loadInstr c t .ldd w 8 false)

def execLdws (c : CoreId) (t : ThreadId) (w : IWord) (s : State) : Host.Outcome State Fault Refusal :=
  .next (s.loadInstr c t .ldws w 4 true)

def execStb (c : CoreId) (t : ThreadId) (w : IWord) (s : State) : Host.Outcome State Fault Refusal :=
  .next (s.storeInstr c t .stb w 1)

def execSth (c : CoreId) (t : ThreadId) (w : IWord) (s : State) : Host.Outcome State Fault Refusal :=
  .next (s.storeInstr c t .sth w 2)

def execStw (c : CoreId) (t : ThreadId) (w : IWord) (s : State) : Host.Outcome State Fault Refusal :=
  .next (s.storeInstr c t .stw w 4)

def execStd (c : CoreId) (t : ThreadId) (w : IWord) (s : State) : Host.Outcome State Fault Refusal :=
  .next (s.storeInstr c t .std w 8)

/-- A store of the thread that a FENCE of this scope waits for is unperformed: SYSTEM waits for remote ones too. -/
def Thread.fenceWaits (s : State) (x : Thread) (scope : Nat) : Bool :=
  if scope = 2 then !x.stores.isEmpty else x.localStores s

/-- FENCE retires when the earlier accesses that its scope orders are performed; until then the thread stays READY at
it (R34, R59). The word that a fetch brings is the operand of its command, so INSTR has no further effect here (notes/assumptions/3.md). -/
def execFence (c : CoreId) (t : ThreadId) (w : IWord) (s : State) : Host.Outcome State Fault Refusal :=
  .next (s.issueInstr c t .fence w fun u =>
    if (s.thread c t).fenceWaits s (wBits w 1 0) then s else u.advance c t)

/-! ### Atomics and SEM (R37, R39, R65) -/

/-- An atomic or SEM: the address is ra. -/
def State.atomicInstr (s : State) (c : CoreId) (t : ThreadId) (i : IName) (w : IWord) (form : AccForm) (n : Nat)
    (kind : AccKind) : State :=
  s.issueInstr c t i w fun s => s.issueAcc c t w form n ((s.thread c t).reg (wRa w)) kind

def execAmo64 (c : CoreId) (t : ThreadId) (w : IWord) (s : State) : Host.Outcome State Fault Refusal :=
  .next (s.atomicInstr c t .amo64 w .atomic 8 (.amo64 (wAfn w) (wOrd w)))

def execAmo32 (c : CoreId) (t : ThreadId) (w : IWord) (s : State) : Host.Outcome State Fault Refusal :=
  .next (s.atomicInstr c t .amo32 w .atomic 4 (.amo32 (wAfn w) (wOrd w)))

def execAmof (c : CoreId) (t : ThreadId) (w : IWord) (s : State) : Host.Outcome State Fault Refusal :=
  .next (s.atomicInstr c t .amof w .atomic 4 (.amof (wAfn w) (wOrd w)))

def execSemAcquire (c : CoreId) (t : ThreadId) (w : IWord) (s : State) : Host.Outcome State Fault Refusal :=
  .next (s.atomicInstr c t .semAcquire w .sem 8 (.semAcq (wPd w)))

def execSemRelease (c : CoreId) (t : ThreadId) (w : IWord) (s : State) : Host.Outcome State Fault Refusal :=
  .next (s.atomicInstr c t .semRelease w .sem 8 (.semRel (wPd w)))

/-! ### LOAD_DATA_RETURN (R31) -/

/-- An access of the memory side at a local address: uncorrectable data freeze the thread (R229). -/
def State.withSector (s : State) (c : CoreId) (t : ThreadId) (bad : BadSectors) (a n : Nat) (f : State → State) : State :=
  match s.uncorrectable bad a n with
  | some x => (s.noteUncorrectable x).freezeThread c t cUncorrectable (x * 64)
  | none => f s

/-- An atomic of n bytes at the memory side (R39): rd receives the old value. -/
def State.atomicHere (s : State) (c : CoreId) (t : ThreadId) (bad : BadSectors) (a : Acc) (n : Nat) (f : Nat → Nat) :
    State :=
  let at' := localPart a.addr.toNat
  s.withSector c t bad at' n fun s =>
    let old := s.rdN at' n
    (s.storeN at' n (f old)).retireAcc c t fun x => x.setReg a.rd (BitVec.ofNat 64 old)

/-- SEM at the memory side of this module. -/
def State.semHere (s : State) (c : CoreId) (t : ThreadId) (bad : BadSectors) (a : Acc) (acq : Bool) (pd : BitVec 3) : State :=
  let at' := localPart a.addr.toNat
  if s.leaseGone c t a.addr then s.semExpired c t a pd
  else s.withSector c t bad at' 8 fun s =>
    let r := semStep (s.rdN at' 8) (s.semReq c t acq (a.rb.toNat % 2 ^ 32))
    let s := if r.word = s.rdN at' 8 then s else s.storeN at' 8 r.word
    s.semDone c t a (s.leaseSlot ((s.owner c).getD 0)) acq pd r.ok r.xp r.freed

/-- NEAR_EDC of a channel that serves, with the CRC retries that succeeded without a retrain and the on-die corrections
since it was last read: free numbers (R228, notes/assumptions/46.md). -/
def State.tickChan (s : State) (ch : ChanId) : State :=
  if !(s.chan ch).serves then s
  else
    let (v, s) := s.fresh
    let (w, s) := s.fresh
    s.modChan ch fun c => { c with retries := c.retries + v.setWidth 24, eccCorr := c.eccCorr + w.setWidth 24 }

/-- FAR_ERR of a port that is up, with the device event records that the module read and the replays of its link since it was
last read: free numbers (R239, notes/assumptions/46.md). -/
def State.tickFar (s : State) (p : PortId) : State :=
  if (vget s.tier.far p).st != .up then s
  else
    let (v, s) := s.fresh
    let (w, s) := s.fresh
    s.modFar p fun f => { f with events := f.events + v.setWidth 16, replays := f.replays + w.setWidth 32 }

/-- ETH_FEC of a port that is up, with the codewords corrected and not correctable since it was last read: free numbers (R338,
notes/assumptions/46.md). -/
def State.tickEth (s : State) (p : PortId) : State :=
  if (s.eth p).st != .up then s
  else
    let (v, s) := s.fresh
    let (w, s) := s.fresh
    s.modEth p fun e => { e with fecCorr := e.fecCorr + v.setWidth 32, fecUnc := e.fecUnc + w.setWidth 32 }

/-- What runs on between commands is brought up to date before a register that counts it is read: CORE_CYC, NEAR_EDC, FAR_ERR and
ETH_FEC (R67, R228, R239, R338, notes/assumptions/3.md and 46.md). -/
def State.sampleReg (s : State) (a : Nat) : State :=
  match regionOf a with
  | .coreReg c unit off => if unit = 0 && off = 0x10 then s.tickCore c else s
  | .modReg b off =>
    if b = 0x08 && off = 0x48 then s.tickEth 0
    else if b = 0x09 && off = 0x48 then s.tickEth 1
    else if b = 0x28 && off = 0x20 then s.tickFar 0
    else if b = 0x29 && off = 0x20 then s.tickFar 1
    else if off = 0x08 && decide (0x100 ≤ b) then
      match toFin? 192 (b - 0x100) with
      | some ch => s.tickChan ch
      | none => s
    else s
  | _ => s

/-- The data of a local access come back. -/
def State.returnAcc (s : State) (c : CoreId) (t : ThreadId) (bad : BadSectors) (a : Acc) : State :=
  let at' := localPart a.addr.toNat
  match a.kind with
  | .load n signed =>
    if isRegAddr at' then
      let s := s.sampleReg at'
      match s.regAt at' with
      | some v => s.retireAcc c t fun x => x.setReg a.rd (BitVec.ofNat 64 v)
      | none => s.freezeThread c t cAddress at'
    else s.withSector c t bad at' n fun s =>
      s.retireAcc c t fun x => x.setReg a.rd (loadValue n signed (s.rdN at' n))
  | .amo64 fn _ => s.atomicHere c t bad a 8 fun old => amoNew 8 fn.toNat old a.rb.toNat a.cmp.toNat
  | .amo32 fn _ => s.atomicHere c t bad a 4 fun old => amoNew 4 fn.toNat old a.rb.toNat a.cmp.toNat
  | .amof fn _ => s.atomicHere c t bad a 4 fun old => amofNew fn.toNat old a.rb.toNat
  | .semAcq pd => s.semHere c t bad a true pd
  | .semRel pd => s.semHere c t bad a false pd
  | .heldStore => s

def AccKind.bytes : AccKind → Nat
  | .load n _ => n
  | .amo64 _ _ => 8
  | .amo32 _ _ => 4
  | .amof _ _ => 4
  | .semAcq _ => 8
  | .semRel _ => 8
  | .heldStore => 0

/-- The access must wait for a store of its thread (R58, R60). -/
def Thread.accWaits (x : Thread) (a : Acc) : Bool :=
  (a.kind.releases && !x.stores.isEmpty) ||
  x.stores.any fun y => sharesByte a.addr.toNat a.kind.bytes y.addr.toNat y.size

/-- The data of a remote access come with its RDATA (R278), which is a row of its own. -/
def execLoadDataReturn (c : CoreId) (t : ThreadId) (bad : BadSectors) (s : State) : Host.Outcome State Fault Refusal :=
  let x := s.thread c t
  .next (match x.st, x.acc with
    | .waitMem, some a =>
      if !s.isLocal a.addr.toNat || x.accWaits a then s else s.returnAcc c t bad a
    | _, _ => s)

end Sys2Proof.Machine
end

