-- ==== Sys2Proof/Machine/Fabric.lean ====
section
/-! DEFINITION. The fabric: flits, retries and credits (R265 to R268), links and fail-over (R269 to R271), positions
(R273), transit (R274, R275), requests at their target and responses at their requester (R278, R279, R384, R386). What
the specification leaves open of flits and messages is notes/assumptions/11.md and 14.md. -/

namespace Sys2Proof.Machine

/-! ### Links and fail-over (R269, R271) -/

def linkDim (l : LinkId) : Nat := l.val / 4
def linkDir (l : LinkId) : Nat := l.val / 2 % 2

/-- The traffic of a link moves to its pair link, unacknowledged messages first. While the pair link is not UP either, the
messages are routed again: they wait in the even link's queue, or take the other direction of a dimension of size 2
(R271, R274). -/
def State.toPair (s : State) (l : LinkId) : State :=
  let k := s.link l
  let ms := k.retry.flatMap OutFlit.msgs ++ k.outq
  let s := s.modLink l fun k =>
    { k with retry := [], outq := [], onPair := if k.failover then k.onPair else [], failover := true,
             failovers := if k.failover then k.failovers else k.failovers + 1 }
  if (s.link (pairOf l)).st == .up then
    (s.modLink (pairOf l) fun p => { p with outq := p.outq ++ ms, failover := false, onPair := [] }).pump (pairOf l)
  else s.each ms fun s m =>
    if m.cls = 0 then s.enqueue (evenOf l) m else s.forward m (l.val % 2) (some (l, m.vc))

/-- Messages queued for a hop of which both links are RETIRED are routed again, and refused where the hop cannot be made
(R274, R279). -/
def State.refuseQueued (s : State) (l : LinkId) : State :=
  let e := evenOf l
  if (s.link l).st == .retired && (s.link (pairOf l)).st == .retired then
    let ms := (s.link e).outq
    (s.modLink e fun k => { k with outq := [] }).each ms fun s m => s.forward m (l.val % 2) (some (l, m.vc))
  else s

/-- A link is retired: ledger and host are told, and its function is RETIRED (R269, R374, R382). -/
def State.retireLink (s : State) (l : LinkId) (cls : Nat) : State :=
  let s := (((s.modLink l fun k => { k with st := .down }).toPair l).modLink l fun k => { k with st := .retired }).refuseQueued l
  let s := s.noteRetired 0xFF cls l.val l.val
  match toFin? 32 (8 + l.val) with
  | some fn => s.retireFn fn
  | none => s

/-- A link leaves UP to retrain (R268, R269); a crossing of class 2 retires it (R303, R372). -/
def State.retrainLink (s : State) (l : LinkId) : State :=
  let s := (s.modLink l fun k =>
    { k with st := .training, retrains := k.retrains + 1, retrainEvents := k.retrainEvents + 1, replays := 0,
             flitOk := false, trained := false, partSlots := [] }).toPair l
  let s := s.sendTrain l
  let (x, s) := s.crosses 2 (s.link l).retrainEvents
  if x then s.retireLink l 2 else s

/-! ### Flits (R265, R268) -/

/-- Sequence numbers from a on that an acknowledgement of x covers. -/
def acked (x n : BitVec 12) : Bool := (x - n).toNat < 2048

/-- An acknowledgement frees retry-buffer entries, here and in the list of messages that took this link for its pair. -/
def State.takeAck (s : State) (l : LinkId) (a : BitVec 12) : State :=
  let some' := (s.link l).retry.any fun x => acked a x.seq
  (s.modLink l fun k =>
    { k with retry := k.retry.filter fun x => !acked a x.seq, replays := if some' then 0 else k.replays }).modLink
    (pairOf l) fun k => { k with onPair := k.onPair.filter fun x => !acked a x }

/-- Returned credits are the sender's again (R267, R276). -/
def Link.addCredits (k : Link) (p : PartId) (v : Fin 8) (n : Byte) : Link :=
  if v.val < 2 then { k with haspAvail := k.haspAvail + n }
  else { k with avail := vmod k.avail p fun c => vmod c v fun x => x + n }

/-- The acknowledgement and credits of a flit. -/
def State.flitHeader (s : State) (l : LinkId) (f : Flit) : State :=
  let s := if f.ackv then s.takeAck l f.ack else s
  if f.cv then s.modLink l fun k => k.addCredits f.cpart f.cvc f.ccnt else s

/-- What the FEC found of a codeword is counted (FAB_FEC). -/
def State.countFec (s : State) (l : LinkId) (f : Flit) : State :=
  match f.fec with
  | .corrected => s.modLink l fun k => { k with fecCorr := k.fecCorr + 1 }
  | .uncorrectable => s.modLink l fun k => { k with fecUnc := k.fecUnc + 1 }
  | _ => s

/-- A flit that fails its CRC or its codeword is discarded, and RETRY asks for the expected SEQ (R265, R268). -/
def State.discardFlit (s : State) (l : LinkId) (f : Flit) : State := (s.countFec l f).sendRetry l

/-- A message slot as bytes. -/
def slotBytes (x : BitVec 384) : List Byte := leBytes 48 x.toNat

def msgOps : List (Nat × Nat) :=
  [(0x01, 1), (0x02, 1), (0x03, 1), (0x10, 2), (0x11, 2), (0x12, 2), (0x20, 3), (0x21, 3), (0x30, 0)]

/-- A message from its header and data (R266). -/
def msgOf (b : List Byte) : Msg :=
  let f (a n : Nat) : Nat := leNat ((b.drop a).take n)
  let len := f 14 2
  { cls := BitVec.ofNat 2 (f 0 1), vc := BitVec.ofNat 1 (f 0 1 / 4), op := BitVec.ofNat 8 (f 1 1),
    part := BitVec.ofNat 4 (f 2 1), fn := BitVec.ofNat 8 (f 3 1), dest := BitVec.ofNat 18 (f 4 4),
    src := BitVec.ofNat 18 (f 8 4), tag := BitVec.ofNat 16 (f 12 2), len := BitVec.ofNat 16 len,
    addr := BitVec.ofNat 46 (f 16 8), data := if f 1 1 = 0x01 then [] else (b.drop 24).take len }

/-- Its reserved bits are zero, and its code, class and length are those of R266. -/
def msgGood (b : List Byte) : Bool :=
  let f (a n : Nat) : Nat := leNat ((b.drop a).take n)
  let len := f 14 2
  f 0 1 / 64 = 0 && f 2 1 / 16 = 0 && f 4 4 / 2 ^ 18 = 0 && f 8 4 / 2 ^ 18 = 0 && f 16 8 / 2 ^ 46 = 0 &&
  msgOps.contains (f 1 1, f 0 1 % 4) && len ≤ 256 &&
  f 0 1 / 8 % 8 + 1 = (24 + (if f 1 1 = 0x01 then 0 else len) + 47) / 48

/-- The messages that a run of slots completes, and the slots of one that goes on. -/
def takeMsgs : Nat → List (BitVec 384) → List (List Byte) × List (BitVec 384)
  | 0, xs => ([], xs)
  | n + 1, xs =>
    match xs with
    | [] => ([], [])
    | x :: rest =>
      let b0 := (slotBytes x).headD 0
      if b0 = 0xFF then takeMsgs n rest
      else
        let k := b0.toNat / 8 % 8 + 1
        if xs.length < k then ([], xs)
        else
          let (ms, left) := takeMsgs n (xs.drop k)
          (((xs.take k).flatMap slotBytes) :: ms, left)

/-- FAB_VIOL latches a refused or malformed message (R266, R279). -/
def State.latchViol (s : State) (l : LinkId) (cause : Nat) (m : Msg) : State :=
  s.modLink l fun k =>
    if k.vValid then k else { k with vValid := true, vCause := BitVec.ofNat 4 cause, vPart := m.part, vSrc := m.src }

/-- Slots of a message have drained: their credits go back to the sender with the flits that leave (R276). -/
def State.returnSlots (s : State) (l : LinkId) (m : Msg) (n : Nat) : State :=
  s.modLink l fun k => { k with returned := k.returned ++ [((toFin? 16 m.part.toNat).getD 0, msgChan m, n)] }

/-- A whole message arrives on a link: it stays here, or goes on. Its header does not say which pair it takes, so a transit
module keeps it on the pair of the link it came on (R266, R274, R277; DESIGN CHOICE, notes/assumptions/11.md). -/
def State.deliver (s : State) (l : LinkId) (b : List Byte) : State :=
  let m := msgOf b
  if !msgGood b then (s.latchViol l 0xF m).returnSlots l m (b.length / 48)
  else if m.cls = 0 || m.dest = s.fab.moduleId then s.modFab fun f => { f with fabIn := f.fabIn ++ [(l, m)] }
  else (s.returnSlots l m (msgSlots m)).forward m (l.val % 2) (some (l, m.vc))

/-- A DATA flit is accepted only in SEQ order (R268). -/
def State.dataFlit (s : State) (l : LinkId) (f : Flit) : State :=
  let k := s.link l
  if k.st != .up then s
  else if !f.good then s.discardFlit l f
  else if f.seq ≠ k.expSeq then s
  else
    let s := (s.countFec l f).flitHeader l f
    let xs := k.partSlots ++ f.slots.take 13
    let (ms, left) := takeMsgs xs.length xs
    let s := s.modLink l fun k =>
      { k with expSeq := k.expSeq + 1, rx := k.rx + 1, partSlots := left, acks := true, ackDue := true }
    (s.each ms fun s b => s.deliver l b).pump l

def execDataFlitReceive (l : LinkId) (f : Flit) (s : State) : Host.Outcome State Fault Refusal := .next (s.dataFlit l f)

def execIdleFlitReceive (l : LinkId) (f : Flit) (s : State) : Host.Outcome State Fault Refusal :=
  .next (if (s.link l).st != .up then s
    else if !f.good then s.discardFlit l f
    else ((s.countFec l f).flitHeader l f).pump l)

/-- The sender replays from the SEQ that the receiver expects; after 8 replays of one SEQ it retrains (R268). -/
def execRetryFlitReceive (l : LinkId) (f : Flit) (s : State) : Host.Outcome State Fault Refusal :=
  .next (if (s.link l).st != .up then s
    else if !f.good then s.discardFlit l f
    else
      let s := (s.countFec l f).takeAck l (f.ack - 1)
      let s := if f.cv then s.modLink l fun k => k.addCredits f.cpart f.cvc f.ccnt else s
      if (s.link l).retry.isEmpty then s.pump l
      else
        let s := s.modLink l fun k => { k with retries := k.retries + 1, replays := k.replays + 1 }
        if 8 ≤ (s.link l).replays then s.retrainLink l
        else (s.each (s.link l).retry fun s x => s.emit l x).pump l)

/-! ### Training and positions (R270, R273) -/

/-- An image is applied. -/
def State.imaged (s : State) : Bool := !s.esp.sections.isEmpty

/-- Coordinate d of an ID replaced. -/
def setCoord (id d v : Nat) : Nat := id - coord id d * 8 ^ d + v * 8 ^ d

/-- The position of the module on the other side of link l of a module at `id`. -/
def State.beyond (s : State) (l : LinkId) (id : Nat) : Nat :=
  let d := linkDim l
  let n := max 1 (s.torusSize d)
  setCoord id d (if linkDir l = 0 then (coord id d + 1) % n else (coord id d + n - 1) % n)

/-- The position that a neighbour at `q` on link l gives this module (R273). -/
def State.fromPeer (s : State) (l : LinkId) (q : Nat) : Nat :=
  let d := linkDim l
  let n := max 1 (s.torusSize d)
  setCoord q d (if linkDir l = 0 then (coord q d + n - 1) % n else (coord q d + 1) % n)

/-- What this module says of itself goes out on every link that trains (R270). -/
def State.tellPeers (s : State) : State :=
  s.each (List.finRange 24) fun s l =>
    if (s.link l).st == .training || (s.link l).st == .failover then s.sendTrain l else s

/-- ORIGIN's position, or that of the first neighbour that reports one (R273). -/
def State.establish (s : State) : State :=
  if s.fab.posValid || !s.imaged then s
  else if s.fab.origin then (s.modFab fun f => { f with posValid := true, moduleId := 0 }).tellPeers
  else match (List.finRange 24).find? fun l => (s.link l).peerValid && (s.link l).peer.posValid with
    | some l => (s.modFab fun f =>
        { f with posValid := true, moduleId := BitVec.ofNat 18 (s.fromPeer l (s.link l).peer.module.toNat) }).tellPeers
    | none => s

/-- The first peer check that fails, or none (R270). -/
def State.peerCheck (s : State) (l : LinkId) : Option Byte :=
  let p := (s.link l).peer
  if p.link.toNat ≠ l.val ^^^ 2 then some 1
  else if !((List.range 6).all fun d => ((vat p.sizes d).getD 0).toNat = s.torusSize d) then some 2
  else if p.hash ≠ s.fab.sysHash then some 3
  else if s.beyond l s.fab.moduleId.toNat ≠ p.module.toNat then some 4
  else none

/-- A link becomes UP with the credits of the image; its sequence numbers start afresh, the ledger's counters are updated,
and where its pair link is not UP it takes what waits for either (R269, R271). -/
def State.linkUp (s : State) (l : LinkId) : State :=
  let s := s.modLink l fun k =>
    { k with st := .up, rcause := 0, haspAvail := k.haspCred, avail := k.cred, nextSeq := 0, expSeq := 0, retry := [],
             replays := 0, partSlots := [], returned := [], acks := false, ackDue := false }
  let s := s.ledger 7
  let p := pairOf l
  if (s.link p).st == .up then
    (s.modLink l fun k => { k with failover := k.failover && !(k.onPair.isEmpty && (s.link p).outq.isEmpty) }).pump l
  else
    let ms := (s.link (evenOf l)).outq
    let s := (s.modLink (evenOf l) fun k => { k with outq := [] }).modLink p fun k => { k with failover := true, onPair := [] }
    (s.modLink l fun k => { k with outq := ms, failover := false, onPair := [] }).pump l

/-- The link belongs to a dimension of size 1 (R272). -/
def State.unused (s : State) (l : LinkId) : Bool := s.torusSize (linkDim l) ≤ 1

/-- The peer checks of a link whose training is complete; while no image is loaded or a position is unknown, it holds. -/
def State.checkLink (s : State) (l : LinkId) : State :=
  let k := s.link l
  if (k.st != .training && k.st != .failover) || !s.imaged then s
  else if s.unused l then s.modLink l fun k => { k with st := .down, flitOk := false, trained := false }
  else if !k.trained then s
  else match s.peerCheck l with
    | none => if s.fab.posValid && k.peer.posValid then s.linkUp l else s
    | some x =>
      if x = 4 && !(s.fab.posValid && k.peer.posValid) then s
      else (s.modLink l fun k => { k with st := .refused, rcause := x }).notify
        { code := nLinkRefused, part := 0xFF, unit := 0, id := BitVec.ofNat 64 l.val, detail := x.setWidth 64 }

/-- A TRAIN flit brings what the peer says of itself; in UP or REFUSED it means that the peer retrains (R269, R270). -/
def execTrainFlitReceive (l : LinkId) (i : TrainInfo) (s : State) : Host.Outcome State Fault Refusal :=
  let take (s : State) : State :=
    let s := (s.modLink l fun k => { k with peerValid := true, peer := i, flitOk := true }).establish
    s.each (List.finRange 24) fun s l => s.checkLink l
  .next (match (s.link l).st with
    | .training => take s
    | .failover => take s
    | .up => take (s.retrainLink l)
    | .refused => take ((s.modLink l fun k => { k with st := .training, rcause := 0, trained := false }).sendTrain l)
    | _ => s)

/-- Electrical and flit training pass. -/
def execLinkTrainingDone (l : LinkId) (s : State) : Host.Outcome State Fault Refusal :=
  let k := s.link l
  .next (if (k.st != .training && k.st != .failover) || !k.flitOk then s
    else (s.modLink l fun k => { k with trained := true }).checkLink l)

/-- Training fails: fail-over, or retirement once class 3 is crossed (R269, R372). -/
def execLinkTrainingFail (l : LinkId) (s : State) : Host.Outcome State Fault Refusal :=
  let st := (s.link l).st
  .next (if st != .training && st != .failover then s
    else
      let s := s.modLink l fun k => { k with failEvents := k.failEvents + 1, flitOk := false, trained := false }
      let (x, s) := s.crosses 3 (s.link l).failEvents
      if x then s.retireLink l 3
      else ((if st == .training then s.toPair l else s).modLink l fun k => { k with st := .failover }).sendTrain l)

/-- New messages return to a link that is UP again once every message that took its pair is acknowledged (R271). -/
def execFailoverReturn (l : LinkId) (s : State) : Host.Outcome State Fault Refusal :=
  let k := s.link l
  .next (if k.st == .up && k.failover && k.onPair.isEmpty && (s.link (pairOf l)).outq.isEmpty then
      (s.modLink l fun k => { k with failover := false }).pump l
    else s)

/-! ### Requests at their target (R279, R386) -/

/-- The i-th waiting message, if it has this code and no earlier one of its class, partition and source waits, on whichever
link it came (R280). -/
def State.inMsg (s : State) (i : Nat) (op : Byte) : Option (LinkId × Msg) :=
  match s.fab.fabIn[i]? with
  | some (l, m) =>
    if m.op = op && !((s.fab.fabIn.take i).any fun x =>
        x.2.cls = m.cls && x.2.part = m.part && x.2.src = m.src) then some (l, m) else none
  | none => none

/-- The message leaves its buffer. -/
def State.takeMsg (s : State) (i : Nat) (l : LinkId) (m : Msg) : State :=
  ((s.modFab fun f => { f with fabIn := f.fabIn.eraseIdx i }).returnSlots l m (msgSlots m)).pump l

/-- The answer to a request leaves from the die that holds the address. -/
def State.answer (s : State) (m : Msg) (op fn : Byte) (data : List Byte) : State :=
  s.forward (s.response m op fn data) (s.dieOf m.addr.toNat) none

/-- A refusal, with FAB_VIOL, and for a violation the frozen pair and its notice (R279, R384, R386). -/
def State.refuse (s : State) (l : LinkId) (m : Msg) (cause : Byte) : State :=
  let s := (s.latchViol l cause.toNat m).answer m opNack cause []
  match toFin? 16 m.part.toNat with
  | none => s
  | some p =>
    if cause = nackViolation && !s.fab.frozenPairs.contains (m.src, p) && s.fab.frozenPairs.length < 64 then
      (s.modFab fun f => { f with frozenPairs := f.frozenPairs ++ [(m.src, p)] }).noticeFrozen (BitVec.ofNat 8 p.val) 4
        m.src.toNat
    else s

/-- A far port that is RETIRED holds the address. -/
def State.farRetired (s : State) (a : Nat) : Bool :=
  match regionOf a with
  | .far o => (vget s.tier.far (s.farPlace o)).st == .retired
  | _ => false

/-- The target's checks of a request of n bytes (R25, R39, R229, R279, R386). -/
def State.requestFault (s : State) (m : Msg) (n : Nat) (bad : BadSectors) (rd wr atomic : Bool) : Option Byte :=
  let a := m.addr.toNat
  match toFin? 16 m.part.toNat with
  | none => some nackViolation
  | some p =>
    if s.fab.frozenPairs.contains (m.src, p) then some nackViolation
    else if atomic && (regionOf a != .near || a % n ≠ 0) then some nackViolation
    else if (rd && (s.violates p a n false).isSome) || (wr && (s.violates p a n true).isSome) || n = 0 then
      some nackViolation
    else if s.farRetired a then some nackRetired
    else if rd && (s.uncorrectable bad a n).isSome then some nackUncorrectable
    else none

/-- A request is checked, and refused or performed. -/
def State.serve (s : State) (i : Nat) (op : Byte) (n : Msg → Nat) (bad : BadSectors) (rd wr atomic : Bool)
    (f : State → Msg → State) : State :=
  match s.inMsg i op with
  | none => s
  | some (l, m) =>
    let s := s.takeMsg i l m
    match s.requestFault m (n m) bad rd wr atomic with
    | some x =>
      let s := if x = nackUncorrectable then
          (match s.uncorrectable bad m.addr.toNat (n m) with
           | some y => s.noteUncorrectable y
           | none => s)
        else s
      s.refuse l m x
    | none => f s m

def execFabRead (i : Nat) (bad : BadSectors) (s : State) : Host.Outcome State Fault Refusal :=
  .next (s.serve i opRead (fun m => m.len.toNat) bad true false false fun s m =>
    s.answer m opRdata 0 (s.rd m.addr.toNat m.len.toNat))

def execFabWrite (i : Nat) (s : State) : Host.Outcome State Fault Refusal :=
  .next (s.serve i opWrite (fun m => m.data.length) [] false true false fun s m =>
    (s.store m.addr.toNat m.data).answer m opAck 0 [])

def execBwrite (i : Nat) (s : State) : Host.Outcome State Fault Refusal :=
  .next (s.serve i opBwrite (fun m => m.data.length) [] false true false fun s m =>
    (s.store m.addr.toNat m.data).answer m opAck 0 [])

/-- An addition at this module's adders; ETYPE and FN are in FN[2:0] (R257, R266). -/
def execBadd (i : Nat) (bad : BadSectors) (s : State) : Host.Outcome State Fault Refusal :=
  .next (s.serve i opBadd (fun m => m.data.length) bad true true false fun s m =>
    (s.addInto m.addr.toNat (m.fn.toNat % 4) (m.fn.getLsbD 2) m.data).answer m opAck 0 [])

/-! ### Atomics at their target (R39, R65; the form of the messages is notes/assumptions/14.md) -/

/-- What a SEM message says (the form of semBytes). -/
def semOfMsg (acq : Bool) (m : Msg) : SemReq :=
  let f (a n : Nat) : Nat := leNat ((m.data.drop a).take n)
  let h := f 4 4
  let l := f 8 8
  { acq := acq, n := f 0 4, part := h / 2 ^ 16 % 16, core := h / 2 ^ 5 % 256, thread := h % 32,
    lease := if l / 2 ^ 63 % 2 = 1 then some (l / 128 % 64, l % 128) else none }

/-- The expiry of a lease at the memory side: the word that held it gets its count back (R334). -/
def expireWord (w slot gen n : Nat) : Option Nat :=
  if bitsOf w 63 62 = 3 && bitsOf w 44 39 = slot && bitsOf w 38 32 = gen then
    some ((w / 2 ^ 32 % 2 ^ 30 + 2 ^ 31) * 2 ^ 32 + min (w % 2 ^ 32 + n) (2 ^ 32 - 1))
  else none

/-- Bytes an atomic message addresses: 4 for AMO32 and AMOF, 64 for a step on a shard record, 8 for the others. -/
def amoSize (m : Msg) : Nat :=
  if m.fn.toNat / 16 = 1 || m.fn.toNat / 16 = 2 then 4 else if fnTake.toNat ≤ m.fn.toNat then 64 else 8

def execFabAmo (i : Nat) (bad : BadSectors) (s : State) : Host.Outcome State Fault Refusal :=
  .next (s.serve i opAmo amoSize bad true true true fun s m =>
    let a := m.addr.toNat
    let n := amoSize m
    if n = 64 then
      let (ans, s) := s.shardStep a m.fn (numsOf m.data)
      s.answer m opRdata 0 (numBytes ans)
    else
    let old := s.rdN a n
    let fn := m.fn.toNat / 4 % 4
    let rb := leNat (m.data.take n)
    let cmp := leNat ((m.data.drop n).take n)
    match m.fn.toNat / 16 with
    | 2 => (s.storeN a n (amofNew fn old rb)).answer m opRdata 0 (leBytes n old)
    | 3 =>
      let r := semStep old (semOfMsg true m)
      (if r.word = old then s else s.storeN a 8 r.word).answer m opRdata 0
        (leBytes 8 (ofBool r.ok + 2 * ofBool r.xp + 4 * ofBool r.freed))
    | 4 =>
      let r := semStep old (semOfMsg false m)
      (if r.word = old then s else s.storeN a 8 r.word).answer m opRdata 0
        (leBytes 8 (ofBool r.ok + 2 * ofBool r.xp + 4 * ofBool r.freed))
    | 5 =>
      match expireWord old (leNat ((m.data.drop 4).take 1)) (leNat ((m.data.drop 5).take 1)) (leNat (m.data.take 4)) with
      | some w => (s.storeN a 8 w).answer m opRdata 0 (leBytes 8 1)
      | none => s.answer m opRdata 0 (leBytes 8 0)
    | _ => (s.storeN a n (amoNew n fn old rb cmp)).answer m opRdata 0 (leBytes n old))

/-! ### Operations and their responses -/

/-- The first transfer of an operation has performed its n bytes. -/
def advanceXfers (xs : List Xfer) (n : Nat) : List Xfer :=
  match xs with
  | [] => []
  | x :: rest => if x.len ≤ x.pos + n then rest else { x with pos := x.pos + n } :: rest

/-- An operation fails where it is (R279). -/
def State.failOp (s : State) (c : CoreId) (o : Op) (st : Status) : State := s.stopOp c o st

/-- All transfers of an operation are performed: what its chapter says follows. -/
def State.xfersDone (s : State) (c : CoreId) (o : Op) : State :=
  match o.work with
  | .publish w => s.pubGo c o [] pubFuel { w with step := 5 }
  | .coll w => s.collStepDone c o w
  | .failing => s
  | _ =>
    if dOpc o.desc = 0x73 then s.a2aDone c o.ticket
    else if dOpc o.desc = 0x68 then s.memredDone c o
    else if dOpc o.desc = 0x74 then s.finish c o.ticket stDone o.result
    else s.copyDone c o

/-- The transfers of an operation go on. -/
def State.goOn (s : State) (c : CoreId) (o : Op) (xs : List Xfer) : State :=
  match s.runXfers c o.ticket [] xs with
  | (.done, s) => s.xfersDone c o
  | (.waiting, s) => s
  | (.lost y, s) => (s.noteUncorrectable y).failOp c o stRetired

/-- A request has its response: it is no longer in flight. -/
def State.dropReq (s : State) (tag : BitVec 16) : State :=
  s.modFab fun f => { f with reqs := f.reqs.filter fun r => r.tag ≠ tag }

/-- The operation that waits for a tag, running, with the tag taken off it. -/
def State.opOf (s : State) (c : CoreId) (ticket : BitVec 32) (tag : BitVec 16) : Option Op × State :=
  let s := s.modOp c ticket fun o => { o with tags := o.tags.filter fun t => t ≠ tag }
  (s.running c ticket, s)

/-- Data of a remote read, or an atomic's old value, reach an operation. -/
def State.opData (s : State) (c : CoreId) (o : Op) (b : List Byte) : State :=
  match o.xfers with
  | [] => s
  | x :: rest =>
    let n := s.chunkLen x
    match x.kind with
    | .copy =>
      if s.isLocal x.dst then (s.store (localPart x.dst + x.pos) (b.take n)).goOn c o (advanceXfers o.xfers n)
      else s.opRequest c o.ticket opBwrite 0 (x.dst + x.pos) n (b.take n)
    | .adder f =>
      if s.isLocal x.dst then
        (s.addInto (localPart x.dst + x.pos) (f.toNat % 4) (f.getLsbD 2) (b.take n)).goOn c o (advanceXfers o.xfers n)
      else s.opRequest c o.ticket opBadd (f.setWidth 8) (x.dst + x.pos) n (b.take n)
    | .bump => s.goOn c o rest
    | .cursor base stride cap src rbytes origin =>
      let k := leNat (b.take 8)
      (s.countScript c o.ticket (if cap ≤ k then 2 else 0)).goOn c o (cursorNext base stride cap src rbytes origin k ++ rest)
    | .record => match o.work with
      | .coll w => s.collSees c o w b
      | _ => s
    | .shard _ _ => match o.work with
      | .publish w => s.pubAnswer c o w b
      | _ => s
    | _ => s

/-- An acknowledgement reaches an operation. -/
def State.opAcked (s : State) (c : CoreId) (o : Op) : State :=
  match o.xfers with
  | [] => if dOpc o.desc = 0x74 then s.ringPages c o else s
  | x :: _ => s.goOn c o (advanceXfers o.xfers (s.chunkLen x))

/-! ### Threads and their responses -/

/-- The result of a thread's remote access. -/
def State.accData (s : State) (c : CoreId) (t : ThreadId) (a : Acc) (b : List Byte) : State :=
  let reg (v : Word) : State := s.retireAcc c t fun x => x.setReg a.rd v
  let v := leNat b
  match a.kind with
  | .load n signed => reg (loadValue n signed v)
  | .amo64 _ _ => reg (BitVec.ofNat 64 v)
  | .amo32 _ _ => reg (BitVec.ofNat 64 (v % 2 ^ 32))
  | .amof _ _ => reg (BitVec.ofNat 64 (v % 2 ^ 32))
  | .semAcq pd => s.semDone c t a a.lslot true pd (v % 2 = 1) (v / 2 % 2 = 1) (v / 4 % 2 = 1)
  | .semRel pd => s.semDone c t a none false pd (v % 2 = 1) (v / 2 % 2 = 1) (v / 4 % 2 = 1)
  | .heldStore => s

/-- The access of a thread that waits for this tag. -/
def State.accOf (s : State) (c : CoreId) (t : ThreadId) (tag : BitVec 16) : Option Acc :=
  match (s.thread c t).acc with
  | some a => if a.tag = some tag && (s.thread c t).st == .waitMem then some a else none
  | none => none

/-- A lease that expired on a semaphore of another module: without a match its slot is freed (R334). -/
def State.leaseAnswer (s : State) (p : PartId) (slot : Fin 64) (hit : Bool) : State :=
  if hit then s.modPart p fun x => { x with leExpired := x.leExpired + 1 }
  else s.modPart p fun x => { x with leases := vmod x.leases slot fun l =>
    if l.expired then { l with used := false, expired := false } else l }

/-- A response is taken from the waiting messages with its request. -/
def State.takeResponse (s : State) (i : Nat) (op : Byte) : Option (Req × LinkId × Msg × State) :=
  match s.inMsg i op with
  | none => none
  | some (l, m) =>
    match s.fab.reqs.find? fun r => r.tag = m.tag with
    | none => some ({ tag := m.tag, owner := .posted }, l, m, s.takeMsg i l m)
    | some r => some (r, l, m, (s.takeMsg i l m).dropReq m.tag)

def execRdata (i : Nat) (s : State) : Host.Outcome State Fault Refusal :=
  .next (match s.takeResponse i opRdata with
    | none => s
    | some (r, _, m, s) =>
      match r.owner with
      | .threadAcc c t => match s.accOf c t r.tag with
        | some a => s.accData c t a m.data
        | none => s
      | .op c ticket => match s.opOf c ticket r.tag with
        | (some o, s) =>
          if o.work.isShard then s.entResponse c o r.tag fun s o a e => s.entData c o m.data a e else s.opData c o m.data
        | (none, s) => s
      | .lease p slot => s.leaseAnswer p slot (leNat m.data % 2 = 1)
      | _ => s)

/-- The unperformed store of a thread with this tag. -/
def State.storeOf (s : State) (c : CoreId) (t : ThreadId) (tag : BitVec 16) : Option Nat :=
  (s.thread c t).stores.findIdx? fun y => y.tag = some tag

def execFabAck (i : Nat) (s : State) : Host.Outcome State Fault Refusal :=
  .next (match s.takeResponse i opAck with
    | none => s
    | some (r, _, _, s) =>
      match r.owner with
      | .threadStore c t => match s.storeOf c t r.tag with
        | some k => s.storeGone c t k
        | none => s
      | .op c ticket => match s.opOf c ticket r.tag with
        | (some o, s) =>
          if o.work.isShard then s.entResponse c o r.tag fun s o a e => s.entAcked c o a e else s.opAcked c o
        | (none, s) => s
      | _ => s)

/-- The cause of a thread's freeze by a NACK (R229, R279). -/
def nackCause (fn : Byte) : Byte :=
  if fn = nackViolation then cAddress else if fn = nackUncorrectable then cUncorrectable else cUnreachable

/-- An IDLE or FROZEN thread has no row for a violation (R10, R31). -/
def State.nackThread (s : State) (c : CoreId) (t : ThreadId) (fn : Byte) (a : Nat) : State :=
  let st := (s.thread c t).st
  if st == .idle || st == .frozen then s
  else s.freezeThread c t (nackCause fn) (if fn = nackUncorrectable then a / 64 * 64 else a)

/-- A refusal reaches an operation (R279); a ring's refusal under step 2 of R292 is BAD_DESCRIPTOR. -/
def State.nackOp (s : State) (c : CoreId) (o : Op) (tag : BitVec 16) (fn : Byte) : State :=
  if fn = nackKvRing then s.finish c o.ticket stBadDesc 0
  else
    let s := if fn = nackViolation then s.noticeFrozen (partByte (s.owner c)) 2 (threadName c 0) else s
    if o.work.isShard then s.entResponse c o tag fun s o a e => s.entFailed c o stRetired a e else s.failOp c o stRetired

def execNack (i : Nat) (s : State) : Host.Outcome State Fault Refusal :=
  .next (match s.takeResponse i opNack with
    | none => s
    | some (r, _, m, s) =>
      match r.owner with
      | .threadAcc c t => match s.accOf c t r.tag with
        | some a => s.nackThread c t m.fn (localPart a.addr.toNat)
        | none => s
      | .threadStore c t => match s.storeOf c t r.tag with
        | some k => (s.modThread c t fun x => { x with stores := x.stores.eraseIdx k }).nackThread c t m.fn m.addr.toNat
        | none => s
      | .op c ticket => match s.opOf c ticket r.tag with
        | (some o, s) => s.nackOp c o r.tag m.fn
        | (none, s) => s
      | .lease p slot => s.leaseAnswer p slot false
      | .posted => s)

end Sys2Proof.Machine
end

