-- ==== Sys2Proof/Machine/Transport.lean ====
section
/-! DEFINITION. Ethernet frames (R338 to R344), FCT packets, streams and acknowledgements (R345 to R347), sessions (R348
to R350, R417, R418), and the CONTROL and DATA packets of the host (R351 to R354, R362). The form of what the module
sends is notes/assumptions/21.md. -/

namespace Sys2Proof.Machine

/-! ### Ports (R338 to R343) -/

/-- The module answers frames on a port: it is command-ready and the link is UP (R438). -/
def State.portTakes (s : State) (p : PortId) : Bool := s.ready && (s.eth p).st == .up

def State.countRx (s : State) (p : PortId) : State := s.modEth p fun e => { e with rx := e.rx + 1 }
def State.countTx (s : State) (p : PortId) : State := s.modEth p fun e => { e with tx := e.tx + 1 }
def State.countOther (s : State) (p : PortId) : State := s.modEth p fun e => { e with dropOther := e.dropOther + 1 }

/-- The module hands a port a frame that is not FCT. -/
def State.sendOther (s : State) (p : PortId) (f : EthFrame) : State :=
  (s.modFct fun u => { u with otherFrames := u.otherFrames ++ [f] }).countTx p

/-- A frame that is answered on the spot, or discarded and counted (R339). -/
def State.answered (s : State) (p : PortId) (answer : Option EthFrame) : State :=
  if !s.portTakes p then s
  else match answer with
    | some f => (s.countRx p).sendOther p f
    | none => s.countOther p

/-- The link-local address of a MAC address, as a modified EUI-64 (R340). -/
def linkLocal (mac : BitVec 48) : BitVec 128 :=
  let hi : BitVec 24 := (mac.extractLsb' 24 24) ^^^ 0x020000
  ((0xFE80000000000000 : BitVec 64) ++ hi) ++ ((0xFFFE : BitVec 16) ++ (mac.extractLsb' 0 24))

/-- An IPv6 address of the port (R340). -/
def Eth.hasIp6 (e : Eth) (a : BitVec 128) : Bool :=
  a = linkLocal e.mac || ((e.ip6Hi ++ e.ip6Lo) ≠ (0 : BitVec 128) && a = e.ip6Hi ++ e.ip6Lo)

/-- An address of the port (R340). -/
def Eth.has (e : Eth) : IpAddr → Bool
  | .v4 a => e.ip4Valid && e.ip4 = a
  | .v6 a => e.hasIp6 a

def execArpRequest (port : PortId) (mac : BitVec 48) (ip4 : BitVec 32) (s : State) : Host.Outcome State Fault Refusal :=
  .next (s.answered port (if (s.eth port).has (.v4 ip4) then some (.arpReply port mac ip4 (s.eth port).mac) else none))

def execNeighbourSolicitation (port : PortId) (mac : BitVec 48) (ip6 : BitVec 128) (s : State) :
    Host.Outcome State Fault Refusal :=
  .next (s.answered port
    (if (s.eth port).has (.v6 ip6) then some (.neighbourAdvert port mac ip6 (s.eth port).mac) else none))

def execEchoRequest (port : PortId) (mac : BitVec 48) (src dst : IpAddr) (data : List Byte) (s : State) :
    Host.Outcome State Fault Refusal :=
  .next (s.answered port
    (if (s.eth port).echo && (s.eth port).has dst then some (.echoReply port mac dst src data) else none))

def execOtherFrame (port : PortId) (s : State) : Host.Outcome State Fault Refusal :=
  .next (s.answered port none)

/-! ### Sending (R344, R346) -/

/-- The handle that a DATA packet of the module names. -/
def dataHandle (payload : List Byte) : BitVec 32 := BitVec.ofNat 32 (leNat (payload.take 4))

/-- The next DATA packet that waits gets its SEQ and is sent, while the window and the port allow. -/
def State.pumpBulkN (s : State) (i : Fin 64) : Nat → State
  | 0 => s
  | n + 1 =>
    let x := s.sess i
    match x.bulkWait with
    | [] => s
    | (_, payload) :: rest =>
      if bulkWindow ≤ x.bulkOut.length || (s.eth x.port).paused || (s.eth x.port).st != .up then s
      else
        let seq := x.bulkNext
        let s := s.modSess i fun x =>
          { x with bulkWait := rest, bulkOut := x.bulkOut ++ [(seq, payload)], bulkNext := x.bulkNext + 1 }
        (s.sendFrame i 0x12 (s.eth x.port).bulkPcp seq payload).pumpBulkN i n

def State.pumpBulk (s : State) (i : Fin 64) : State := s.pumpBulkN i (s.sess i).bulkWait.length

def State.pumpPort (s : State) (p : PortId) : State :=
  s.each (List.finRange 64) fun s i => if (s.sess i).isOpen && (s.sess i).port = p then s.pumpBulk i else s

/-- PFC is obeyed for the BULK priority alone (R343). -/
def execPfcFrame (port : PortId) (bulk pause : Bool) (s : State) : Host.Outcome State Fault Refusal :=
  .next (if !s.portTakes port then s
    else
      let s := s.modEth port fun e =>
        { e with rx := e.rx + 1, pfcReceived := e.pfcReceived + 1, paused := if bulk then pause else e.paused }
      s.pumpPort port)

def execPfcPauseExpiry (port : PortId) (s : State) : Host.Outcome State Fault Refusal :=
  .next (if (s.eth port).paused then (s.modEth port fun e => { e with paused := false }).pumpPort port else s)

/-- Data for the host under a handle, in packets of up to 8,192 bytes (R362). -/
def dataPackets (h : BitVec 32) (off : Nat) : Nat → List Byte → List (BitVec 32 × List Byte)
  | 0, _ => []
  | n + 1, bs =>
    if bs.isEmpty then []
    else (h, leBytes 4 h.toNat ++ [0, 0, 0, 0] ++ leBytes 8 off ++ bs.take 8192) :: dataPackets h (off + 8192) n (bs.drop 8192)

/-- A command returns data: it completes once the host has acknowledged them all (R363, R420). -/
def State.sendData (s : State) (h : BitVec 32) (bs : List Byte) : State :=
  match s.findCmd h with
  | none => s
  | some c =>
    let s := s.modCmd h fun c => { c with running := true, sentAll := true }
    (s.modSess c.sess fun x => { x with bulkWait := x.bulkWait ++ dataPackets h 0 (bs.length / 8192 + 1) bs }).pumpBulk c.sess

/-- A frame outside any session (R348). -/
def State.rawFrame (s : State) (p : Pkt) (type : Byte) (payload : List Byte) : State :=
  let e := s.eth p.port
  let f : Frame := { port := p.port, mac := p.mac, vid := e.vid, pcp := e.ctrlPcp, ip := p.src, df := isV4 p.src,
                     checksum := true, type := type, sid := 0, seq := 0, ackc := 0, ackb := 0,
                     payload := payload, tag := 0 }
  (s.modFct fun u => { u with frames := u.frames ++ [f] }).countTx p.port

/-! ### Handles and the end of a session (R349, R350, R354) -/

/-- The commands of a session, in acceptance order, that are not complete. -/
def State.liveCmds (s : State) (i : Fin 64) : List HCmd :=
  s.fct.cmds.filter fun c => c.sess = i && match s.findSlot c.handle with
    | some x => x.st == .issued
    | none => false

/-- Slots of a session's quota in use. -/
def State.quotaUsed (s : State) (i : Fin 64) : Nat :=
  s.fct.handles.countP fun x => x.sess = i && (x.st == .issued || x.st == .reported)

/-- A command whose transfer ends with its session (R349): WRITE, READ, and loads whose bytes are still to come. -/
def HCmd.transfers (c : HCmd) : Bool := c.opc = 0x20 || c.opc = 0x21 || c.xfer < c.wants || c.sentAll

/-- A session closes. -/
def State.closeSession (s : State) (i : Fin 64) : State :=
  let x := s.sess i
  let live := (s.liveCmds i).filter HCmd.transfers
  let s := s.modFct fun u =>
    { u with
      handles := u.handles.map fun y =>
        if y.sess = i && y.st == .issued then { y with st := .orphan }
        else if y.sess = i && y.st == .reported then { y with st := .free, gen := nextGen y.gen }
        else y }
  let orphans := s.fct.handles.countP fun y => y.sess = i && y.st == .orphan
  let s := s.modFct fun u => { u with granted := u.granted - x.quota + orphans }
  let s := s.modSess i fun _ => Session.reset
  s.each live fun s c => s.endCmd c.handle stAborted 0

/-- A set-up ends without a session. -/
def State.dropSetup (s : State) (i : Fin 64) : State :=
  (s.modFct fun u => { u with granted := u.granted - (s.sess i).quota }).modSess i fun _ => Session.reset

/-! ### Packets of a session (R342, R345, R347) -/

/-- Bytes of the frame that brought the packet, with its Ethernet, IP and UDP headers and FCS (R345). -/
def frameLen (p : Pkt) : Nat :=
  18 + (if p.tagged then 4 else 0) + (if isV4 p.dst then 20 else 40) + 8 + 32 + p.payload.length + 16

/-- The port accepts the frame: its size, its VID, its UDP port and its address (R338, R339). -/
def State.accepts (s : State) (p : Pkt) : Bool :=
  let e := s.eth p.port
  64 ≤ frameLen p && frameLen p ≤ 9216 && (if p.tagged then p.vid = e.vid else e.untagged) && p.udpPort = e.udpPort && e.has p.dst

/-- The traffic classes (R342). -/
inductive FctClass where
  | hasp | control | bulk
  deriving DecidableEq, Repr

/-- The class of an accepted frame, from its tag alone (R342, R343). -/
def State.frameClass (s : State) (p : Pkt) : Option FctClass :=
  let e := s.eth p.port
  if !p.tagged then some .control
  else if p.pcp = 7 then some .hasp
  else if p.pcp = e.ctrlPcp then some .control
  else if p.pcp = e.bulkPcp then some .bulk
  else none

/-- The class of a frame allows the packet's type (R342): HASP at PCP 7 in a frame of at most 256 bytes, set-up, CONTROL and
ACK at CTRL_PCP or untagged, DATA at BULK_PCP. -/
def State.classOk (s : State) (p : Pkt) : Bool :=
  match s.frameClass p with
  | some .hasp => p.type = 0x20 && frameLen p ≤ 256
  | some .control => p.type = 0x01 || p.type = 0x03 || p.type = 0x10 || p.type = 0x11
  | some .bulk => p.type = 0x12
  | none => false

/-- What a discarded FCT frame counts in ETH_DROP. -/
def State.countClass (s : State) (p : Pkt) : State :=
  s.modEth p.port fun e =>
    match s.frameClass p with
    | some .hasp => { e with dropHasp := e.dropHasp + 1 }
    | some .control => { e with dropCtrl := e.dropCtrl + 1 }
    | some .bulk => { e with dropBulk := e.dropBulk + 1 }
    | none => { e with dropOther := e.dropOther + 1 }

/-- Frames of a class in a port's ingress buffers: those that wait for their pair's takeover to end, since any other is taken
in the step that brings it (R342, R380; notes/assumptions/21.md). -/
def State.buffered (s : State) (port : PortId) (k : FctClass) : List Pkt :=
  s.rep.waitPkts.filter fun p => p.port = port && s.frameClass p = some k

/-- Bytes that frames take in a class buffer; a HASP frame takes a cell of 256. -/
def bufferLoad (k : FctClass) (ps : List Pkt) : Nat :=
  (ps.map fun p => if k = .hasp then 256 else frameLen p).sum

def FctClass.capacity : FctClass → Nat
  | .hasp => 0x10000
  | .control => 0x80000
  | .bulk => 0x400000

/-- PFC for BULK follows the fill level of its buffer: pause above 75 % full, release below 50 % (R343). -/
def State.followPfc (s : State) (port : PortId) : State :=
  let n := bufferLoad .bulk (s.buffered port .bulk)
  let cap := FctClass.bulk.capacity
  let send (pause : Bool) : State :=
    (s.modEth port fun e => { e with pausing := pause, pfcSent := e.pfcSent + 1 }).sendOther port (.pfc port pause)
  if !(s.eth port).pausing && 3 * cap < 4 * n then send true
  else if (s.eth port).pausing && 2 * n < cap then send false
  else s

/-- A frame waits in its class buffer, or finds it full: it is discarded and counted, a HASP in FCT_HASP as well (R342,
R368). -/
def State.buffer (s : State) (p : Pkt) : State :=
  match s.frameClass p with
  | none => s.countClass p
  | some k =>
    if k.capacity < bufferLoad k (p :: s.buffered p.port k) then
      let s := s.countClass p
      if k = .hasp then s.modFct fun u => { u with haspDropped := u.haspDropped + 1 } else s
    else (s.modRep fun r => { r with waitPkts := r.waitPkts ++ [p] }).followPfc p.port

/-- The types of the packets that hosts send (R345). Each is a command of its own. -/
def hostTypes : List Byte := [0x01, 0x03, 0x10, 0x11, 0x12, 0x20]

/-- A packet that the port takes in, of the type the command names; one of a type that no host sends is discarded, whichever
command brings it. At a port whose pair is being taken over a packet waits (R380). -/
def State.withPacket (s : State) (p : Pkt) (type : Byte) (f : State → State) : State :=
  if (p.type ≠ type && hostTypes.contains p.type) || !s.portTakes p.port then s
  else if !s.accepts p then s.countOther p.port
  else if !s.classOk p then s.countClass p
  else if s.rep.takeover = some p.port then s.buffer p
  else if p.ver ≠ 1 then s.countRx p.port
  else f (s.countRx p.port)

def State.findSess (s : State) (sid : BitVec 32) (open' : Bool) : Option (Fin 64) :=
  (List.finRange 64).find? fun i =>
    let x := s.sess i
    x.sid = sid && (if open' then x.isOpen else x.st == .setup)

def headerOf (p : Pkt) : List Byte := pktHeader p.type p.payload.length p.sid p.seq p.ackc p.ackb

/-- A packet of an open session whose tag verifies; 64 failures in a row close the session (R347). -/
def State.withSession (s : State) (p : Pkt) (f : State → Fin 64 → State) : State :=
  match s.findSess p.sid true with
  | none => s
  | some i =>
    let x := s.sess i
    if Config.kmac128 x.h2m (headerOf p ++ p.payload) "FCT" = p.tag then
      f (s.modSess i fun x => { x with tagFails := 0, port := p.port, mac := p.mac, peer := p.src }) i
    else
      let s := (s.modFct fun u => { u with authTagFail := u.authTagFail + 1 }).modSess i fun x =>
        { x with tagFails := x.tagFails + 1 }
      if 64 ≤ (s.sess i).tagFails then s.closeSession i else s

/-! ### Acknowledgements (R346, R354) -/

/-- The READs and their like whose data the host now holds complete DONE (R363). -/
def State.endReads (s : State) (i : Fin 64) : State :=
  s.each (s.liveCmds i) fun s c =>
    let x := s.sess i
    let left := (x.bulkWait.map Prod.fst).contains c.handle || x.bulkOut.any fun y => dataHandle y.2 = c.handle
    if c.sentAll && !left then s.endCmd c.handle stDone (resultOf (leBytes 8 c.xfer)) else s

/-- A handle slot is free again, at the next GEN. -/
def State.freeReported (s : State) (i : Fin 64) (ackc : Word) : State :=
  s.modFct fun u =>
    { u with handles := u.handles.map fun y =>
        if y.sess = i && y.st == .reported && y.seq.toNat < ackc.toNat then { y with st := .free, gen := nextGen y.gen }
        else y }

/-- The acknowledgements of a packet: windows advance, reported handles and delivered notices are freed. -/
def State.takeAcks (s : State) (i : Fin 64) (ackc ackb : Word) : State :=
  let x := s.sess i
  let gone := x.ctlOut.filter fun y => y.1.toNat < ackc.toNat
  let bulk := x.bulkOut.filter fun y => y.1.toNat < ackb.toNat
  let notices := gone.countP fun y => y.2.headD 0 = 4
  let due : Bool := match x.closeAck with
    | some h => s.fct.handles.any fun y => y.handle = h && y.st == .reported && y.seq.toNat < ackc.toNat
    | none => false
  let s := s.freeReported i ackc
  let s := s.modSess i fun x =>
    { x with ctlOut := x.ctlOut.drop gone.length, bulkOut := x.bulkOut.filter fun y => ackb.toNat ≤ y.1.toNat,
             notices := x.notices.drop notices }
  let s := s.each bulk fun s y => s.modCmd (dataHandle y.2) fun c =>
    if c.sess = i && c.sentAll then { c with xfer := c.xfer + (y.2.length - 16) } else c
  let newly := (x.ctlOut.drop ctlWindow).take gone.length
  let s := s.each newly fun s y => s.sendFrame i 0x10 (s.eth (s.sess i).port).ctrlPcp y.1 y.2
  let s := (s.endReads i).pumpBulk i
  if due then s.closeSession i else s

/-- An ACK packet, when nothing else carried the acknowledgement (R346). -/
def State.ackBack (s : State) (i : Fin 64) (before : Nat) : State :=
  if s.fct.frames.length = before && (s.sess i).isOpen then
    s.sendFrame i 0x11 (s.eth (s.sess i).port).ctrlPcp 0 []
  else s

def State.ackPacket (s : State) (p : Pkt) : State :=
  s.withPacket p 0x11 fun s => s.withSession p fun s i => s.takeAcks i p.ackc p.ackb

def execAck (p : Pkt) (s : State) : Host.Outcome State Fault Refusal := .next (s.ackPacket p)

/-- The module resends a stream from its oldest unacknowledged packet (R346). DATA of a transfer that ended is not sent
while a stop of its session's partitions is in force (R366). -/
def execRetransmitTimeout (sid : BitVec 32) (bulk : Bool) (s : State) : Host.Outcome State Fault Refusal :=
  .next (match s.findSess sid true with
    | none => s
    | some i =>
      let x := s.sess i
      let e := s.eth x.port
      if !s.ready then s
      else if bulk then
        if e.paused then s
        else
          let held := x.shasp || (List.finRange 16).any fun p => x.holds p && s.stopped p
          s.each x.bulkOut fun s y =>
            if held && (s.findCmd (dataHandle y.2)).isNone then s else s.sendFrame i 0x12 e.bulkPcp y.1 y.2
      else s.each (x.ctlOut.take ctlWindow) fun s y => s.sendFrame i 0x10 e.ctrlPcp y.1 y.2)

def execSessionIdleTimeout (sid : BitVec 32) (s : State) : Host.Outcome State Fault Refusal :=
  .next (match s.findSess sid true with
    | some i => s.closeSession i
    | none => s)

/-! ### Set-up (R348, R417, R418) -/

def hashBytes (h : BitVec 256) : List Byte := leBytes 32 h.toNat

/-- n bytes drawn at random. -/
def State.randomBytes (s : State) (n : Nat) : List Byte × State :=
  let (v, s) := s.fresh
  ((List.range n).map fun i => (Config.freeBytes v.toNat i).headD 0, s)

/-- The fields of a HELLO payload. -/
structure Hello where
  role : Nat
  pmask : BitVec 16
  quota : Nat
  pk : List Byte
  ek : List Byte

def helloOf (b : List Byte) : Hello :=
  { role := leNat ((b.drop 32).take 1), pmask := BitVec.ofNat 16 (leNat ((b.drop 34).take 2)),
    quota := leNat ((b.drop 36).take 2), pk := (b.drop 40).take 1312, ek := (b.drop 1352).take 1184 }

def helloGood (b : List Byte) : Bool :=
  let h := helloOf b
  b.length = 2536 && h.role ≤ 1 && leNat ((b.drop 33).take 1) = 0 && leNat ((b.drop 38).take 2) = 0 &&
  (if h.role = 1 then h.pmask = 0 else h.pmask ≠ 0)

def KeyEntry.usable (k : KeyEntry) (role : Nat) : Bool := k.valid && !k.revoked && k.roles.getLsbD role

/-- The entry that lets this host key take this role and mask (R404, R417); in PROVISIONING without a keyring any key
does for MAINTENANCE (R407). -/
def State.sessionKey (s : State) (h : Hello) : Option (Fin 8 × Bool) :=
  match s.sec.keyring with
  | some r =>
    ((List.finRange 8).find? fun i =>
      let k := vget r.entries i
      k.pk = h.pk && (if h.role = 1 then k.usable 3 else k.usable 4 && (h.pmask &&& ~~~k.pmask) = 0)).map fun i => (i, false)
  | none => if s.sec.provisioning && h.role = 1 then some (0, true) else none

/-- A session ID that no session has, not 0 (R349). -/
def State.pickSid (s : State) : BitVec 32 × State :=
  let (v, s) := s.fresh
  let used (x : BitVec 32) : Bool := x = 0 || s.fct.sessions.toList.any fun y => y.st != .free && y.sid = x
  match (List.range 66).find? fun i => !used (v.setWidth 32 + BitVec.ofNat 32 i) with
  | some i => (v.setWidth 32 + BitVec.ofNat 32 i, s)
  | none => (1, s)

def State.reject (s : State) (p : Pkt) (st : Status) : State :=
  let s := if st = stAuthFailed then s.modFct fun u => { u with authSetupFail := u.authSetupFail + 1 } else s
  s.rawFrame p 0x05 (leBytes 2 st.toNat)

/-- A valid HELLO: a session is in SETUP, and REPLY is sent. -/
def State.startSetup (s : State) (p : Pkt) (h : Hello) (i : Fin 64) (key : Fin 8 × Bool) (quota : Nat) : State :=
  let (sid, s) := s.pickSid
  let (nonce, s) := s.randomBytes 32
  let (rnd, s) := s.fresh
  let (ct, secret) := Config.mlkemEncap h.ek rnd.toNat
  let part := nonce ++ leBytes 2 quota ++ [0, 0] ++ sized 1088 ct
  let sig := identitySign "FLQ8-SESS-M" (hashBytes (Config.sha3 p.payload) ++ leBytes 4 sid.toNat ++ part)
  let s := s.modFct fun u => { u with granted := u.granted + quota }
  let s := s.modSess i fun _ =>
    { Session.reset with
      st := .setup, sid := sid, maint := h.role = 1, pmask := h.pmask, quota := quota, keySlot := key.1, anyKey := key.2,
      hello := p.payload, reply := part ++ sig, shared := secret, port := p.port, mac := p.mac, peer := p.src }
  s.sendFrame i 0x02 (s.eth p.port).ctrlPcp 0 (part ++ sig)

def State.setups (s : State) (port : PortId) : Nat :=
  s.fct.sessions.toList.countP fun x => x.st == .setup && x.port = port

def State.hello (s : State) (p : Pkt) : State :=
  s.withPacket p 0x01 fun s =>
    match (List.finRange 64).find? fun i => (s.sess i).st == .setup && (s.sess i).hello.take 32 = p.payload.take 32 with
    | some i =>
      let s := s.modSess i fun x => { x with port := p.port, mac := p.mac, peer := p.src }
      s.sendFrame i 0x02 (s.eth p.port).ctrlPcp 0 (s.sess i).reply
    | none =>
      if 8 ≤ s.setups p.port then s
      else if p.sid ≠ 0 || !helloGood p.payload then s.reject p stBadDesc
      else
        let h := helloOf p.payload
        let quota := min h.quota (16384 - s.fct.granted)
        match s.sessionKey h, (List.finRange 64).find? fun i => (s.sess i).st == .free with
        | none, _ => s.reject p stAuthFailed
        | _, none => s.reject p stAdmitRefused
        | some k, some i => if quota = 0 then s.reject p stAdmitRefused else s.startSetup p h i k quota

def execSetupHello (p : Pkt) (s : State) : Host.Outcome State Fault Refusal := .next (s.hello p)

/-- FINISH: the host's signature opens the session with its two keys, or ends the set-up (R349, R418). -/
def State.finishSetup (s : State) (p : Pkt) : State :=
  s.withPacket p 0x03 fun s =>
    match s.findSess p.sid false with
    | none => s
    | some i =>
      let x := s.sess i
      let msg := hashBytes (Config.sha3 x.hello) ++ leBytes 4 x.sid.toNat ++ hashBytes (Config.sha3 x.reply)
      let pk := (helloOf x.hello).pk
      if p.payload.length = 2420 && Config.mldsaVerify pk "FLQ8-SESS-H" msg p.payload then
        let th := hashBytes (Config.sha3 (x.hello ++ x.reply ++ p.payload))
        let k := hashBytes x.shared
        let s := s.modSess i fun x =>
          { x with st := .openS, h2m := Config.kmac256 k th "FCT h2m", m2h := Config.kmac256 k th "FCT m2h",
                   port := p.port, mac := p.mac, peer := p.src }
        s.sendFrame i 0x04 (s.eth p.port).ctrlPcp 0 []
      else (s.dropSetup i).reject p stAuthFailed

def execSetupFinish (p : Pkt) (s : State) : Host.Outcome State Fault Refusal := .next (s.finishSetup p)

def execSetupTimeout (sid : BitVec 32) (s : State) : Host.Outcome State Fault Refusal :=
  .next (match s.findSess sid false with
    | some i => s.dropSetup i
    | none => s)

/-! ### CONTROL entries and their commands (R351 to R354) -/

/-- The entries that fill a payload exactly, or none (R351). -/
def splitEntries : Nat → List Byte → Option (List (List Byte))
  | 0, bs => if bs.isEmpty then some [] else none
  | n + 1, bs =>
    if bs.isEmpty then some []
    else
      let len := leNat ((bs.drop 2).take 2)
      if bs.length < 4 || len < 12 || len % 4 ≠ 0 || bs.length < len || bs.headD 0 ≠ 1 then none
      else (splitEntries n (bs.drop len)).map fun r => bs.take len :: r

/-- The entry length of an opcode (R352, R420); none for a reserved one. -/
def entryLen (opc : Nat) : Option Nat :=
  match opc with
  | 0x01 => some 12
  | 0x02 => some 16
  | 0x03 => some 12
  | 0x10 => some 152
  | 0x20 => some 32
  | 0x21 => some 32
  | 0x30 => some 16
  | 0x31 => some 16
  | 0x40 => some 24
  | 0x41 => some 32
  | 0x60 => some 12
  | 0x61 => some 48
  | 0x62 => some 12
  | 0x63 => some 16
  | 0x64 => some 16
  | 0x65 => some 16
  | 0x66 => some 12
  | 0x67 => some 16
  | 0x68 => some 12
  | _ => none

/-- Reserved bytes of an entry: its second byte, and those its opcode leaves out. -/
def reservedBytes (opc : Nat) : List Nat :=
  1 :: (if opc = 0x10 then [13, 14, 15, 20, 21, 22, 23]
    else if opc = 0x20 || opc = 0x21 || opc = 0x40 || opc = 0x41 || opc = 0x61 then [12, 13, 14, 15] else [])

/-- Opcodes of MAINTENANCE sessions (R352, R420). -/
def maintOnly (opc : Nat) : Bool := opc = 0x30 || opc = 0x31 || (0x63 ≤ opc && opc ≤ 0x68)

/-- Commands that PROVISIONING accepts (R407) and that SAFE performs (R440). -/
def provisioningOpc (opc : Nat) : Bool := opc ≤ 3 || opc = 0x31 || opc = 0x40 || (0x60 ≤ opc && opc ≤ 0x68)
def safeOpc (opc : Nat) : Bool := opc ≤ 3 || opc = 0x40 || opc = 0x60 || opc = 0x61

def entryN (b : List Byte) (a n : Nat) : Nat := leNat ((b.drop a).take n)

/-- The command names partition p, or the module. -/
def HCmd.partition (c : HCmd) : Option PartId := toFin? 16 c.part.toNat

/-- The session may not send this command (R352). -/
def State.cmdViolates (s : State) (c : HCmd) : Bool :=
  let x := s.sess c.sess
  (!x.maint && (maintOnly c.opc.toNat || !(match c.partition with
    | some p => x.pmask.getLsbD p.val
    | none => false)))

/-- The command's code, bytes, partition or tag are refused (R352, R362, R407, R440). -/
def State.cmdBad (s : State) (c : HCmd) : Bool :=
  let o := c.opc.toNat
  entryLen o ≠ some c.args.length || (o = 0x30 && (c.wants = 0 || 0x100000 < c.wants)) || (entryN c.args 7 1) / 2 ≠ 0 || (reservedBytes o).any (fun i => entryN c.args i 1 ≠ 0) ||
  (match c.partition with
   | some p => (s.part p).st == .absent
   | none => c.part ≠ 0xFF) ||
  (s.liveCmds c.sess).any (fun y => y.htag = c.htag && y.handle ≠ c.handle && y.xfer < y.wants) ||
  (s.sec.provisioning && !provisioningOpc o) || (s.pwr.safe && !safeOpc o)

/-- The command's partition is held by a load (R314). -/
def State.cmdHeld (s : State) (c : HCmd) : Bool :=
  match c.partition with
  | some p => (s.part p).st == .held
  | none => false

/-- A command that a stop of its partition ends at once (R366). -/
def State.cmdStopped (s : State) (c : HCmd) : Bool :=
  let o := c.opc.toNat
  let moves := o = 0x20 || o = 0x21 || o = 0x30 || o = 0x31
  (moves && (s.sess c.sess).shasp) || ((moves || o = 0x10) && match c.partition with
    | some p => s.stopped p
    | none => false)

/-- The lowest free handle slot. -/
def State.takeHandle (s : State) (i : Fin 64) : BitVec 32 × State :=
  match (s.fct.handles.filter fun x => x.st == .free).head? with
  | some x =>
    (x.handle, s.modFct fun u => { u with handles := u.handles.map fun y =>
      if y.slot = x.slot then { y with st := .issued, sess := i, status := 0, seq := 0, issueCore := none } else y })
  | none =>
    let x : HSlot :=
      { slot := BitVec.ofNat 14 s.fct.handles.length, gen := 1, st := .issued, sess := i, status := 0, seq := 0, issueCore := none }
    (x.handle, s.modFct fun u => { u with handles := u.handles ++ [x] })

/-- The commands that are performed one at a time: image loads, firmware loads and rotations (R312, R389, R414). -/
def isLoadOpc (opc : Nat) : Bool := opc = 0x30 || opc = 0x31 || opc = 0x65

/-- One command of a session is accepted: it takes a handle, and ends at once if it may not be performed. -/
def State.acceptCmd (s : State) (i : Fin 64) (b : List Byte) : State :=
  let opc := entryN b 4 2
  if opc = 3 then
    let earlier := if entryN b 7 1 % 2 = 1 then (s.liveCmds i).map HCmd.handle else []
    s.modSess i fun x => { x with closeDue := true, closeAfter := earlier }
  else
    let (h, s) := s.takeHandle i
    let fence := entryN b 7 1 % 2 = 1
    let c : HCmd := { handle := h, sess := i, htag := BitVec.ofNat 32 (entryN b 8 4), opc := BitVec.ofNat 16 opc,
                      part := BitVec.ofNat 8 (entryN b 6 1), fence := fence, args := b, xfer := 0, data := [],
                      issued := none, sentAll := false, running := false, waited := fence && !(s.liveCmds i).isEmpty,
                      atHold := false, deferred := false,
                      behind := isLoadOpc opc && s.fct.cmds.any fun x => isLoadOpc x.opc.toNat }
    let c := if s.cmdHeld c then { c with waited := true, atHold := true } else c
    let s := if opc = 0x10 then s.modSlot h fun y => { y with issueCore := some (BitVec.ofNat 8 (entryN b 12 1)) } else s
    let s := s.modSess i fun x => { x with aborted := x.aborted.filter fun t => t ≠ c.htag }
    let s := s.queueControl i ([2, 0] ++ leBytes 2 16 ++ leBytes 4 c.htag.toNat ++ leBytes 4 h.toNat ++ [0, 0, 0, 0])
    let s := s.modFct fun u => { u with cmds := u.cmds ++ [c] }
    if (s.sess i).st == .frozen then s.endCmd h stViolation 0
    else if s.cmdViolates c then (s.endCmd h stViolation 0).freezeSession i c.part
    else if s.cmdBad c then s.endCmd h stBadDesc 0
    else if s.cmdStopped c then s.endCmd h stAborted 0
    else s

def State.controlPacket (s : State) (p : Pkt) : State :=
  s.withPacket p 0x10 fun s => s.withSession p fun s i =>
    let before := s.fct.frames.length
    let s := s.takeAcks i p.ackc p.ackb
    let x := s.sess i
    if !x.isOpen then s
    else if p.seq.toNat < x.ctlIn.toNat then s.ackBack i before
    else if p.seq ≠ x.ctlIn then s
    else
      match splitEntries p.payload.length p.payload with
      | none => ((s.modSess i fun x => { x with ctlIn := x.ctlIn + 1 }).freezeSession i 0xFF).ackBack i before
      | some es =>
        if x.quota < s.quotaUsed i + es.countP fun b => entryN b 4 2 ≠ 3 then s
        else
          let s := s.modSess i fun x => { x with ctlIn := x.ctlIn + 1 }
          (s.each es fun s b => s.acceptCmd i b).ackBack i before

def execControl (p : Pkt) (s : State) : Host.Outcome State Fault Refusal := .next (s.controlPacket p)

/-! ### DATA (R362) -/

/-- Bytes of a WRITE are performed, and it completes with its last one (R363). -/
def State.performWrite (s : State) (c : HCmd) (off : Nat) (bs : List Byte) : State :=
  let s := s.store (entryN c.args 16 8 + off) bs
  if c.wants ≤ off + bs.length then s.endCmd c.handle stDone (resultOf (leBytes 8 (off + bs.length))) else s

/-- Data of a transfer: they join the command's, or are written at once when the WRITE has started. -/
def State.takeData (s : State) (c : HCmd) (off : Nat) (bs : List Byte) : State :=
  let last := off + bs.length = c.wants
  let good := off = c.xfer && !bs.isEmpty && bs.length ≤ 8192 && off + bs.length ≤ c.wants && (bs.length % 64 = 0 || last)
  if !good then s.endCmd c.handle stBadDesc 0
  else
    let s := s.modCmd c.handle fun c => { c with xfer := off + bs.length }
    if c.running then s.performWrite c off bs
    else s.modCmd c.handle fun c => { c with data := c.data ++ bs }

def State.dataPacket (s : State) (p : Pkt) : State :=
  s.withPacket p 0x12 fun s => s.withSession p fun s i =>
    let before := s.fct.frames.length
    let s := s.takeAcks i p.ackc p.ackb
    let x := s.sess i
    let tag := BitVec.ofNat 32 (entryN p.payload 0 4)
    if !x.isOpen then s
    else if p.seq.toNat < x.bulkIn.toNat then s.ackBack i before
    else if p.seq ≠ x.bulkIn then s
    else
      let next := s.modSess i fun x => { x with bulkIn := x.bulkIn + 1 }
      match (s.liveCmds i).find? fun c => c.htag = tag && c.xfer < c.wants with
      | some c => (next.takeData c (entryN p.payload 8 8) (p.payload.drop 16)).ackBack i before
      | none => if x.aborted.contains tag then next.ackBack i before else s

def execData (p : Pkt) (s : State) : Host.Outcome State Fault Refusal := .next (s.dataPacket p)

end Sys2Proof.Machine
end

