-- ==== Sys2Proof/Machine/Hasp.lean ====
section
/-! DEFINITION. The hasp: source bits and what a stop ends (R364, R366, R371), HASP packets (R365), fabric hasps (R369),
and the HOLD_N pins (R370). Readings are in notes/assumptions/22.md. -/

namespace Sys2Proof.Machine

/-- The 16 partitions' numbers. -/
def allParts : List PartId := List.finRange 16

def State.existing (s : State) : List PartId := allParts.filter fun p => (s.part p).st != .absent

/-- The cores of a partition. -/
def State.coresOf (s : State) (p : PartId) : List CoreId := (List.finRange 176).filter fun c => s.owner c = some p

/-- A command that a stop ends: WRITE, READ, ISSUE not yet issued, and a load that has not begun to hold its partitions or
to activate (R366, R371). -/
def HCmd.stoppable (c : HCmd) : Bool :=
  c.opc = 0x20 || c.opc = 0x21 || (c.opc = 0x10 && c.issued.isNone) || ((c.opc = 0x30 || c.opc = 0x31) && !c.running)

/-- A load leaves the list of those that wait. -/
def State.unqueue (s : State) (h : BitVec 32) : State :=
  s.modEsp fun e => { e with loadsWaiting := e.loadsWaiting.filter fun x => x ≠ h }

/-- A stopped command completes with the bytes performed or acknowledged; its queued frames are discarded. -/
def State.abortCmd (s : State) (c : HCmd) : State :=
  let n := if c.opc = 0x21 || (c.opc = 0x20 && c.running) then c.xfer else 0
  let s := s.modSess c.sess fun x => { x with bulkWait := x.bulkWait.filter fun y => y.1 ≠ c.handle }
  (s.unqueue c.handle).endCmd c.handle stAborted (resultOf (leBytes 8 n))

/-- What the stop of a partition ends (R366, rules 1, 3 and 4). -/
def State.stopPart (s : State) (p : PartId) : State :=
  let s := s.each (s.coresOf p) fun s c => s.stopOps c stAborted false fun o => o.boundary
  s.each (s.fct.cmds.filter fun c => c.stoppable && c.partition = some p) fun s c => s.abortCmd c

/-- A partition runs again: its messages and frames proceed (R366, R367). -/
def State.resumePart (s : State) (p : PartId) : State :=
  s.each (List.finRange 64) (fun s i => if (s.sess i).isOpen then s.pumpBulk i else s) |>.releaseWaiting p

/-- A partition's source bits change: HID, the notice, and the stop or the release (R361, R364). -/
def State.setSrc (s : State) (p : PartId) (src : BitVec 4) (hid : Option (BitVec 32)) : State :=
  let was := s.stopped p
  if (s.part p).st == .absent || (s.part p).src = src then s
  else
    let s := s.modPart p fun x => { x with src := src, hid := hid.getD x.hid }
    let s := s.notify { code := nHasp, part := BitVec.ofNat 8 p.val, unit := 0, id := 0, detail := src.setWidth 64 }
    if !was && s.stopped p then s.stopPart p
    else if was && !s.stopped p then s.resumePart p
    else s

/-- One source bit set or cleared. -/
def State.srcBit (s : State) (p : PartId) (bit : Nat) (on : Bool) (hid : Option (BitVec 32)) : State :=
  let v := (s.part p).src
  s.setSrc p (if on then v ||| ((1 : BitVec 4) <<< bit) else v &&& ~~~((1 : BitVec 4) <<< bit)) hid

/-! ### Fabric hasps (R369) -/

/-- Neighbours of this module, each by the UP link that reaches it, but for the one on `except'`. -/
def State.haspLinks (s : State) (except' : Option LinkId) : List LinkId :=
  let way (d dir : Nat) : List LinkId := [linkNo d dir 0, linkNo d dir 1]
  let ways := (List.range 6).flatMap fun d =>
    if s.torusSize d = 2 then [way d 0 ++ way d 1] else if s.torusSize d < 2 then [] else [way d 0, way d 1]
  ways.filterMap fun ls =>
    if (except'.toList.any fun e => ls.contains e) then none else ls.find? fun l => (s.link l).st == .up

def haspData (action target radius : Nat) (ack : Bool) (hid : BitVec 32) (origin : Nat) : List Byte :=
  leBytes 1 action ++ leBytes 1 target ++ leBytes 1 radius ++ leBytes 1 (ofBool ack) ++ leBytes 4 hid.toNat ++
  leBytes 4 origin ++ leBytes 20 0

/-- A HASP message to the neighbour on a link. -/
def State.haspMsg (s : State) (l : LinkId) (vc : BitVec 1) (data : List Byte) : State :=
  s.enqueue l { cls := 0, vc := vc, op := opHasp, part := 0, fn := 0, dest := BitVec.ofNat 18 (s.beyond l s.fab.moduleId.toNat),
                src := s.fab.moduleId, tag := 0, len := 32, addr := 0, data := data }

def State.spreadHasp (s : State) (action target radius : Nat) (hid : BitVec 32) (origin : Nat) (except' : Option LinkId) :
    State :=
  if radius = 0 then s
  else s.each (s.haspLinks except') fun s l => s.haspMsg l 0 (haspData action target (radius - 1) false hid origin)

/-- The module has acted on this HID; the last 64 are kept. -/
def State.seeHid (s : State) (hid : BitVec 32) : State :=
  s.modFab fun f =>
    let old := f.hidsSeen.filter fun x => x ≠ hid
    { f with hidsSeen := old.drop (old.length - 63) ++ [hid] }

def execFabHasp (i : Nat) (s : State) : Host.Outcome State Fault Refusal :=
  .next (match s.inMsg i opHasp with
    | none => s
    | some (l, m) =>
      let action := entryN m.data 0 1
      let target := entryN m.data 1 1
      let radius := entryN m.data 2 1
      let hid := BitVec.ofNat 32 (entryN m.data 4 4)
      let origin := entryN m.data 8 4
      if entryN m.data 3 1 % 2 = 1 then s
      else
        let s := s.takeMsg i l m
        let s := if s.fab.hidsSeen.contains hid then s
          else
            let s := (s.seeHid hid).modFct fun u => { u with haspFabric := u.haspFabric + 1 }
            let s := s.each (allParts.filter fun p => target = 0xFF || p.val = target) fun s p =>
              s.srcBit p 1 (action = 0) (some hid)
            s.spreadHasp action target radius hid origin (some l)
        s.haspMsg l 1 (haspData action target radius true hid origin))

def execFabHaspAck (i : Nat) (s : State) : Host.Outcome State Fault Refusal :=
  .next (match s.inMsg i opHasp with
    | none => s
    | some (l, m) => if entryN m.data 3 1 % 2 = 1 then s.takeMsg i l m else s)

/-! ### HASP packets (R365) -/

/-- HASP_ACK at PCP 7. -/
def State.haspAck (s : State) (i : Fin 64) (seq : Word) (hid : BitVec 32) (result : Nat) (bits : Nat) : State :=
  s.sendFrame i 0x21 7 seq (leBytes 4 hid.toNat ++ leBytes 1 result ++ leBytes 1 bits ++ leBytes 26 0)

/-- The partitions a hasp names; none where its fields are wrong. -/
def State.haspTargets (s : State) (x : Session) (b : List Byte) : Option (List PartId) :=
  let scope := entryN b 1 1
  let target := entryN b 2 1
  let radius := entryN b 3 1
  if b.length ≠ 32 || 1 < entryN b 0 1 || 24 < radius || (b.drop 8).any (· ≠ 0) || (scope ≠ 1 && target ≠ 0) ||
      (scope = 0 && radius ≠ 0) then none
  else if scope = 0 then some []
  else if scope = 1 then (toFin? 16 target).map fun p => [p]
  else if scope = 2 then some (if x.maint then s.existing else allParts.filter fun p => x.pmask.getLsbD p.val)
  else none

/-- The source bits that an acknowledgement shows. -/
def State.haspBits (s : State) (i : Fin 64) (b : List Byte) : Nat :=
  if entryN b 1 1 = 0 then ofBool (s.sess i).shasp
  else match s.haspTargets (s.sess i) b with
    | some ps => (ps.foldl (fun v p => v ||| (s.part p).src) 0).toNat
    | none => 0

/-- The TARGETs under which a hasp of scope PARTITION or PMASK is sent on: 0xFF where it is for every partition, else one
message each (R369). -/
def haspSent (x : Session) (b : List Byte) (ps : List PartId) : List Nat :=
  if entryN b 1 1 = 2 && (x.maint || x.pmask = 0xFFFF) then [0xFF] else ps.map Fin.val

/-- The session's own transfers stop, or may go on. -/
def State.sessionHasp (s : State) (i : Fin 64) (stop : Bool) : State :=
  let s := s.modSess i fun x => { x with shasp := stop }
  if stop then
    s.each ((s.liveCmds i).filter fun c => c.stoppable && c.opc ≠ 0x10) fun s c => s.abortCmd c
  else s.pumpBulk i

/-- A new hasp is applied, or refused. -/
def State.actHasp (s : State) (i : Fin 64) (seq : Word) (b : List Byte) : State :=
  let x := s.sess i
  let stop := entryN b 0 1 = 0
  let hid := BitVec.ofNat 32 (entryN b 4 4)
  let s := s.modSess i fun x => { x with haspSeq := seq, haspLast := b }
  match s.haspTargets x b with
  | some ps =>
    if !(ps.all fun p => x.holds p) || (!stop && x.st == .frozen) then
      (s.modFct fun u => { u with haspRefused := u.haspRefused + 1 }).haspAck i seq hid 1 (s.haspBits i b)
    else
      let s := s.modFct fun u => { u with haspApplied := u.haspApplied + 1 }
      let s := if entryN b 1 1 = 0 then s.sessionHasp i stop
        else
          let s := s.seeHid hid
          let s := s.each ps fun s p => s.srcBit p 0 stop (some hid)
          s.each (haspSent x b ps) fun s n => s.spreadHasp (entryN b 0 1) n (entryN b 3 1) hid s.fab.moduleId.toNat none
      s.haspAck i seq hid 0 (s.haspBits i b)
  | none => (s.modFct fun u => { u with haspRefused := u.haspRefused + 1 }).haspAck i seq hid 1 0

/-- A tagged HASP: a new SEQ is acted on, the last one is answered again, and a lower one is discarded. -/
def State.haspPacket (s : State) (p : Pkt) (release : Bool) : State :=
  if (entryN p.payload 0 1 = 1) != release then s
  else s.withPacket p 0x20 fun s => s.withSession p fun s i =>
    let x := s.sess i
    if p.seq = x.haspSeq && x.haspSeq ≠ 0 then
      s.haspAck i p.seq (BitVec.ofNat 32 (entryN x.haspLast 4 4)) 2 (s.haspBits i x.haspLast)
    else if p.seq.toNat < x.haspSeq.toNat || p.seq = 0 then s
    else s.actHasp i p.seq p.payload

def execHaspStop (p : Pkt) (s : State) : Host.Outcome State Fault Refusal := .next (s.haspPacket p false)

def execHaspRelease (p : Pkt) (s : State) : Host.Outcome State Fault Refusal := .next (s.haspPacket p true)

/-! ### The HOLD_N pins (R364, R370, R380) -/

/-- A partition's controller is on this die (R16, R304). -/
def State.ctrlOn (s : State) (p : PartId) (n : PortId) : Bool := ((s.part p).cfg.ctrl.toNat < 8) == (n = 0)

/-- Every partition's HOLD bits follow the pins, but for a die whose pair is being taken over. -/
def State.syncHold (s : State) : State :=
  s.each [0, 1] fun s n =>
    if s.rep.takeover = some n then s
    else s.each s.existing fun s p =>
      s.srcBit p (2 + n.val) (s.ctrlOn p n && !(vget s.pwr.holdN n)) none

def State.setHold (s : State) (n : PortId) (high : Bool) : State :=
  let s := s.modPwr fun u => { u with holdN := vset u.holdN n high }
  s.syncHold

def execHoldNAssert (n : PortId) (s : State) : Host.Outcome State Fault Refusal := .next (s.setHold n false)

def execHoldNDeassert (n : PortId) (s : State) : Host.Outcome State Fault Refusal := .next (s.setHold n true)

end Sys2Proof.Machine
end

