-- ==== Sys2Proof/Machine/ImageCheck.lean ====
section
/-! DEFINITION. The Espalier image: its container (R294 to R297), its sections (R299 to R309), and validation in the
order of R310, with the generations of R317. Where several checks of one stage fail, the first one listed here is
latched; the offset of a fault that no single field shows is free (notes/assumptions/23.md). -/

namespace Sys2Proof.Machine

/-- n bytes at an offset, as a number. -/
def bytesN (b : List Byte) (a n : Nat) : Nat := leNat ((b.drop a).take n)

/-- Bytes [a, b) are all zero. -/
def zeroAt (bs : List Byte) (a b : Nat) : Bool := ((bs.drop a).take (b - a)).all (· = 0)

/-- A section table entry and the section's bytes (R296). -/
structure SecEntry where
  idx : Nat
  kind : Nat
  part : Nat
  gen : Nat
  off : Nat
  len : Nat
  reserved : Nat
  hash : BitVec 256
  body : List Byte
  deriving DecidableEq, Repr

def secEntry (img : List Byte) (i : Nat) : SecEntry :=
  let e := 128 + 48 * i
  let off := bytesN img (e + 8) 4
  let len := bytesN img (e + 12) 4
  { idx := i, kind := bytesN img e 1, part := bytesN img (e + 1) 1, gen := bytesN img (e + 4) 4, off := off, len := len,
    reserved := bytesN img (e + 2) 2, hash := BitVec.ofNat 256 (bytesN img (e + 16) 32), body := (img.drop off).take len }

def secTable (img : List Byte) : List SecEntry := (List.range (bytesN img 12 2)).map (secEntry img)

def imgPartial (img : List Byte) : Bool := bytesN img 6 1 = 1
def imgPmask (img : List Byte) : BitVec 16 := BitVec.ofNat 16 (bytesN img 32 2)
def imgRmask (img : List Byte) : BitVec 16 := BitVec.ofNat 16 (bytesN img 34 2)

/-- A check of validation: its section (0xFF for header and signature), the offset at fault, and whether it passes. -/
structure Chk where
  sec : Nat
  off : Option Nat
  ok : Bool
  deriving DecidableEq, Repr

/-! ### Stages 1 to 5: the container -/

/-- The place of the signature (R294). -/
def sigAt (img : List Byte) : Nat :=
  let ends := (secTable img).map fun e => e.off + e.len
  (ends.foldl max (128 + 48 * bytesN img 12 2) + 63) / 64 * 64

def stage1 (img : List Byte) : List Chk :=
  let n := img.length
  [ ⟨0xFF, some n, decide (n ≤ 0x100000)⟩,
    ⟨0xFF, some n, decide (128 + 48 * bytesN img 12 2 + 2420 ≤ n)⟩,
    ⟨0xFF, some 0, bytesN img 0 4 = 0x4C505345⟩,
    ⟨0xFF, some 4, bytesN img 4 2 = 1⟩,
    ⟨0xFF, some 6, bytesN img 6 1 ≤ 1⟩,
    ⟨0xFF, some 7, bytesN img 7 1 < 4⟩,
    ⟨0xFF, some 8, bytesN img 8 4 = n⟩,
    ⟨0xFF, some 12, 1 ≤ bytesN img 12 2 && bytesN img 12 2 ≤ 85⟩,
    ⟨0xFF, some 15, zeroAt img 15 16⟩,
    ⟨0xFF, some 17, zeroAt img 17 24⟩,
    ⟨0xFF, some 36, zeroAt img 36 128⟩ ]

def stage2 (s : State) (img : List Byte) : List Chk :=
  [ ⟨0xFF, some 16, bytesN img 16 1 = 0xB1⟩,
    ⟨0xFF, some 7, bitsOf (bytesN img 7 1) (s.pwr.grade.toNat - 1) (s.pwr.grade.toNat - 1) = 1⟩ ]

/-- A keyring entry usable for a role (R403). -/
def State.roleKey (s : State) (idx role : Nat) : Option KeyEntry :=
  match s.sec.keyring with
  | none => none
  | some r => (vat r.entries idx).filter fun k => k.valid && !k.revoked && k.roles.getLsbD role

def stage3 (s : State) (img : List Byte) : List Chk :=
  let key := s.roleKey (bytesN img 14 1) 1
  let n := img.length - 2420
  [ ⟨0xFF, some 14, key.isSome⟩,
    ⟨0xFF, some n, match key with
      | some k => Config.mldsaVerify k.pk "" (img.take n) (img.drop n)
      | none => false⟩ ]

/-- The gaps before a section and before the signature. -/
def gapsOk (img : List Byte) : Nat → List SecEntry → Bool
  | prev, [] => zeroAt img prev (sigAt img)
  | prev, e :: r => prev ≤ e.off && zeroAt img prev e.off && gapsOk img (e.off + e.len) r

/-- The sections follow one another in table order without overlap. -/
def orderOk (img : List Byte) (e : SecEntry) : Bool :=
  (secTable img).all fun f => e.idx ≤ f.idx || f.off + f.len ≤ e.off

/-- The offset in the image of a field of a section table entry. -/
def SecEntry.at (e : SecEntry) (field : Nat) : Option Nat := some (128 + 48 * e.idx + field)

def stage4 (img : List Byte) : List Chk :=
  let table := 128 + 48 * bytesN img 12 2
  ((secTable img).flatMap fun e =>
    [ ⟨e.idx, e.at 2, e.reserved = 0⟩, ⟨e.idx, e.at 8, e.off % 64 = 0 && table ≤ e.off⟩,
      ⟨e.idx, none, e.off + e.len ≤ img.length && orderOk img e⟩ ]) ++
  [ ⟨0xFF, some (img.length - 2420), sigAt img + 2420 = img.length⟩,
    ⟨0xFF, none, gapsOk img table (secTable img)⟩ ]

def stage5 (img : List Byte) : List Chk :=
  (secTable img).map fun e => ⟨e.idx, e.at 16, Config.sha3 e.body = e.hash⟩

/-! ### Stages 6 and 7: the set and its generations -/

def layoutKinds : List Nat := [1, 2, 3, 4]
def moduleKinds : List Nat := [1, 2, 3, 4, 5]
def partKinds : List Nat := [0x10, 0x11, 0x12, 0x13, 0x14]

/-- The exact length of a section (R299 to R309). -/
def secLen (kind : Nat) (b : List Byte) : Nat :=
  match kind with
  | 1 => 64
  | 2 => 128
  | 3 => 3136
  | 4 => 64
  | 5 => 256
  | 0x10 => 32 + 8 * bytesN b 1 1
  | 0x11 => 16 + 16 * bytesN b 0 1
  | 0x12 => 128
  | _ => 64

def masked (m : BitVec 16) : List Nat := (List.range 16).filter fun p => m.getLsbD p

def secsOf (es : List SecEntry) (kind part : Nat) : List SecEntry := es.filter fun e => e.kind = kind && e.part = part

/-- Equal generations in a group of sections. -/
def sameGen (es : List SecEntry) : Bool := es.all fun e => es.all fun f => e.gen = f.gen

def stage6 (img : List Byte) : List Chk :=
  let es := secTable img
  let part := imgPartial img
  let pm := masked (imgPmask img)
  (es.flatMap fun e =>
    [ ⟨e.idx, e.at 0, (moduleKinds.contains e.kind || partKinds.contains e.kind) && !(part && layoutKinds.contains e.kind)⟩,
      ⟨e.idx, e.at 1, if moduleKinds.contains e.kind then e.part = 0xFF else pm.contains e.part⟩,
      ⟨e.idx, none, (secsOf es e.kind e.part).length = 1⟩ ]) ++
  (es.map fun e => ⟨e.idx, e.at 12, e.len = secLen e.kind e.body⟩) ++
  [ ⟨0xFF, some 34, part || imgRmask img = 0⟩,
    ⟨0xFF, some 34, (imgPmask img &&& imgRmask img) = 0⟩,
    ⟨0xFF, some 32, (part || moduleKinds.all fun k => (secsOf es k 0xFF).length = 1) &&
      pm.all fun p => partKinds.all fun k => (secsOf es k p).length = 1⟩ ] ++
  (es.map fun e =>
    ⟨e.idx, e.at 4, sameGen (es.filter fun f =>
      if partKinds.contains e.kind then partKinds.contains f.kind && f.part = e.part
      else layoutKinds.contains e.kind && layoutKinds.contains f.kind)⟩)

/-- The sections whose hashes an equal generation must repeat: those applied, or those of the current image at a load at
start (R316, R317). -/
def State.knownHash (s : State) (kind part : Nat) : Option (BitVec 256) :=
  match s.esp.sections.find? fun x => x.kind.toNat = kind && x.part.toNat = part with
  | some x => some x.hash
  | none =>
    match s.esp.imgCurrent with
    | some img => ((secsOf (secTable img) kind part).head?).map SecEntry.hash
    | none => none

/-- The layout sections are those loaded, in GEN and HASH (R313). -/
def State.sameLayout (s : State) (img : List Byte) : Bool :=
  layoutKinds.all fun k =>
    match secsOf (secTable img) k 0xFF, s.esp.sections.find? fun x => x.kind.toNat = k with
    | [e], some x => e.gen = x.gen.toNat && e.hash = x.hash
    | _, _ => false

def stage7 (s : State) (img : List Byte) (start : Bool) : List Chk :=
  (secTable img).map fun e =>
    ⟨e.idx, e.at 4,
     if layoutKinds.contains e.kind then
       (if start then s.esp.layoutFloor.toNat ≤ e.gen else s.esp.layoutFloor.toNat < e.gen || s.sameLayout img)
     else
       let floor := if e.kind = 5 then s.esp.retireFloor.toNat
         else match vat s.esp.partFloors e.part with
           | some f => f.toNat
           | none => 0
       floor < e.gen || (floor = e.gen && (start || e.kind = 5) && s.knownHash e.kind e.part = some e.hash)⟩

/-! ### Stage 8: fields in their ranges -/

def within (v lo hi : Nat) : Bool := lo ≤ v && v ≤ hi

def moduleFields (b : List Byte) : List (Nat × Bool) :=
  [(0, within (bytesN b 0 2) 250 1000), (2, within (bytesN b 2 2) 250 1000), (4, [32, 36, 40, 44].contains (bytesN b 4 1)),
   (5, within (bytesN b 5 1) 30 75), (6, zeroAt b 6 64)]

def bandFields (b : List Byte) (i : Nat) : Nat × Bool :=
  let v := bytesN b (8 + 8 * i) 8
  (8 + 8 * i, if i < bytesN b 0 1 then bitsOf v 63 63 = 1 && bitsOf v 61 55 = 0 && bitsOf v 31 23 = 0 else v = 0)

def nearFields (b : List Byte) : List (Nat × Bool) :=
  [(0, within (bytesN b 0 1) 1 8), (1, bytesN b 1 1 ≤ 8), (2, within (bytesN b 2 1) 1 100), (3, zeroAt b 3 8)] ++
  (List.range 8).map (bandFields b) ++
  [(72, bytesN b 72 8 / 2 ^ 46 ≤ 65536 && bytesN b 72 8 % 4096 = 0), (80, bytesN b 80 8 < 2 ^ 46 && bytesN b 80 8 % 4096 = 0),
   (88, bytesN b 88 8 / 2 ^ 46 ≤ 4096 && bytesN b 88 8 % 4096 = 0), (96, zeroAt b 96 128)]

def fabricFields (b : List Byte) : List (Nat × Bool) :=
  ((List.range 6).map fun d => (d, within (bytesN b d 1) 1 8)) ++ [(6, zeroAt b 6 8)] ++
  ((List.range 24).map fun l => (8 + l, decide (bytesN b (8 + l) 1 ≤ 2))) ++
  ((List.range 24).map fun l => (32 + l, decide (6 ≤ bytesN b (32 + l) 1))) ++ [(56, zeroAt b 56 64)]

def farFields (b : List Byte) : List (Nat × Bool) :=
  [(0, bytesN b 0 1 ≤ 1), (1, within (bytesN b 1 1) 1 50), (2, 1 ≤ bytesN b 2 2), (4, 0x10000 ≤ bytesN b 4 4),
   (8, 2 ^ 32 ≤ bytesN b 8 8), (16, zeroAt b 16 64)]

def retireFields (b : List Byte) : List (Nat × Bool) :=
  (List.range 16).map fun i =>
    let e := 16 * i
    (e, if i ≤ 8 then 1 ≤ bytesN b e 4 && zeroAt b (e + 4) (e + 8) && 1 ≤ bytesN b (e + 8) 8 else zeroAt b e (e + 16))

def coreRecFields (b : List Byte) (j : Nat) : List (Nat × Bool) :=
  let e := 32 + 8 * j
  let none' := bytesN b (e + 2) 1 = 0xFF
  let size := bytesN b (e + 3) 1
  [(e, within (bytesN b e 2) 200 850), (e + 3, if none' then size = 0 else [1, 2, 4, 8, 16].contains size),
   (e + 4, if none' then bytesN b (e + 4) 1 = 0 else bytesN b (e + 4) 1 < size), (e + 5, bytesN b (e + 5) 1 = 0),
   (e + 6, if none' then bytesN b (e + 6) 2 = 0 else bytesN b (e + 6) 2 ≤ 1024)]

/-- The cores that a PART_CORES section lists. -/
def listedCores (b : List Byte) : List CoreId :=
  let v := bytesN b 8 22
  (List.finRange 176).filter fun c => v.testBit c.val

def coresFields (b : List Byte) : List (Nat × Bool) :=
  [(0, decide (bytesN b 0 1 ≤ 15)), (1, within (bytesN b 1 1) 1 160), (2, within (bytesN b 2 2) 1 1000),
   (4, within (bytesN b 4 1) 1 48), (5, zeroAt b 5 8), (8, decide ((listedCores b).length = bytesN b 1 1)),
   (30, zeroAt b 30 32)] ++
  (List.range (bytesN b 1 1)).flatMap (coreRecFields b)

def memoryFields (b : List Byte) : List (Nat × Bool) :=
  [(0, decide (bytesN b 0 1 ≤ 16)), (1, zeroAt b 1 8)] ++
  (List.range (bytesN b 0 1)).map fun w =>
    let v := bytesN b (24 + 16 * w) 8
    (24 + 16 * w, bitsOf v 62 46 = 0 && v % 65536 = 0 && bitsOf v 45 0 ≠ 0)

/-- The fields of PART_POOLS by themselves; what relates them to one another and to places is stage 12's (R307). -/
def poolFields (b : List Byte) : List (Nat × Bool) :=
  let cap := bytesN b 40 1
  [(2, zeroAt b 2 4), (4, decide (bytesN b 4 4 ≤ 65536)), (40, if bytesN b 20 4 = 0 then cap = 0 else 2 ≤ cap),
   (41, zeroAt b 41 42), (42, bytesN b 42 2 % 4 = 0), (44, decide (bytesN b 44 4 < 2 ^ 24)),
   (64, decide (bytesN b 64 2 ≤ 2048)), (70, zeroAt b 70 128)]

def timingFields (b : List Byte) : List (Nat × Bool) :=
  [(0, 1 ≤ bytesN b 0 8), (8, 1 ≤ bytesN b 8 2), (10, bytesN b 10 1 ≤ 1), (11, zeroAt b 11 16), (24, zeroAt b 24 64)]

def policyFields (b : List Byte) : List (Nat × Bool) :=
  [(0, bytesN b 0 1 ≤ 2), (1, within (bytesN b 1 1) 1 2), (6, zeroAt b 6 64)]

def secFields (kind : Nat) (b : List Byte) : List (Nat × Bool) :=
  match kind with
  | 1 => moduleFields b
  | 2 => nearFields b
  | 3 => fabricFields b
  | 4 => farFields b
  | 5 => retireFields b
  | 0x10 => coresFields b
  | 0x11 => memoryFields b
  | 0x12 => poolFields b
  | 0x13 => timingFields b
  | _ => policyFields b

def stage8 (img : List Byte) : List Chk :=
  (secTable img).flatMap fun e =>
    ⟨e.idx, e.at 4, within e.gen 1 0xFFFFFFFE⟩ :: (secFields e.kind e.body).map fun f => ⟨e.idx, some f.1, f.2⟩

/-! ### The structure that stages 9 to 12 judge: the image's sections with those loaded for other partitions -/

/-- A section of that structure; `idx` is its table index, 0xFF for one already loaded. -/
structure EffSec where
  kind : Nat
  part : Nat
  body : List Byte
  idx : Nat
  deriving DecidableEq, Repr

def State.effective (s : State) (img : List Byte) : List EffSec :=
  let new := (secTable img).map fun e => ({ kind := e.kind, part := e.part, body := e.body, idx := e.idx } : EffSec)
  if !imgPartial img then new
  else
    let gone := masked (imgPmask img ||| imgRmask img)
    new ++ (s.esp.sections.filter fun x =>
      !(gone.contains x.part.toNat) && !(x.kind = 5 && new.any fun y => y.kind = 5)).map fun x =>
        { kind := x.kind.toNat, part := x.part.toNat, body := x.body, idx := 0xFF }

def effBody (es : List EffSec) (kind part : Nat) : List Byte :=
  match es.find? fun e => e.kind = kind && e.part = part with
  | some e => e.body
  | none => []

def effIdx (es : List EffSec) (kind part : Nat) : Nat :=
  match es.find? fun e => e.kind = kind && e.part = part with
  | some e => e.idx
  | none => 0xFF

def effParts (es : List EffSec) : List Nat := (es.filter fun e => e.kind = 0x10).map EffSec.part

/-- The partitions that the image itself brings. -/
def newParts (es : List EffSec) : List Nat := (es.filter fun e => e.kind = 0x10 && e.idx ≠ 0xFF).map EffSec.part

/-- An area: its base and length. -/
abbrev Area := Nat × Nat

def areasMeet (a b : Area) : Bool := a.2 ≠ 0 && b.2 ≠ 0 && a.1 < b.1 + b.2 && b.1 < a.1 + a.2

/-- No area of the list areasMeet a later one. -/
def areasApart : List Area → Bool
  | [] => true
  | a :: r => (r.all fun b => !areasMeet a b) && areasApart r

/-- The limit of what an image may address in the near tier (R306). -/
def nearLimit (nm : List Byte) : Nat := nearEnd - bytesN nm 1 1 * 0x60000000

/-- The module areas: object table, dirty bitmaps, tumblers (R300). -/
def moduleAreas (nm : List Byte) : List Area :=
  let o := bytesN nm 72 8
  let t := bytesN nm 88 8
  [(o % 2 ^ 46, 128 * (o / 2 ^ 46)), (bytesN nm 80 8, 2048 * (o / 2 ^ 46)), (t % 2 ^ 46, 4096 * (t / 2 ^ 46))]

def winsOf (b : List Byte) : List Area :=
  (List.range (bytesN b 0 1)).map fun w => (bytesN b (16 + 16 * w) 8, bytesN b (24 + 16 * w) 8 % 2 ^ 46)

/-- The pools of a PART_POOLS section (R307). -/
def poolsOf (b : List Byte) : List Area :=
  let sts := bytesN b 4 4
  let seq := bytesN b 20 4
  let pg := bytesN b 44 4
  [(bytesN b 8 8, 128 * sts), (bytesN b 24 8, 128 * seq), (bytesN b 32 8, 4 * bytesN b 40 1 * seq),
   (bytesN b 48 8, 1024 * bytesN b 42 2 * pg), (bytesN b 56 8, 16 * pg)]

/-! ### Stage 9: the near tier -/

def bandList (nm : List Byte) : List Nat := (List.range (bytesN nm 0 1)).map fun i => bytesN nm (8 + 8 * i) 8

/-- Bands follow one another without gaps from row 0 to the last (R230). -/
def bandsCover : Nat → List Nat → Bool
  | r, [] => decide (r = NR)
  | r, v :: rest => bitsOf v 22 0 = r && bandsCover (r + bitsOf v 54 32) rest

def stage9 (s : State) (es : List EffSec) : List Chk :=
  let nm := effBody es 2 0xFF
  let i := effIdx es 2 0xFF
  let bands := bandList nm
  let lim := nearLimit nm
  let last := bands.getLast?.getD 0
  [ ⟨i, some 8, bandsCover 0 bands⟩,
    ⟨i, some (8 * bands.length), bitsOf last 62 62 = 0⟩,
    ⟨i, some (8 * bands.length), 32768 * bytesN nm 1 1 ≤ bitsOf last 54 32⟩,
    ⟨i, some 1, s.nret ≤ bytesN nm 1 1⟩ ] ++
  ((newParts es).flatMap fun p => (winsOf (effBody es 0x11 p)).zipIdx.map fun w =>
    ⟨effIdx es 0x11 p, some (16 + 16 * w.2), nearEnd ≤ w.1.1 || w.1.1 + w.1.2 ≤ lim⟩) ++
  [ ⟨i, some 72, (moduleAreas nm).all (fun a => a.1 + a.2 ≤ lim) && areasApart (moduleAreas nm)⟩ ]

/-! ### Stage 10: the fabric -/

def credOf (b : List Byte) (p l v : Nat) : Nat := bytesN b (64 + 8 * (24 * p + l) + v) 1

def stage10 (es : List EffSec) : List Chk :=
  let b := effBody es 3 0xFF
  let i := effIdx es 3 0xFF
  let wide := (List.range 24).filter fun l => 2 ≤ bytesN b (l / 4) 1
  let sum (l : Nat) : Nat := ((List.range 16).flatMap fun p => (List.range 8).map fun v => credOf b p l v).sum
  ((List.range 24).map fun l => ⟨i, some (32 + l), decide (bytesN b (32 + l) 1 + sum l ≤ 4096)⟩) ++
  (List.range 16).flatMap fun p =>
    let any' := (List.range 24).any fun l => (List.range 6).any fun v => credOf b p l (v + 2) ≠ 0
    ((List.range 24).map fun l =>
      ⟨i, some (64 + 8 * (24 * p + l)),
       credOf b p l 0 = 0 && credOf b p l 1 = 0 &&
       ((List.range 6).all fun v => credOf b p l (v + 2) = 0 || 6 ≤ credOf b p l (v + 2)) &&
       (!any' || !wide.contains l || (List.range 6).all fun v => credOf b p l (v + 2) ≠ 0)⟩)

/-! ### Stage 11: cores, controllers and stream groups -/

/-- A core's record in a PART_CORES section: GROUP, GSIZE, GINDEX, WORK_KIB. -/
structure GroupRec where
  part : Nat
  group : Nat
  size : Nat
  index : Nat
  work : Nat
  deriving DecidableEq, Repr

def groupRecs (es : List EffSec) : List GroupRec :=
  (effParts es).flatMap fun p =>
    let b := effBody es 0x10 p
    (List.range (bytesN b 1 1)).filterMap fun j =>
      let e := 32 + 8 * j
      if bytesN b (e + 2) 1 = 0xFF then none
      else some { part := p, group := bytesN b (e + 2) 1, size := bytesN b (e + 3) 1, index := bytesN b (e + 4) 1,
                  work := bytesN b (e + 6) 2 }

/-- The stream groups of a partition are valid (R305). -/
def groupsOk (rs : List GroupRec) (p : Nat) : Bool :=
  (rs.filter fun r => r.part = p).all fun r =>
    let ms := rs.filter fun x => x.group = r.group
    ms.all (fun x => x.part = p && x.size = r.size && x.work = r.work) && ms.length = r.size &&
    (List.range r.size).all fun i => (ms.countP fun x => x.index = i) = 1

/-- The partition is one that the image leaves as it stands. -/
def remaining (s : State) (es : List EffSec) (p : PartId) : Bool :=
  (s.part p).exists && es.any fun e => e.kind = 0x10 && e.part = p.val && e.idx = 0xFF

def stage11 (s : State) (es : List EffSec) : List Chk :=
  let rs := groupRecs es
  (newParts es).flatMap fun p =>
    let b := effBody es 0x10 p
    let i := effIdx es 0x10 p
    ((listedCores b).map fun c =>
      ⟨i, some (8 + c.val / 8),
       s.usable c && !((newParts es).any fun q => q ≠ p && (listedCores (effBody es 0x10 q)).contains c) &&
       !((List.finRange 16).any fun q => remaining s es q && (s.part q).cores.contains c)⟩) ++
    [ ⟨i, some 0, (effParts es).all fun q => q = p || bytesN (effBody es 0x10 q) 0 1 ≠ bytesN b 0 1⟩,
      ⟨i, none, groupsOk rs p⟩ ]

/-! ### Stage 12: windows, pools and identifiers -/

def farWindow : Area := (farBase, 0x40000000000)

def windowOk (lim : Nat) (w : Area) : Bool :=
  w.1 % 65536 = 0 && (w.1 + w.2 ≤ lim || (farWindow.1 ≤ w.1 && w.1 + w.2 ≤ farWindow.1 + farWindow.2))

/-- The limits of PART_POOLS (R307). -/
def poolLimits (lim : Nat) (tumb : Nat) (b : List Byte) : List (Nat × Bool) :=
  [(4, bytesN b 0 2 + bytesN b 4 4 ≤ 65536), (8, bytesN b 8 8 % 128 = 0), (20, bytesN b 16 4 + bytesN b 20 4 ≤ 2 ^ 20),
   (24, bytesN b 24 8 % 4096 = 0), (32, bytesN b 32 8 % 4096 = 0), (48, bytesN b 48 8 % 4096 = 0),
   (56, bytesN b 56 8 % 4096 = 0),
   (68, bytesN b 66 2 + bytesN b 68 2 ≤ tumb),
   (8, (poolsOf b).all fun a => a.2 = 0 || a.1 + a.2 ≤ lim)]

/-- The ranges of identifiers of a partition: streams, sequences, tumblers. -/
def idRanges (b : List Byte) : List Area :=
  [(bytesN b 0 2, bytesN b 4 4), (bytesN b 16 4, bytesN b 20 4), (bytesN b 66 2, bytesN b 68 2)]

def stage12 (es : List EffSec) : List Chk :=
  let nm := effBody es 2 0xFF
  let lim := nearLimit nm
  let areas := moduleAreas nm
  let ps := effParts es
  let wins := ps.flatMap fun p => winsOf (effBody es 0x11 p)
  let pools (p : Nat) : List Area := poolsOf (effBody es 0x12 p)
  let allPools := ps.flatMap pools
  let near := (ps.map fun p => bytesN (effBody es 0x11 p) 8 4).sum
  let far := (ps.map fun p => bytesN (effBody es 0x11 p) 12 4).sum
  let used := ((areas ++ allPools).map Prod.snd).sum
  (newParts es).flatMap fun p =>
    let m := effBody es 0x11 p
    let q := effBody es 0x12 p
    let im := effIdx es 0x11 p
    let iq := effIdx es 0x12 p
    let mine := winsOf m
    ((mine.zipIdx).map fun w => ⟨im, some (16 + 16 * w.2), windowOk lim w.1⟩) ++
    [ ⟨im, none, areasApart mine⟩,
      ⟨im, none, mine.all fun a => (ps.flatMap pools).all fun b => !areasMeet a b⟩,
      ⟨im, some 8, near * 65536 + used ≤ lim⟩,
      ⟨im, some 12, far ≤ 0x4000000⟩ ] ++
    ((poolLimits lim (bytesN nm 88 8 / 2 ^ 46) q).map fun f => ⟨iq, some f.1, f.2⟩) ++
    [ ⟨iq, none, areasApart (pools p)⟩,
      ⟨iq, none, (pools p).all fun a => (areas ++ wins ++ (ps.filter (· ≠ p)).flatMap pools).all fun b => !areasMeet a b⟩,
      ⟨iq, none, ps.all fun r => r = p ||
        ((idRanges q).zip (idRanges (effBody es 0x12 r))).all fun x => !areasMeet x.1 x.2⟩ ]

/-! ### Validation (R310) -/

/-- The load is allowed in the module's state (R313, R440). -/
def stage13 (s : State) (img : List Byte) : List Chk :=
  [⟨0xFF, some 6, !(imgPartial img && s.esp.espSt == .none) && !s.pwr.shutting⟩]

/-- Cause, section and offset of a refusal. -/
structure Refused where
  cause : Nat
  sec : Nat
  off : Option Nat
  deriving DecidableEq, Repr

/-- The first failing check of the stages, in order. -/
def firstBad : List (Nat × List Chk) → Option Refused
  | [] => none
  | (cause, cs) :: rest =>
    match cs.find? fun c => !c.ok with
    | some c => some { cause := cause, sec := c.sec, off := c.off }
    | none => firstBad rest

/-- Validation of an image: `start` for a load at start-up (R310, R315). A PARTIAL without loaded sections has no
structure to be checked against and fails at stage 13. -/
def State.validate (s : State) (img : List Byte) (start : Bool) : Option Refused :=
  let es := s.effective img
  let lone := imgPartial img && s.esp.espSt == .none
  firstBad ([(1, stage1 img), (2, stage2 s img), (3, stage3 s img), (4, stage4 img), (5, stage5 img), (6, stage6 img),
    (7, stage7 s img start), (8, stage8 img)] ++
    (if lone then [] else [(9, stage9 s es)] ++ (if imgPartial img then [] else [(10, stage10 es)]) ++
      [(11, stage11 s es), (12, stage12 es)]) ++ [(13, stage13 s img)])

/-- The recheck of R314, step 3, by the named cause 0x0F. -/
def State.recheck (s : State) (img : List Byte) : Option Refused :=
  let es := s.effective img
  firstBad [(0x0F, stage11 s es ++ stage12 es)]

end Sys2Proof.Machine
end

