-- ==== Sys2Proof/Machine/HostBase.lean ====
section
/-! DEFINITION. The start of a host command (R355), and the single queue of image loads, firmware loads and rotations
(R312, R389, R414). -/

namespace Sys2Proof.Machine

/-- The session of the command has closed (R349, R354). -/
def State.orphaned (s : State) (c : HCmd) : Bool :=
  match s.findSlot c.handle with
  | some x => x.st == .orphan
  | none => false

/-- Earlier commands of the session that are not complete. -/
def State.cmdEarlier (s : State) (c : HCmd) : List HCmd :=
  (s.fct.cmds.takeWhile fun x => x.handle ≠ c.handle).filter fun x => x.sess = c.sess && s.orphaned x == s.orphaned c

/-- The command of a handle may start: it is of this opcode and not begun, a FENCE finds no earlier command of its session
incomplete, and it does not wait for a hold to end (R314, R355). -/
def State.cmdReady (s : State) (h : BitVec 32) (opc : Nat) : Option HCmd :=
  match s.findCmd h with
  | none => none
  | some c =>
    if c.opc.toNat = opc && s.ready && !c.running && !c.sentAll && !c.deferred && c.issued.isNone && !c.atHold &&
        !(c.fence && !(s.cmdEarlier c).isEmpty) then some c
    else none

/-- What a command does when it starts. -/
def State.withCmd (s : State) (h : BitVec 32) (opc : Nat) (f : State → HCmd → State) : State :=
  match s.cmdReady h opc with
  | some c => f s c
  | none => s

/-- All data of the command have arrived. -/
def HCmd.full (c : HCmd) : Bool := decide (c.wants ≤ c.xfer)

/-- A load is in progress. -/
def State.loadBusy (s : State) : Bool := s.esp.load.isSome || s.rep.fwLoad.isSome

/-- A load that arrived earlier is not complete. -/
def State.loadAhead (s : State) (h : BitVec 32) : Bool :=
  (s.fct.cmds.takeWhile fun x => x.handle ≠ h).any fun x => isLoadOpc x.opc.toNat

/-- A load or rotation runs in arrival order: at once, or when every one that arrived earlier is complete. Until then it
waits, and is marked so. -/
def State.inTurn (s : State) (h : BitVec 32) (opc : Nat) (f : State → HCmd → State) : State :=
  match s.findCmd h with
  | none => s
  | some c =>
    let waits := s.loadBusy || s.loadAhead h
    if c.deferred then
      if c.opc.toNat = opc && s.ready && !waits then f (s.unqueue h) c else s
    else s.withCmd h opc fun s c =>
      if !c.full then s
      else if waits then
        (s.modCmd h fun c => { c with deferred := true }).modEsp fun e => { e with loadsWaiting := e.loadsWaiting ++ [h] }
      else f s c

/-- DONE, or DONE_DEFERRED for a load that waited for another: every one that arrived while another was not complete. -/
def HCmd.loadDone (c : HCmd) : Status := if c.deferred || c.behind then stDeferred else stDone

/-- A refusal with its cause in result byte 8 (R389, R421). -/
def State.refuseCmd (s : State) (h : BitVec 32) (cause : Nat) : State := s.endCmd h stBadDesc (resultOf (leBytes 1 cause))

/-- Commands that waited for a partition's hold to end go on, or end when it is gone (R314). -/
def State.endHold (s : State) (p : PartId) (gone : Bool) : State :=
  let mine := s.fct.cmds.filter fun c => c.atHold && c.partition = some p
  if gone then s.each mine fun s c => s.endCmd c.handle stBadImage 0
  else s.each mine fun s c => s.modCmd c.handle fun c => { c with atHold := false }

end Sys2Proof.Machine
end

