-- ==== Sys2Proof/Machine/Firmware.lean ====
section
/-! DEFINITION. Firmware images and their activation (R388 to R391, R404, R407). How a controller's self-test comes out
is the command's operand for the module controllers and a free value for a partition controller
(notes/assumptions/25.md). -/

namespace Sys2Proof.Machine

/-! ### The image (R388) -/

structure FwComp where
  kind : Nat
  off : Nat
  len : Nat
  hash : BitVec 256
  clean : Bool
  body : List Byte
  deriving DecidableEq, Repr

def fwComp (img : List Byte) (i : Nat) : FwComp :=
  let e := 64 + 48 * i
  let off := bytesN img (e + 8) 4
  let len := bytesN img (e + 12) 4
  { kind := bytesN img e 1, off := off, len := len, hash := BitVec.ofNat 256 (bytesN img (e + 16) 32),
    clean := zeroAt img (e + 1) (e + 8), body := (img.drop off).take len }

def fwComps (img : List Byte) : List FwComp := (List.range (bytesN img 18 1)).map (fwComp img)

def fwVersionOf (img : List Byte) : Nat := bytesN img 4 4

/-- Components follow one another, with zero bytes between them and before the signature. -/
def fwGaps (img : List Byte) : Nat → List FwComp → Bool
  | prev, [] => prev ≤ img.length - 2420 && zeroAt img prev (img.length - 2420)
  | prev, c :: r => prev ≤ c.off && c.off % 64 = 0 && zeroAt img prev c.off && fwGaps img (c.off + c.len) r

/-- FORMAT. -/
def fwFormat (img : List Byte) : Bool :=
  let n := bytesN img 18 1
  img.length ≤ 0x1000000 && 64 + 48 * n + 2420 ≤ img.length && bytesN img 0 4 = 0x31574642 && bytesN img 12 4 = img.length &&
  1 ≤ n && n ≤ 8 && zeroAt img 19 64 && (fwComps img).all (fun c => c.kind ≤ 2 && c.clean) &&
  fwGaps img (64 + 48 * n) (fwComps img)

/-- A key that its ring lets sign firmware. -/
def State.fwSigned (s : State) (img : List Byte) : Bool :=
  let n := img.length - 2420
  match s.roleKey (bytesN img 17 1) 0 with
  | some k => Config.mldsaVerify k.pk "" (img.take n) (img.drop n)
  | none => false

def fwHashes (img : List Byte) : Bool := (fwComps img).all fun c => Config.sha3 c.body = c.hash

/-- The first failing check of R389 up to its cause 0x07; `start` accepts the floor itself, which the current firmware
has (R391, R406). -/
def State.fwBad (s : State) (img : List Byte) (start : Bool) : Option Nat :=
  if !fwFormat img then some 0x01
  else if bytesN img 16 1 ≠ 0xB1 then some 0x02
  else if !s.fwSigned img then some 0x03
  else if !fwHashes img then some 0x05
  else if fwVersionOf img < s.rep.fwFloor.toNat || (!start && fwVersionOf img = s.rep.fwFloor.toNat) then some 0x07
  else none

def State.fwRefused (s : State) (img : List Byte) : Option Nat :=
  match s.fwBad img false with
  | some x => some x
  | none =>
    if s.pwr.shutting then some 0x0C else if s.rep.fwVersion.toNat < bytesN img 8 4 then some 0x0D else none

/-- SEC_FWMEAS: the hash over the component hashes in order (R406). -/
def fwMeasure (img : List Byte) : BitVec 256 := Config.sha3 ((fwComps img).flatMap fun c => leBytes 32 c.hash.toNat)

/-! ### Activation (R390) -/

def otherSlot (i : Fin 2) : Fin 2 := if i = 0 then 1 else 0

/-- Partition controllers bound to an existing partition. -/
def State.boundCtrls (s : State) : List (BitVec 4) := (s.existing.map fun p => (s.part p).cfg.ctrl).eraseDups

/-- Every controller runs the new version: its slot is current and the floor rises. -/
def State.fwDone (s : State) (h : BitVec 32) : State :=
  let new := otherSlot s.rep.fwCurrent
  let v := (vget s.rep.fwSlots new).version
  let st := match s.findCmd h with
    | some c => c.loadDone
    | none => stDone
  let s := (s.modRep fun r => { r with fwCurrent := new, fwFloor := v, fwState := 0, fwLoad := none, fwCtrls := [] }).ledger 5
  s.endCmd h st (resultOf (leBytes 4 0 ++ leBytes 4 v.toNat))

/-- A controller failed self-test: the old version runs again everywhere. -/
def State.fwRevert (s : State) (h : BitVec 32) : State :=
  let old := vget s.rep.fwSlots s.rep.fwCurrent
  ((s.modRep fun r => { r with fwVersion := old.version, fwState := 0, fwLoad := none, fwCtrls := [] }).modSec fun x =>
    { x with fwMeas := fwMeasure old.img }).refuseCmd h 0x0E

/-- A partition controller loads its component, after the hinge actions of its partition. -/
def State.pctlLoad (s : State) (p : PartId) : State :=
  match s.rep.fwLoad with
  | none => s
  | some h =>
    let k := (s.part p).cfg.ctrl
    if !s.rep.fwCtrls.contains k then s
    else
      let (v, s) := s.fresh
      if v.getLsbD 0 then s.fwRevert h
      else
        let s := s.modRep fun r => { r with fwCtrls := r.fwCtrls.filter fun x => x ≠ k }
        if s.rep.fwCtrls.isEmpty then s.fwDone h else s

/-- A validated image is written to the inactive slot and activated. In PROVISIONING it is only named current, and a
restart follows (R407). -/
def State.fwActivate (s : State) (c : HCmd) (selfTest : Bool) : State :=
  let img := c.data
  let v := BitVec.ofNat 32 (fwVersionOf img)
  let new := otherSlot s.rep.fwCurrent
  let s := s.modRep fun r => { r with fwSlots := vset r.fwSlots new { version := v, img := img } }
  if s.sec.provisioning then (s.fwDone c.handle).modSec fun x => { x with restartDue := some c.handle }
  else if !selfTest then s.refuseCmd c.handle 0x0E
  else
    let s := (s.modRep fun r =>
      { r with fwVersion := v, fwState := 2, fwCtrls := s.boundCtrls, fwLoad := some c.handle }).modSec fun x =>
        { x with fwMeas := fwMeasure img }
    let s := s.modCmd c.handle fun c => { c with running := true }
    if s.rep.fwCtrls.isEmpty then s.fwDone c.handle else s

def execFirmwareLoad (h : BitVec 32) (selfTest : Bool) (s : State) : Host.Outcome State Fault Refusal :=
  .next (s.inTurn h 0x31 fun s c =>
    match s.fwRefused c.data with
    | some x => s.refuseCmd h x
    | none => s.fwActivate c selfTest)

end Sys2Proof.Machine
end

