-- ==== Sys2Proof/Machine/Partition.lean ====
section
/-! DEFINITION. Steps and the step fence (R320, R321), the boundary and its list (R322 to R325), the watchdog (R326),
hinge points with substitution and lending (R329 to R331, R377, R378), and leases (R334, R335). What the chapter leaves
open is notes/assumptions/24.md. -/

namespace Sys2Proof.Machine

/-! ### Steps (R320 to R322) -/

/-- Operations of the ending step that are not complete. -/
def State.endingOps (s : State) (c : CoreId) : List Op :=
  (s.core c).ops.filter fun o => !o.boundary && !(s.core c).behindFence o

/-- The end handshake: every core of the partition latches its next ticket. -/
def State.fenceStep (s : State) (p : PartId) : State :=
  s.each (s.coresOf p) fun s c => s.modCore c fun k => { k with fenced := true, latch := k.next }

def State.unfence (s : State) (p : PartId) : State :=
  s.each (s.coresOf p) fun s c => s.modCore c fun k => { k with fenced := false }

/-- The next step opens; the watchdog starts at zero. -/
def State.openStep (s : State) (p : PartId) : State :=
  (s.unfence p).modPart p fun x =>
    { x with st := .step, steps := x.steps + 1, overrun := false, bd := { x.bd with stage := 0 } }

/-- PART_END is written by a master of the partition or by the host (R320). -/
def State.mayEndStep (s : State) (m : Master) (p : PartId) : Bool :=
  match m with
  | .thread c _ => s.owner c = some p
  | .session i => (s.sess i).isOpen && (s.sess i).holds p
  | _ => false

/-- A write of PART_END. -/
def State.endStep (s : State) (m : Master) (p : PartId) (v : Word) : State :=
  if !s.mayEndStep m p then s
  else match (s.part p).st with
    | .absent => s
    | .step =>
      let from' : Option CoreId := match m with
        | .thread c _ => some c
        | _ => none
      (s.fenceStep p).modPart p fun x =>
        { x with st := .quiesce, bd := { x.bd with list := v.setWidth 46, count := v.extractLsb' 48 16, listCore := from' } }
    | _ => s.modBound p fun b => { b with late := true }

def execPartEnd (m : Master) (p : PartId) (v : Word) (s : State) : Host.Outcome State Fault Refusal :=
  .next (s.endStep m p v)

/-! ### The boundary list (R323) -/

/-- The list's place is legal: 64-byte aligned, in the partition's windows, in the near tier or in the core store of the
core whose thread ended the step. -/
def State.listPlaceOk (s : State) (p : PartId) : Bool :=
  let b := (s.part p).bd
  let a := b.list.toNat
  let n := 16 * b.count.toNat
  a % 64 = 0 && (inNear a n || (match b.listCore with
    | some c => inStore c a n
    | none => false)) && (s.violates p a n false).isNone

def classAllows (cls opc : Nat) : Bool :=
  match cls with
  | 0 => opc = 0x29 || opc = 0x39
  | 1 => opc = 0x28 || opc = 0x2A || opc = 0x2D || opc = 0x38 || opc = 0x3A
  | 2 => opc = 0x2B || opc = 0x2C
  | 3 => opc = 0x3B
  | _ => false

/-- The core an entry names, if it is a core of the partition. -/
def State.entryCore (s : State) (p : PartId) (n : Nat) : Option CoreId :=
  (toFin? 176 n).filter fun c => s.owner c = some p && s.usable c

/-- An entry as the controller reads it, with its descriptor where that can be read. -/
def State.readEntry (s : State) (p : PartId) (bad : BadSectors) (i : Nat) : BEntry :=
  let a := (s.part p).bd.list.toNat + 16 * i
  let da := s.rdN a 8
  let core := s.rdN (a + 8) 1
  let cls := s.rdN (a + 9) 1
  let bundle := s.rdN (a + 10) 2
  let place := inNear da 128 || (match s.entryCore p core with
    | some c => inStore c da 128
    | none => false)
  let desc := if da % 64 = 0 && place && (s.violates p da 128 false).isNone && s.readable bad da 128 then
    some (descOf (s.rd da 128)) else none
  let ok := s.rdN (a + 12) 4 = 0 && (bundle = 0 || cls = 1) && (s.entryCore p core).isSome && (match desc with
    | some d => classAllows cls (dOpc d) && dOrder d = 0
    | none => false)
  { desc := desc, core := BitVec.ofNat 8 core, cls := BitVec.ofNat 8 cls, bundle := BitVec.ofNat 16 bundle, ok := ok }

/-- An entry that fails is not issued: its record says so, or the CORE_ELOG of the core it names. -/
def State.failEntry (s : State) (p : PartId) (e : BEntry) : State :=
  let crec := match e.desc with
    | some d => dCrec d
    | none => 0
  let legal := crec ≠ 0 && crec % 32 = 0 && (match s.entryCore p e.core.toNat with
    | some c => crecLegal c crec
    | none => inNear crec 32) && (s.violates p crec 32 true).isNone
  if legal then s.store crec (recordBytes 0 stBadDesc (BitVec.ofNat 8 p.val) 0 0 0)
  else match toFin? 176 e.core.toNat with
    | none => s
    | some c => s.modReg c fun r =>
      if r.elogValid then { r with elogOvf := true }
      else { r with elogValid := true, elogStatus := stBadDesc, elogTicket := 0 }

/-- The controller reads the whole list before stage 1. -/
def State.readList (s : State) (p : PartId) (bad : BadSectors) : State :=
  let b := (s.part p).bd
  let s := s.modBound p fun b =>
    { b with stage := 1, bRefused := 0, bAdmitted := 0, bEntries := 0, bundleRes := 0, bundle := none, entries := [] }
  if !s.listPlaceOk p || !s.readable bad b.list.toNat (16 * b.count.toNat) then
    s.modBound p fun b => { b with listErr := true }
  else
    let es := (List.range b.count.toNat).map (s.readEntry p bad)
    let s := s.each (es.filter fun e => !e.ok) fun s e => s.failEntry p e
    s.modBound p fun b => { b with entries := es.filter fun e => e.ok }

/-! ### Issue of entries (R321, R324) -/

/-- Boundary operations of the partition that are not complete. -/
def State.boundaryOps (s : State) (p : PartId) : Bool :=
  (s.coresOf p).any fun c => (s.core c).ops.any fun o => o.boundary

/-- A core takes a boundary operation while a slot is free, and always when none of its slots holds one, so that
operations behind the fence never keep the boundary from its end. -/
def Core.takesBoundary (k : Core) : Bool := k.slotFree || !(k.ops.any fun o => o.boundary)

/-- The entries of a stage. -/
def stageTakes (k : Nat) (bundle : Option (BitVec 16 × Nat)) (e : BEntry) : Bool :=
  let opc := match e.desc with
    | some d => dOpc d
    | none => 0
  match k with
  | 1 => e.cls = 0
  | 2 => e.cls = 1 && (match bundle with
    | some b => e.bundle = b.1
    | none => false)
  | 3 => e.cls = 2 && opc = 0x2B
  | 4 => e.cls = 2 && opc = 0x2C
  | 5 => e.cls = 3
  | _ => false

/-- Issue of one entry; `out` is the outcome of its bundle: 1 fails it, 2 refuses it. -/
def State.issueEntry (s : State) (p : PartId) (out : Nat) (e : BEntry) : State :=
  match e.desc, s.entryCore p e.core.toNat with
  | some d, some c =>
    let i : Issue := { host := none, boundary := true, waited := false, sig := none,
                       after := if out = 2 then some (none, stAdmitRefused) else none }
    let bad := out = 1 || s.ctlBad c d
    (s.modCore c fun k => k.issue d bad i).modBound p fun b =>
      { b with bEntries := b.bEntries + 1 }
  | _, _ => s

/-- Entries of the present stage are issued in list order until one finds no slot; the others are kept. -/
def State.issueStage (s : State) (p : PartId) : State :=
  let b := (s.part p).bd
  let out := match b.bundle with
    | some x => x.2
    | none => 0
  let step (x : State × List BEntry × Bool) (e : BEntry) : State × List BEntry × Bool :=
    let (s, kept, stuck) := x
    if !stageTakes b.stage.toNat b.bundle e then (s, kept ++ [e], stuck)
    else
      let room := match s.entryCore p e.core.toNat with
        | some c => (s.core c).takesBoundary
        | none => true
      if stuck || !room then (s, kept ++ [e], true) else (s.issueEntry p out e, kept, false)
  let (s, kept, _) := b.entries.foldl step (s, [], false)
  s.modBound p fun b => { b with entries := kept }

/-! ### JOIN bundles (R325) -/

/-- Records as the bundle's earlier operations leave them: streams, state-store slots by lead, sequences. -/
structure JoinPlan where
  recs : List (Nat × StrRec)
  slots : List (CoreId × StrPlan)
  kv : KvPlan

def JoinPlan.slotsOf (x : JoinPlan) (c : CoreId) : StrPlan :=
  match x.slots.find? fun y => y.1 = c with
  | some y => { y.2 with recs := x.recs }
  | none => { recs := x.recs, added := [], removed := [] }

/-- The list and the records of an operation can be read, inside the partition's windows. -/
def State.joinReadable (s : State) (p : PartId) (c : CoreId) (bad : BadSectors) (d : Desc) (n : Nat) : Bool :=
  (s.readTrouble c bad (localPart (d64 d 32)) (16 * n)).isNone &&
  ((List.range n).all fun i =>
    let e := s.strEntry d i
    let k := s.kvEntry d i
    if dOpc d < 0x30 then
      (!s.strKnown c e.id || s.readable bad (s.strAt c e.id) 128) &&
      (dOpc d ≠ 0x2A || !s.strKnown c e.id2 || s.readable bad (s.strAt c e.id2) 128)
    else
      (!s.seqKnown p k.id || s.readable bad (s.seqAt p k.id) 128) &&
      (!s.seqKnown p k.id2 || s.readable bad (s.seqAt p k.id2) 128))

/-- One operation of a bundle validated against the plan so far. -/
def State.joinValid (s : State) (p : PartId) (bad : BadSectors) (x : JoinPlan) (e : BEntry) : Option JoinPlan :=
  match e.desc, s.entryCore p e.core.toNat with
  | some d, some c =>
    let (t, d) := s.boundsOf c bad d
    if t.isSome || headerBad c d false || !s.herePart (d64 d 32) then none
    else if dOpc d < 0x30 then
      if !ctlFields d || s.groupOf c = 0xFF || s.groupIndex c ≠ 0 || !s.joinReadable p c bad d (ctlCount d) then none
      else (s.strValidateAll c d (x.slotsOf c)).map fun y =>
        { x with recs := y.recs, slots := (c, y) :: x.slots.filter fun z => z.1 ≠ c }
    else if !kvFields d || !s.joinReadable p c bad d (d32 d 16) then none
    else ((List.range (d32 d 16)).foldl (fun k i => k.bind fun k => s.kvValidate p c d k i) (some x.kv)).map fun k =>
      { x with kv := k }
  | _, _ => none

/-- The pages that a KV_OPEN or KV_FORK of a bundle reserves. -/
def State.joinResv (s : State) (e : BEntry) : Nat :=
  match e.desc with
  | some d => if dOpc d = 0x38 || dOpc d = 0x3A then ((List.range (d32 d 16)).map fun i => (s.kvEntry d i).resv).sum else 0
  | none => 0

/-- The next bundle: validated, admitted or refused, and its reservation made. -/
def State.takeBundle (s : State) (p : PartId) (bad : BadSectors) : State :=
  let b := (s.part p).bd
  match b.entries.find? fun e => e.cls = 1 with
  | none => s
  | some e =>
    let mine := b.entries.filter fun x => x.cls = 1 && x.bundle = e.bundle
    let ok := (mine.foldl (fun x e => x.bind fun x => s.joinValid p bad x e)
      (some { recs := [], slots := [], kv := [] })).isSome
    let r := (mine.map s.joinResv).sum
    if !ok then s.modBound p fun b => { b with bundle := some (e.bundle, 1) }
    else match s.grant p r with
      | none => s.modBound p fun b => { b with bundle := some (e.bundle, 2), bRefused := b.bRefused + 1 }
      | some s => s.modBound p fun b =>
        { b with bundle := some (e.bundle, 0), bAdmitted := b.bAdmitted + 1, bundleRes := BitVec.ofNat 32 r }

/-- The bundle's last operation is complete: what no grant drew is unreserved again. -/
def State.endBundle (s : State) (p : PartId) : State :=
  let r := (s.part p).bd.bundleRes
  (s.modKv p (fun x => x) (· - r)).modBound p fun b => { b with bundle := none, bundleRes := 0 }

/-! ### Hinge actions (R330, R331, R377, R378) -/

/-- The lowest-numbered spare on the die of a core. -/
def State.spareFor (s : State) (c : CoreId) : Option CoreId :=
  (List.finRange 176).find? fun x => !vget s.act x && !vget s.ret x && dieOfCore x = dieOfCore c

/-- Bits of the core maps. -/
def State.setMaps (s : State) (c : CoreId) (act ret : Bool) : State :=
  { s with act := vset s.act c act, ret := vset s.ret c ret }

/-- The substitution table with a number's entry removed, or set to a spare. When all sixteen entries are in use, a
further substitution (by a lent core, R331) is not entered and the number stays unusable (DESIGN CHOICE,
notes/assumptions/43.md). -/
def State.setSubst (s : State) (c : CoreId) (spare : Option CoreId) : State :=
  let t := s.subst.map fun e => if e.1 && e.2.1.toNat = c.val then (false, 0, 0) else e
  match spare, (List.finRange 16).find? fun i => !(vget t i).1 with
  | some x, some i => { s with subst := vset t i (true, BitVec.ofNat 8 c.val, BitVec.ofNat 8 x.val) }
  | _, _ => { s with subst := t }

/-- The record of a core in its partition's PART_CORES, at its bytes (R304). -/
def State.coreRec (s : State) (p : PartId) (c : CoreId) : List Byte :=
  match s.esp.sections.find? fun x => x.kind = 0x10 && x.part.toNat = p.val with
  | none => []
  | some x =>
    let j := ((listedCores x.body).filter fun y => y.val < c.val).length
    (x.body.drop (32 + 8 * j)).take 8

/-- The lowest point that the thermal hold leaves a core (R328, R434). -/
def coreFloor (cap : Nat) : Nat := match capBand cap with
  | 3 => 850
  | 2 => 650
  | 1 => 450
  | _ => 250

/-- A core's registers take the values of its partition's sections. -/
def State.ilCore (s : State) (p : PartId) (c : CoreId) : State :=
  let b := s.coreRec p c
  let mhz := bytesN b 0 2
  let freq := if s.pwr.thermal then min mhz (coreFloor s.pwr.cap.toNat) else mhz
  (s.modReg c fun r => { r with part := some p, imgMhz := BitVec.ofNat 16 mhz, freqMhz := BitVec.ofNat 16 freq }).modSts c
    fun u => { u with stsGroup := BitVec.ofNat 8 (bytesN b 2 1), stsSize := BitVec.ofNat 5 (bytesN b 3 1),
                      stsIndex := BitVec.ofNat 4 (bytesN b 4 1), stsWork := BitVec.ofNat 11 (bytesN b 6 2) }

/-- A core slot with nothing in it, on the silicon that `x` runs on: its bypassed and failed columns, the events counted
against it and its cycle count stay with it (R67). -/
def freshCore (c : CoreId) (x : Core) : Core :=
  let k := Core.reset c
  { k with
    reg := { k.reg with silicon := x.reg.silicon, errEvents := x.reg.errEvents, cyc := x.reg.cyc }
    arr := { k.arr with colmap := x.arr.colmap, failCols := x.arr.failCols, perrCols := x.arr.perrCols } }

/-- Host commands whose operation a core loses complete RESOURCE_RETIRED. -/
def State.dropHostOps (s : State) (c : CoreId) : State :=
  s.each (s.core c).ops fun s o => match o.host with
    | some h => s.endCmd h stRetired 0
    | none => s

/-- Core store, state store, punnet and TXB zeroed. -/
def State.zeroSlot (s : State) (c : CoreId) : State :=
  let a := slotOf c
  { s.zero a 0x530000 with
    poison := s.poison.filter fun x => !(decide (a ≤ x * 64) && decide (x * 64 < a + 0x530000)) }

/-- The sectors of a range that cannot be read. -/
def State.badIn (s : State) (bad : BadSectors) (a n : Nat) : List Nat :=
  (bad ++ s.poison).filter fun x => decide (a ≤ x * 64) && decide (x * 64 < a + n)

/-- Streams with a slice in a core's state store, among those that `hit` picks by offset and length, are DAMAGED. -/
def State.damageSlices (s : State) (c : CoreId) (hit : Nat → Nat → Bool) : State :=
  s.each ((s.core c).sts.stsSlices.filter fun x => hit x.2.1 x.2.2) fun s x => s.damage c c x.1.toNat

/-- A thread on its substitute: what the core freeze froze is READY again. -/
def Thread.onSubstitute (x : Thread) : Thread :=
  if x.coreHeld && x.st == .frozen then { x with st := .ready, coreHeld := false } else { x with coreHeld := false }

/-- A retired core gets its substitute: what R377 names is copied, and the rest starts anew. -/
def State.substitute (s : State) (c x : CoreId) (bad : BadSectors) : State :=
  let k := s.core c
  let old := k.reg.silicon.toNat
  let known (y : CoreId) : Bool := vget s.ret y
  let a := slotOf c
  let lost := (s.badIn bad a 0x400000).filter fun y => !s.poison.contains y
  let gone := s.badIn bad (a + 0x400000) 0x100000
  let s := s.damageSlices c fun off n => gone.any fun y => decide (a + 0x400000 + off < y * 64 + 64) &&
    decide (y * 64 < a + 0x400000 + off + n)
  let s := { (s.zero (a + 0x520000) 0x10000) with poison := s.poison ++ lost }
  let f := freshCore c (s.core x)
  let s := s.setCore c { f with
    threads := k.threads.map Thread.onSubstitute, ops := k.ops, tokens := k.tokens, next := k.next, fenced := k.fenced,
    latch := k.latch,
    reg := { f.reg with part := k.reg.part, cyc := 0, imgMhz := k.reg.imgMhz, freqMhz := k.reg.freqMhz, elogValid := k.reg.elogValid,
                        elogOvf := k.reg.elogOvf, elogStatus := k.reg.elogStatus, elogTicket := k.reg.elogTicket }
    sts := { f.sts with stsGroup := k.sts.stsGroup, stsSize := k.sts.stsSize, stsIndex := k.sts.stsIndex,
                        stsWork := k.sts.stsWork, stsSlices := k.sts.stsSlices } }
  let s := match toFin? 176 old with
    | some y => s.setMaps y false true
    | none => s
  let told := (List.finRange 176).any fun y => y.val = old && known y
  let s := (s.setMaps x true false).setSubst c (some x)
  if told then s else s.noteRetired (partByte k.reg.part) 7 old old

/-- A retired core without a spare on its die: its number is unusable and its partition is short (R378). A core that was
lent and not yet taken in is lent no more (R18, R331). -/
def State.shorten (s : State) (c : CoreId) : State :=
  let k := s.core c
  let old := k.reg.silicon.toNat
  let told := (List.finRange 176).any fun y => y.val = old && vget s.ret y
  let s := (s.damageSlices c fun _ _ => true).dropHostOps c
  let f := freshCore c k
  let s := s.setCore c { f with fenced := k.fenced, latch := k.latch, reg := { f.reg with part := k.reg.part, cyc := 0 } }
  let s := s.modRep fun r => { r with lent := r.lent.filter fun x => x.1 ≠ c }
  let s := match toFin? 176 old with
    | some y => s.setMaps y false true
    | none => s
  let s := match k.reg.part with
    | some p => s.modPart p fun x => { x with shortCores := x.shortCores ++ [c] }
    | none => s
  let s := s.setSubst c none
  if told then s else s.noteRetired (partByte k.reg.part) 7 old old

def State.genDue (s : State) (p : PartId) : State := s.modBound p fun b => { b with genDue := true }

/-- Step 1: retired cores of the partition, and those that no partition owns; of two on one die the lower core number takes
the lower-numbered spare (DESIGN CHOICE, notes/assumptions/43.md). -/
def State.hingeSubst (s : State) (p : PartId) (bad : BadSectors) : State :=
  let cs := (List.finRange 176).filter fun c =>
    (s.core c).reg.retiring && (s.owner c = some p || s.owner c = none)
  s.each cs fun s c =>
    (match s.spareFor c with
     | some x => s.substitute c x bad
     | none => s.shorten c).genDue p

/-- The columns of a map. -/
def columnsOf (m : Word) : List Nat := (List.range 64).filter fun i => m.getLsbD i

/-- Step 2: failed columns of a core whose compute list is empty are bypassed (R101, R374); a core with a fifth one waits
to be retired (R375). -/
def State.hingeBypass (s : State) (p : PartId) : State :=
  s.each (s.coresOf p) fun s c =>
    let a := (s.core c).arr
    if a.failCols = 0 || (s.core c).ops.any (fun o => !o.move) || 4 < (columnsOf (a.colmap ||| a.failCols)).length then s
    else
      let s := s.modArr c fun a => { a with colmap := a.colmap ||| a.failCols, failCols := 0 }
      s.each (columnsOf a.failCols) fun s i =>
        let unit := i * 256 + (s.core c).reg.silicon.toNat
        s.noteRetired (BitVec.ofNat 8 p.val) 6 unit unit

/-- Numbers of a partition that need a core. -/
def State.needs (s : State) (p : PartId) : List CoreId :=
  (s.part p).shortCores.filter fun c => !(s.rep.lent.any fun x => x.2 = c)

/-- Cores that a partition could lend on a die. -/
def State.lendable (s : State) (d : PartId) (die : PortId) : List CoreId :=
  (s.part d).cores.filter fun c => dieOfCore c = die && s.usable c && !(s.core c).reg.retiring

def State.shareOf (s : State) (p : PartId) : Nat := (s.part p).cfg.share.toNat

/-- The donor may lend for a number of a short partition. -/
def State.mayLend (s : State) (d q : PartId) (n : CoreId) : Bool :=
  (s.part d).exists && (s.part d).cfg.yields && d ≠ q && s.shareOf d < s.shareOf q && !(s.lendable d (dieOfCore n)).isEmpty

/-- The number that donor D serves: of the partition with the highest share, ties to the lower number (R331). -/
def State.lendFor (s : State) (d : PartId) : Option (PartId × CoreId) :=
  let all := allParts.filterMap fun q => ((s.needs q).find? fun n => s.mayLend d q n).map fun n => (q, n)
  all.foldl (fun (b : Option (PartId × CoreId)) x => match b with
    | none => some x
    | some y => if s.shareOf y.1 < s.shareOf x.1 then some x else b) none

/-- No other donor for that number goes first: one of lower share, or of equal share and higher number. -/
def State.lendsFirst (s : State) (d q : PartId) (n : CoreId) : Bool :=
  !(allParts.any fun e => e ≠ d && s.mayLend e q n &&
    (s.shareOf e < s.shareOf d || (s.shareOf e = s.shareOf d && d.val < e.val)))

/-- A thread of the core holds a lease. -/
def State.coreLeases (s : State) (p : PartId) (c : CoreId) : Bool :=
  (s.part p).leases.toList.any fun l => l.used && !l.expired && l.core = c

/-- The lent core leaves its partition with everything zeroed. -/
def State.lendCore (s : State) (d : PartId) (c n : CoreId) : State :=
  let s := s.dropHostOps c
  let s := s.each (List.finRange 32) fun s t => s.idleThread c t true
  let s := (s.setCore c (freshCore c (s.core c))).zeroSlot c
  let s := s.modPart d fun x => { x with cores := x.cores.filter (· ≠ c) }
  s.modRep fun r => { r with lent := r.lent ++ [(c, n)] }

/-- The cores that a donor's lending would choose from. -/
def State.lendCandidates (s : State) (d : PartId) : List CoreId :=
  match s.lendFor d with
  | none => []
  | some (_, n) => s.lendable d (dieOfCore n)

/-- Step 3, the donor's side; none while every candidate's threads hold leases. -/
def State.hingeLend (s : State) (d : PartId) : Option State :=
  if !(s.part d).cfg.yields then some s
  else match s.lendFor d with
    | none => some s
    | some (q, n) =>
      if !s.lendsFirst d q n then some s
      else match ((s.lendable d (dieOfCore n)).filter fun c => !s.coreLeases d c).getLast? with
        | none => none
        | some c => some (s.lendCore d c n)

/-- Step 3, taking in: a lent core serves the retired number. -/
def State.hingeTake (s : State) (p : PartId) : State :=
  s.each (s.rep.lent.filter fun x => (s.part p).shortCores.contains x.2) fun s x =>
    let (c, n) := x
    let silicon := (s.core c).reg.silicon
    let k := s.core n
    let f := freshCore n (s.core c)
    let s := (s.setCore n { f with fenced := k.fenced, latch := k.latch }).zeroSlot n
    let s := (s.setSubst c none).setSubst n (toFin? 176 silicon.toNat)
    let s := (s.modPart p fun y => { y with shortCores := y.shortCores.filter (· ≠ n) }).modRep fun r =>
      { r with lent := r.lent.filter fun y => y ≠ x }
    (s.ilCore p n).genDue p

/-- Step 4: sequences whose home core has left get the partition's lowest-numbered remaining core. -/
def State.hingeHome (s : State) (p : PartId) : State :=
  let here := (s.part p).cores.filter fun c => s.usable c
  match here.head? with
  | none => s
  | some low =>
    let g := (s.part p).cfg
    s.each ((List.range g.seqCount.toNat).map (· + g.seqFirst.toNat)) fun s id =>
      let r := s.seqRec p id
      if r.opened && !(here.any fun c => c.val = r.home) then s.setSeq p id { r with home := low.val } else s

/-- Every punnet line of the partition is flushed; rows whose sectors cannot be read mark their pages (R166, R183,
R324). -/
def State.flushAll (s : State) (p : PartId) (bad : BadSectors) : State :=
  let s := s.each (s.coresOf p) fun s c => s.markPunnet c bad
  s.each (s.coresOf p) fun s c =>
    s.each ((((s.core c).kvc.punnet.filter PunnetRow.live).map PunnetRow.seq).eraseDups) fun s id =>
      s.flushLine p id.toNat .other

/-- The hinge actions are finished: the partition is held by a load, or its next step opens. -/
def State.hingeEnd (s : State) (p : PartId) : State :=
  let s := if (s.part p).bd.genDue then
    State.ledger { s.modBound p fun b => { b with genDue := false } with coreGen := s.coreGen + 1 } 1 else s
  let s := (s.hingeHome p).modPart p fun x => { x with waitLease := false }
  let s := s.pctlLoad p
  if (s.part p).holdReq then (s.unfence p).modPart p fun x => { x with st := .held }
  else (s.openStep p).modPart p fun x => { x with hinges := x.hinges + 1 }

/-- Hinge actions in the order of R330; lending may wait for leases (R335). -/
def State.hingeActs (s : State) (p : PartId) (bad : BadSectors) : State :=
  let s := (s.hingeSubst p bad).hingeBypass p
  match s.hingeLend p with
  | none => let cs := s.lendCandidates p
            s.modPart p fun x => { x with waitLease := true, waitCores := cs }
  | some s => (s.hingeTake p).hingeEnd p

/-! ### The commands of a boundary (R322, R324) -/

/-- The number of cycles that a step took: free, on its side of the budget (R326). -/
def State.stepCycles (s : State) (p : PartId) : Nat × State :=
  let (n, s) := s.cycles
  let b := (s.part p).cfg.budget.toNat
  (if (s.part p).overrun then max n (b + 1) else min n b, s)

def State.quiesced (s : State) (p : PartId) : Bool := (s.coresOf p).all fun c => (s.endingOps c).isEmpty

def execQuiesceDone (p : PartId) (bad : BadSectors) (s : State) : Host.Outcome State Fault Refusal :=
  .next (if (s.part p).st != .quiesce || !s.quiesced p then s
    else
      let (n, s) := s.stepCycles p
      let v := BitVec.ofNat 32 (min n 0xFFFFFFFF)
      let s := s.modPart p fun x => { x with st := .boundary, stLast := v, stMax := if x.stMax.toNat < v.toNat then v else x.stMax }
      (s.readList p bad).issueStage p)

/-- This boundary is a hinge point: STEPS reaches a multiple of HINGE_EVERY (R322). -/
def State.atHinge (s : State) (p : PartId) : Bool :=
  let x := s.part p
  x.cfg.hingeEvery.toNat ≠ 0 && (x.steps + 1).toNat % x.cfg.hingeEvery.toNat = 0

/-- Stage 5 is finished. -/
def State.endBoundary (s : State) (p : PartId) (bad : BadSectors) : State :=
  if s.atHinge p then (s.flushAll p bad).modPart p fun x => { x with st := .hinge, bd := { x.bd with stage := 0 } }
  else s.openStep p

/-- The next bundle, the next stage, or the end of the boundary. -/
def State.nextStage (s : State) (p : PartId) (bad : BadSectors) : State :=
  let b := (s.part p).bd
  let s := if b.bundle.isSome then s.endBundle p else s
  if b.stage = 2 && b.entries.any fun e => e.cls = 1 then (s.takeBundle p bad).issueStage p
  else if b.stage = 5 then s.endBoundary p bad
  else
    let s := s.modBound p fun b => { b with stage := b.stage + 1 }
    (if b.stage = 1 then s.takeBundle p bad else s).issueStage p

def execBoundaryStage (p : PartId) (bad : BadSectors) (s : State) : Host.Outcome State Fault Refusal :=
  .next (let x := s.part p
    match x.st with
    | .boundary =>
      if x.bd.entries.any fun e => stageTakes x.bd.stage.toNat x.bd.bundle e then s.issueStage p
      else if s.boundaryOps p then s
      else s.nextStage p bad
    | .hinge => if x.waitLease then s else s.hingeActs p bad
    | _ => s)

/-! ### The watchdog (R326) -/

/-- Every incomplete operation of the ending step is stopped, a held one included (R385). -/
def State.stopEnding (s : State) (p : PartId) : State :=
  s.each (s.coresOf p) fun s c =>
    let k := s.core c
    let s := s.stopOps c stBudget true fun o => o.boundary || k.behindFence o
    s.each (s.endingOps c) fun s o => if o.phase == .heldBy then s.finish c o.ticket stBudget 0 else s

def execWatchdogOverrun (p : PartId) (s : State) : Host.Outcome State Fault Refusal :=
  .next (let x := s.part p
    if (x.st != .step && x.st != .quiesce) || x.overrun then s
    else
      let s := s.modPart p fun x =>
        { x with overrun := true, wdogCount := x.wdogCount + 1, wdogOvf := x.wdogOvf || x.wdogValid, wdogValid := true,
                 wdogStep := if x.wdogValid then x.wdogStep else x.steps }
      let s := if x.st == .step then
          (s.fenceStep p).modPart p fun x =>
            { x with st := .quiesce, bd := { x.bd with list := 0, count := 0, listCore := none } }
        else s
      (s.stopEnding p).notify { code := nOverrun, part := BitVec.ofNat 8 p.val, unit := 0, id := x.steps.setWidth 64, detail := 0 })

/-! ### Leases (R334, R335) -/

/-- The lease's slot is free again. -/
def State.freeLeaseSlot (s : State) (p : PartId) (i : Fin 64) : State :=
  s.modPart p fun x => { x with leases := vmod x.leases i fun l => { l with used := false, expired := false } }

/-- The lease table's slot is EXPIRED, and the memory side gives the count back if the word still names it. -/
def execLeaseExpiry (p : PartId) (slot : Fin 64) (s : State) : Host.Outcome State Fault Refusal :=
  .next (let l := vget (s.part p).leases slot
    if !l.used || l.expired then s
    else
      let s := s.modPart p fun x => { x with leases := vmod x.leases slot fun l => { l with expired := true } }
      let g := l.addr.toNat
      let a := localPart g
      let gen := (l.gen - 1).toNat
      if !s.isLocal g then
        (s.request p (if (s.part p).cfg.ctrl.toNat < 8 then 0 else 1) (.lease p slot) opAmo 0x50 g 6
          (leBytes 4 l.n.toNat ++ leBytes 1 slot.val ++ leBytes 1 gen)).2
      else match (if s.readable [] a 8 then expireWord (s.rdN a 8) slot.val gen l.n.toNat else none) with
        | some w => (s.storeN a 8 w).modPart p fun x => { x with leExpired := x.leExpired + 1 }
        | none => s.freeLeaseSlot p slot)

/-- A pre-emption goes on once the leases that it waited on have ended. -/
def execLeaseWaitEnd (p : PartId) (s : State) : Host.Outcome State Fault Refusal :=
  .next (let x := s.part p
    if !x.waitLease then s
    else match x.st with
      | .hinge => if (s.hingeLend p).isSome then (s.modPart p fun x => { x with waitLease := false }).hingeActs p [] else s
      | .held => if x.leasesHeld = 0 then s.modPart p fun x => { x with waitLease := false } else s
      | _ => s)

end Sys2Proof.Machine
end

