-- ==== Sys2Proof/Machine/Image.lean ====
section
/-! DEFINITION. Loading and replacement of the structure (R311 to R316): what the sections set (R299 to R309), a FULL load
in state NONE, staging, and a PARTIAL load with its hold, drain, recheck and commit (R314), with the object table of
R441. Readings are in notes/assumptions/26.md. -/

namespace Sys2Proof.Machine

/-! ### What the sections set -/

/-- A section as it is kept once applied (R318). -/
def SecEntry.applied (e : SecEntry) : Section :=
  { kind := BitVec.ofNat 8 e.kind, part := BitVec.ofNat 8 e.part, gen := BitVec.ofNat 32 e.gen, hash := e.hash, body := e.body }

def State.secBody (s : State) (kind part : Nat) : List Byte :=
  match s.esp.sections.find? fun x => x.kind.toNat = kind && x.part.toNat = part with
  | some x => x.body
  | none => []

def State.secGen (s : State) (kind part : Nat) : BitVec 32 :=
  match s.esp.sections.find? fun x => x.kind.toNat = kind && x.part.toNat = part with
  | some x => x.gen
  | none => 0

/-- The floor of the near-tier rate under a cap (R328). -/
def rateFloor (cap : Nat) : Nat := match capBand cap with
  | 3 => 44
  | 2 => 40
  | _ => 32

/-- The near tier runs at a rate, on every channel that serves or trains (R227). -/
def State.setNearRate (s : State) (r : Nat) : State :=
  { s.modPwr (fun u => { u with nearRate := BitVec.ofNat 8 r }) with
    chans := s.chans.map fun c => if c.st == .serving || c.st == .evacuating || c.st == .training then
      { c with rate := BitVec.ofNat 8 r } else c }

/-- MODULE (R299, R430). -/
def State.setModule (s : State) : State :=
  let b := s.secBody 1 0xFF
  let s := s.modPwr fun u =>
    { u with pctlMhz := BitVec.ofNat 16 (bytesN b 0 2), mctlMhz := BitVec.ofNat 16 (bytesN b 2 2),
             nearImgRate := BitVec.ofNat 8 (bytesN b 4 1), cap := BitVec.ofNat 8 (bytesN b 5 1) }
  let r := bytesN b 4 1
  s.setNearRate (if s.pwr.thermal then min r (rateFloor s.pwr.cap.toNat) else r)

def bandOf (b : List Byte) (i : Nat) : Band :=
  let v := bytesN b (8 + 8 * i) 8
  { valid := bitsOf v 63 63 = 1, split := bitsOf v 62 62 = 1, rows := BitVec.ofNat 23 (bitsOf v 54 32),
    first := BitVec.ofNat 23 (bitsOf v 22 0) }

/-- NEAR_MAP and FAR_SLOW (R300, R302). -/
def State.setTiers (s : State) : State :=
  let b := s.secBody 2 0xFF
  let f := s.secBody 4 0xFF
  let o := bytesN b 72 8
  let t := bytesN b 88 8
  (s.setFarMode (bytesN f 0 1 = 1)).modTier fun x =>
    { x with bands := Vector.ofFn fun i => bandOf b i.val, nretMax := BitVec.ofNat 4 (bytesN b 1 1),
             evacPct := BitVec.ofNat 7 (bytesN b 2 1), objCount := BitVec.ofNat 18 (o / 2 ^ 46),
             objBase := BitVec.ofNat 46 o, dirtyBase := BitVec.ofNat 46 (bytesN b 80 8),
             tumbCount := BitVec.ofNat 18 (t / 2 ^ 46), tumbBase := BitVec.ofNat 46 t,
             maintPct := BitVec.ofNat 8 (bytesN f 1 1),
             spread := BitVec.ofNat 16 (bytesN f 2 2), scrubReads := BitVec.ofNat 32 (bytesN f 4 4),
             patrolLen := BitVec.ofNat 64 (bytesN f 8 8) }

/-- FABRIC (R301). -/
def State.setFabric (s : State) : State :=
  let b := s.secBody 3 0xFF
  let hash := match s.esp.sections.find? fun x => x.kind = 3 with
    | some x => x.hash.extractLsb' 0 64
    | none => 0
  s.modFab fun f =>
    { f with torus := Vector.ofFn fun d => BitVec.ofNat 4 (bytesN b d.val 1), sysHash := hash,
             links := Vector.ofFn fun l =>
               { vget f.links l with
                 medium := BitVec.ofNat 2 (bytesN b (8 + l.val) 1), haspCred := BitVec.ofNat 8 (bytesN b (32 + l.val) 1),
                 cred := Vector.ofFn fun p => Vector.ofFn fun v => BitVec.ofNat 8 (credOf b p.val l.val v.val) } }

/-- RETIRE (R303). -/
def State.setRetire (s : State) : State :=
  let b := s.secBody 5 0xFF
  s.modEsp fun e => { e with thresholds := Vector.ofFn fun i => BitVec.ofNat 32 (bytesN b (16 * i.val) 4),
                             retireGen := s.secGen 5 0xFF }

def windowsOf (m : List Byte) : List Window :=
  (List.range (bytesN m 0 1)).map fun w =>
    let v := bytesN m (24 + 16 * w) 8
    { base := BitVec.ofNat 46 (bytesN m (16 + 16 * w) 8), size := BitVec.ofNat 46 v, ro := bitsOf v 63 63 = 1 }

/-- What the five sections of a partition set (R304 to R309). -/
def State.partCfg (s : State) (p : PartId) : PartCfg :=
  let c := s.secBody 0x10 p.val
  let m := s.secBody 0x11 p.val
  let q := s.secBody 0x12 p.val
  let t := s.secBody 0x13 p.val
  let y := s.secBody 0x14 p.val
  { ctrl := BitVec.ofNat 4 (bytesN c 0 1), yields := bytesN t 10 1 % 2 = 1, hingeEvery := BitVec.ofNat 16 (bytesN t 8 2),
    share := BitVec.ofNat 10 (bytesN c 2 2), budget := BitVec.ofNat 64 (bytesN t 0 8),
    leaseMax := BitVec.ofNat 64 (bytesN t 16 8), windows := windowsOf m, lookahead := BitVec.ofNat 6 (bytesN c 4 1),
    policy := BitVec.ofNat 2 (bytesN y 0 1), route := BitVec.ofNat 2 (bytesN y 1 1),
    escSat := BitVec.ofNat 16 (bytesN y 2 2), escPip := BitVec.ofNat 16 (bytesN y 4 2),
    stsFirst := BitVec.ofNat 16 (bytesN q 0 2), stsCount := BitVec.ofNat 17 (bytesN q 4 4),
    stsBase := BitVec.ofNat 46 (bytesN q 8 8), seqFirst := BitVec.ofNat 20 (bytesN q 16 4),
    seqCount := BitVec.ofNat 21 (bytesN q 20 4), seqBase := BitVec.ofNat 46 (bytesN q 24 8),
    plistBase := BitVec.ofNat 46 (bytesN q 32 8), capMax := BitVec.ofNat 8 (bytesN q 40 1),
    pageKib := BitVec.ofNat 16 (bytesN q 42 2), pgCount := BitVec.ofNat 24 (bytesN q 44 4),
    pgBase := BitVec.ofNat 46 (bytesN q 48 8), pgmetaBase := BitVec.ofNat 46 (bytesN q 56 8),
    punnetSectors := BitVec.ofNat 12 (bytesN q 64 2), tumbFirst := BitVec.ofNat 16 (bytesN q 66 2),
    tumbCount := BitVec.ofNat 16 (bytesN q 68 2), gen := s.secGen 0x10 p.val,
    nearBudget := BitVec.ofNat 32 (bytesN m 8 4), farBudget := BitVec.ofNat 32 (bytesN m 12 4) }

/-! ### Areas that start empty (R314, R441) -/

/-- A range of the near tier written with zeros. -/
def State.blank (s : State) (a n : Nat) : State := if n = 0 then s else s.wipe a n

/-- A partition's records, lists, pages, metadata and tumblers are FREE or empty: a FREE stream record has no slot, and
an entry of a page list holds no page (R137, R162). -/
def State.blankPools (s : State) (p : PartId) : State :=
  let g := (s.part p).cfg
  let s := s.each ((s.readAreas p).take 5) fun s r => s.blank r.1 (r.2 - r.1)
  let s := s.each (List.range g.stsCount.toNat) fun s i => s.storeN (g.stsBase.toNat + 128 * i + 8) 4 noSlot
  let s := s.store g.plistBase.toNat (List.replicate (4 * g.capMax.toNat * g.seqCount.toNat) 0xFF)
  s.blank (s.tier.tumbBase.toNat + 4096 * g.tumbFirst.toNat) (4096 * g.tumbCount.toNat)

/-- A core without partition: its registers read their reset values; a retirement that is decided stays so (R376). -/
def State.freeCore (s : State) (c : CoreId) : State :=
  let k := s.core c
  let f := freshCore c k
  s.setCore c { f with reg := { f.reg with frzCore := k.reg.frzCore && k.reg.retiring, retiring := k.reg.retiring,
                                           frzCause := if k.reg.retiring then k.reg.frzCause else 0 } }

/-- A core joins a partition: everything in its slot is zeroed first. -/
def State.joinCore (s : State) (c : CoreId) : State := (s.freeCore c).zeroSlot c

/-- A partition's sections take effect; it opens a step, its first one when it did not exist. -/
def State.openPart (s : State) (p : PartId) : State :=
  let old := s.part p
  let listed := listedCores (s.secBody 0x10 p.val)
  let s := s.each (listed.filter fun c => s.owner c ≠ some p) fun s c => s.joinCore c
  let base : Part := if old.exists then
      { old with steps := old.steps + 1, hinges := old.hinges + 1, overrun := false, shortCores := [], waitLease := false,
                 leases := old.leases.map fun l => { l with used := false, expired := false } }
    else Part.reset
  let cfg := s.partCfg p
  let s := s.modPart p fun _ =>
    { base with st := .step, cores := listed, cfg := cfg, kvFree := cfg.pgCount.setWidth 32, kvReserved := 0, kvClaimed := 0,
                holdReq := false, bd := { base.bd with stage := 0, entries := [], bundle := none, genDue := false } }
  (s.each listed fun s c => s.ilCore p c).blankPools p

/-! ### The object table (R441) -/

/-- The record of a restored object. -/
def SlowObj.restored (o : SlowObj) : ObjRec :=
  let whole := (List.range o.extents).all fun e => o.written.contains e
  { id := o.id.toNat, st := if whole then obSlow else obPoisoned, dest := 0, holder := o.owner.val, owner := o.owner.val,
    extents := o.extents, share := o.share.toNat, near := noAddr, far := noAddr, dirty := 0, pins := List.replicate 16 0 }

/-- The table is rebuilt from the translation layer's map, in ascending ID; objects without a record are deleted. -/
def State.restoreObjects (s : State) : State :=
  let n := s.tier.objCount.toNat
  let s := (s.blank s.tier.objBase.toNat (128 * n)).blank s.tier.dirtyBase.toNat (2048 * n)
  let s := s.modPwr fun u => { u with startDropped := 0 }
  s.each s.tier.slowObjs.zipIdx fun s x =>
    if x.2 < n then
      let s := s.putObj x.2 x.1.restored
      if x.1.restored.st = obPoisoned then s.poisonObj x.2 else s
    else (s.dropSlowObj x.1.id.toNat).modPwr fun u => { u with startDropped := u.startDropped + 1 }

/-! ### A FULL load in state NONE (R313, R315) -/

def State.imageNotice (s : State) (staged : Bool) (gen : BitVec 32) : State :=
  s.notify { code := nImage, part := 0xFF, unit := 0, id := gen.setWidth 64, detail := BitVec.ofNat 64 (ofBool staged) }

/-- The floors rise to the generations of the sections applied (R316). -/
def State.raiseFloors (s : State) (new : List Section) : State :=
  s.each new fun s x => s.modEsp fun e =>
    if x.kind.toNat ≤ 4 then { e with layoutFloor := x.gen, layoutGen := x.gen }
    else if x.kind = 5 then { e with retireFloor := x.gen }
    else match toFin? 16 x.part.toNat with
      | some p => { e with partFloors := vset e.partFloors p x.gen }
      | none => e

/-- Links that waited for an image go on (R270, R273). -/
def State.checkLinks (s : State) : State := (s.establish.each (List.finRange 24) fun s l => s.checkLink l).tellPeers

/-- A FULL image is applied to a module without structure. -/
def State.applyFull (s : State) (img : List Byte) : State :=
  let new := (secTable img).map SecEntry.applied
  let s := s.modEsp fun e =>
    { e with sections := new, espSt := .loaded, espLoads := e.espLoads + 1, imgCurrent := some img, load := none }
  let s := (((((s.raiseFloors new).ledger 4).setModule).setTiers).setFabric).setRetire
  let s := s.blank s.tier.tumbBase.toNat (4096 * s.tier.tumbCount.toNat)
  let s := s.each (allParts.filter fun p => (imgPmask img).getLsbD p.val) fun s p => s.openPart p
  let s := s.restoreObjects.recharge
  (s.checkLinks.syncHold).imageNotice false s.esp.layoutGen

/-! ### The outcome of a load (R310, R312, R359) -/

/-- ESP_ERR latches a refusal; with it comes the offset. -/
def State.latchEsp (s : State) (r : Refused) : BitVec 32 × State :=
  let (off, s) := match r.off with
    | some x => (BitVec.ofNat 32 x, s)
    | none => let (v, s) := s.fresh; (Config.freeOffset v.toNat, s)
  (off, s.modEsp fun e =>
    if e.espErrValid then { e with espErrOvf := true }
    else { e with espErrValid := true, espErrCause := BitVec.ofNat 8 r.cause, espErrSection := BitVec.ofNat 8 r.sec,
                  espErrOffset := off })

/-- A refused load completes BAD_IMAGE. -/
def State.imageRefused (s : State) (h : BitVec 32) (r : Refused) : State :=
  let (off, s) := s.latchEsp r
  s.endCmd h stBadImage (resultOf (leBytes 1 r.cause ++ leBytes 1 r.sec ++ [0, 0] ++ leBytes 4 off.toNat))

def State.imageDone (s : State) (h : BitVec 32) : State :=
  match s.findCmd h with
  | some c => s.endCmd h c.loadDone 0
  | none => s

/-- The partitions of a mask that exist. -/
def State.namedParts (s : State) (m : BitVec 16) : List PartId := s.existing.filter fun p => m.getLsbD p.val

/-- A load that holds partitions: those replaced and those removed. -/
def State.startHold (s : State) (c : HCmd) (rmask : BitVec 16) : State :=
  let pm := imgPmask c.data
  let s := (s.modCmd c.handle fun c => { c with running := true }).modEsp fun e =>
    { e with load := some { handle := c.handle, img := c.data, pmask := pm, rmask := rmask }, espSt := .holding }
  s.each (s.namedParts (pm ||| rmask)) fun s p => s.modPart p fun x => { x with holdReq := true }

/-- The start of an image load. -/
def State.startImage (s : State) (c : HCmd) : State :=
  let img := c.data
  match s.validate img false with
  | some r => s.imageRefused c.handle r
  | none =>
    if s.esp.espSt == .none then (s.applyFull img).imageDone c.handle
    else if imgPartial img then s.startHold c (imgRmask img)
    else if s.sameLayout img then
      s.startHold c (BitVec.ofNat 16 (mapBits 16 0 fun p =>
        (s.existing.any fun q => q.val = p) && !(imgPmask img).getLsbD p))
    else
      let gen := match secsOf (secTable img) 1 0xFF with
        | e :: _ => BitVec.ofNat 32 e.gen
        | [] => 0
      (((s.modEsp fun e => { e with imgStaged := some img }).ledger 4).imageNotice true gen).imageDone c.handle

def execImageLoad (h : BitVec 32) (s : State) : Host.Outcome State Fault Refusal :=
  .next (s.inTurn h 0x30 State.startImage)

def execWaitingLoadStart (s : State) : Host.Outcome State Fault Refusal :=
  .next (match s.fct.cmds.find? fun c => s.esp.loadsWaiting.contains c.handle with
    | some c => s.inTurn c.handle 0x30 State.startImage
    | none => s)

/-! ### Drain (R314, step 2) -/

/-- Every operation of a core that is not complete, queued and held ones included, ends with a failure. -/
def State.endAllOps (s : State) (c : CoreId) (st : Status) : State :=
  let s := s.stopOps c st true fun _ => false
  s.each (s.core c).ops fun s o => if o.phase == .heldBy then s.finish c o.ticket st 0 else s

def execLoadDrainTimeout (p : PartId) (s : State) : Host.Outcome State Fault Refusal :=
  .next (match s.esp.load with
    | none => s
    | some l =>
      if s.esp.espSt == .holding && (s.part p).st == .held && (l.pmask ||| l.rmask).getLsbD p.val then
        s.each (s.coresOf p) fun s c => s.endAllOps c stAborted
      else s)

/-! ### Commit (R314, steps 3 to 8) -/

/-- The image's structure with what stays, as one FULL image. Its signature is the module's own affair, and its bytes are
free. -/
def composite (hdr : List Byte) (secs : List Section) (sig : List Byte) : List Byte :=
  let n := secs.length
  let up (x : Nat) : Nat := (x + 63) / 64 * 64
  let start := 128 + 48 * n
  let step (x : List Byte × List Byte) (e : Section) : List Byte × List Byte :=
    let gap := up (start + x.2.length) - (start + x.2.length)
    let off := up (start + x.2.length)
    (x.1 ++ [e.kind, e.part, 0, 0] ++ leBytes 4 e.gen.toNat ++ leBytes 4 off ++ leBytes 4 e.body.length ++
      leBytes 32 e.hash.toNat, x.2 ++ List.replicate gap 0 ++ e.body)
  let (table, body) := secs.foldl step ([], [])
  let fin := up (start + body.length)
  let pm := mapBits 16 0 fun p => secs.any fun e => e.kind = 0x10 && e.part.toNat = p
  leBytes 4 0x4C505345 ++ leBytes 2 1 ++ [0] ++ leBytes 1 (bytesN hdr 7 1) ++ leBytes 4 (fin + 2420) ++ leBytes 2 n ++
  leBytes 1 (bytesN hdr 14 1) ++ [0] ++ [0xB1] ++ List.replicate 7 0 ++ (hdr.drop 24).take 8 ++ leBytes 2 pm ++
  List.replicate 94 0 ++ table ++ body ++ List.replicate (fin - (start + body.length)) 0 ++ sig

/-- Every pin of a partition is dropped (R253). -/
def State.dropPins (s : State) (p : PartId) : State :=
  s.each (s.slots.filter fun i => (s.obj i).pin p.val ≠ 0) fun s i =>
    s.modObj i fun r => { r with pins := r.pins.set p.val 0 }

/-- A core's operations, tokens, error latch and threads at their reset; the stores that its threads have under way are
still performed. -/
def Core.restart (k : Core) : Core :=
  { k with
    threads := k.threads.map fun x => { Thread.reset with stores := x.stores }
    ops := []
    tokens := Vector.replicate 128 { busy := false, bound := false, status := 0, ticket := 0 }
    fenced := false
    reg := { k.reg with elogValid := false, elogOvf := false, elogStatus := 0, elogTicket := 0, frzClist := false,
                        frzMlist := false }
    sts := { k.sts with stsSlices := [], stsPins := [] }
    kvc := { k.kvc with punnet := [], holds := [] } }

/-- Step 4: what a named partition holds is released. -/
def State.releaseState (s : State) (p : PartId) : State :=
  let s := (s.dropPins p).blankPools p
  let s := s.modPart p fun x => { x with leases := x.leases.map fun l => { l with used := false, expired := false } }
  s.each (s.coresOf p) fun s c => s.modCore c Core.restart

/-- Step 5: cores that leave a named partition are unowned. -/
def State.leaveCores (s : State) (p : PartId) (stay : List CoreId) : State :=
  let gone := (s.part p).shortCores
  let s := s.modRep fun r => { r with lent := r.lent.filter fun x => !gone.contains x.2 }
  s.each ((s.coresOf p).filter fun c => !stay.contains c) fun s c => s.freeCore c

/-- Steps 4 to 8. -/
def State.commitLoad (s : State) (l : Load) : State :=
  let img := l.img
  let named := s.namedParts (l.pmask ||| l.rmask)
  let new := ((secTable img).map SecEntry.applied).filter fun x => !(layoutKinds.contains x.kind.toNat)
  let keep := s.esp.sections.filter fun x =>
    !((l.pmask ||| l.rmask).getLsbD x.part.toNat && x.part ≠ 0xFF) && !(x.kind = 5 && new.any fun y => y.kind = 5)
  let secs := sortSections (keep ++ new)
  let (sig, s) := s.randomBytes 2420
  let s := s.each named fun s p => s.releaseState p
  let s := s.modEsp fun e => { e with sections := secs }
  let s := s.each named fun s p => s.leaveCores p (listedCores (s.secBody 0x10 p.val))
  let s := ((s.raiseFloors new).setRetire).modEsp fun e =>
    { e with espSt := .loaded, espLoads := e.espLoads + 1, imgCurrent := some (composite img secs sig), load := none }
  let s := s.ledger 4
  let s := s.each (allParts.filter fun p => l.rmask.getLsbD p.val) fun s p => s.modPart p fun _ => Part.reset
  let s := s.each (allParts.filter fun p => l.pmask.getLsbD p.val) fun s p => s.openPart p
  let s := s.recharge.syncHold
  let s := s.each named fun s p => s.endHold p (l.rmask.getLsbD p.val)
  let gen := match (masked l.pmask).head? with
    | some p => s.secGen 0x10 p
    | none => s.esp.layoutGen
  (s.imageNotice false gen).imageDone l.handle

/-- Step 3 refuses: the held partitions resume as from a hinge point. -/
def State.resumeHeld (s : State) (l : Load) (r : Refused) : State :=
  let s := s.modEsp fun e => { e with espSt := .loaded, load := none }
  let s := s.each (s.namedParts (l.pmask ||| l.rmask)) fun s p =>
    ((s.openStep p).modPart p fun x => { x with hinges := x.hinges + 1, holdReq := false, waitLease := false }).endHold p false
  s.imageRefused l.handle r

/-- Held and drained. -/
def State.drained (s : State) (p : PartId) : Bool :=
  (s.part p).st == .held && (s.coresOf p).all fun c => (s.core c).ops.isEmpty

def execPartialLoadApply (s : State) : Host.Outcome State Fault Refusal :=
  .next (match s.esp.load with
    | none => s
    | some l =>
      let named := s.namedParts (l.pmask ||| l.rmask)
      if !(named.all s.drained) then s
      else match (if s.esp.espSt == .applying then none else s.recheck l.img) with
        | some r => s.resumeHeld l r
        | none =>
          if named.any fun p => (s.part p).leasesHeld ≠ 0 then
            (s.modEsp fun e => { e with espSt := .applying }).each named fun s p =>
              s.modPart p fun x => { x with waitLease := x.leasesHeld ≠ 0, waitCores := x.cores }
          else s.commitLoad l)

end Sys2Proof.Machine
end

