-- ==== Sys2Proof/Machine/Repair.lean ====
section
/-! DEFINITION. Availability and repair: a core's retirement (R375, R376, R260), Ethernet ports (R379), lockstep and
takeover (R380), the function lifecycle (R381 to R383), releases (R385, R387), and updates of the ledger (R393, R395).
Readings are in notes/assumptions/27.md. -/

namespace Sys2Proof.Machine

/-! ### Cores (R375, R376) -/

/-- A cause of R375 has come up in service: the class-7 count is reached, or a fifth column has failed. -/
def State.coreDue (s : State) (c : CoreId) : Bool :=
  let k := s.core c
  let cnt := ((vat s.esp.thresholds 7).getD 0xFFFFFFFF).toNat
  (cnt ≠ 0xFFFFFFFF && cnt ≤ k.reg.errEvents) || 4 < (columnsOf (k.arr.colmap ||| k.arr.failCols)).length

/-- A thread of a core that is frozen: a READY one, or one that waits to issue or for a token, stops at its PC; one with
an access under way runs that access to its end. -/
def Thread.coreFrozen (x : Thread) : Thread :=
  match x.st with
  | .ready => { x with st := .frozen, coreHeld := true }
  | .waitIssue => { x with st := .frozen, coreHeld := true }
  | .waitToken => { x with st := .frozen, coreHeld := true }
  | _ => x

/-- Claims of a retired core that no commit is using are re-issued, in every tumbler of its partition (R260). -/
def State.fenceClaims (s : State) (p : PartId) (c : CoreId) : State :=
  let g := (s.part p).cfg
  let committing (tumb : Nat) (x : Claim) : Bool := (s.core c).ops.any fun o =>
    o.phase == .running && dOpc o.desc = 0x6A && localPart (d64 o.desc 32) = tumb && dN o.desc 24 6 = x.index &&
    dN o.desc 30 2 = x.epoch
  s.each (List.range g.tumbCount.toNat) fun s i =>
    let tumb := s.tier.tumbBase.toNat + 4096 * (g.tumbFirst.toNat + i)
    let e := (s.tumbEpoch tumb + 1) % 65536
    let s := s.each tumbEntries fun s j =>
      let x := s.claim tumb j
      if x.valid && x.core = c.val && !committing tumb x then s.setClaim tumb j { x with core := 0xFF, epoch := e } else s
    s.writeN (tumb + 6) 2 e

/-- The retirement of a core is decided: it is frozen at once. -/
def State.retireCore (s : State) (c : CoreId) : State :=
  let s := s.modCore c fun k =>
    { k with threads := k.threads.map Thread.coreFrozen,
             reg := { k.reg with frzCore := true, retiring := true, frzCause := 0x09 } }
  let s := match s.owner c with
    | some p => s.fenceClaims p c
    | none => s
  let s := s.stopOps c stRetired true fun o => o.phase == .running && dOpc o.desc = 0x6A
  let s := s.each (s.core c).ops fun s o => if o.phase == .heldBy then s.finish c o.ticket stRetired 0 else s
  s.noticeFrozen (partByte (s.owner c)) 1 (threadName c 0)

/-- The descriptor of an operation cannot be read in its slot: the core is frozen until it is released (R384). -/
def State.freezeCore (s : State) (c : CoreId) (ticket : BitVec 32) : State :=
  if (s.core c).reg.frzCore || (s.findOp c ticket).isNone then s
  else
    (s.modCore c fun k =>
      { k with threads := k.threads.map Thread.coreFrozen,
               reg := { k.reg with frzCore := true, frzCause := cUncorrectable, frzTicket := ticket } }).noticeFrozen
      (partByte (s.owner c)) 1 (threadName c 0)

/-- A core's retirement is decided, once a cause of R375 has come up; or, with a slot, the whole core freezes for an
uncorrectable error in the descriptor that the slot holds. -/
def execCoreRetire (c : CoreId) (slot : Option (BitVec 32)) (s : State) : Host.Outcome State Fault Refusal :=
  .next (if !s.usable c then s
    else match slot with
      | some t => s.freezeCore c t
      | none => if !(s.core c).reg.retiring && s.coreDue c then s.retireCore c else s)

/-! ### Ethernet ports (R379, R438) -/

def ethFn (port : PortId) : Fin 32 := if port = 0 then 0 else 1

/-- The port is powered down for good. -/
def State.retireEth (s : State) (port : PortId) : State :=
  let s := s.modEth port fun e => { e with st := .retired, fecLock := false, paused := false, pausing := false }
  (s.noteRetired 0xFF 8 port.val port.val).retireFn (ethFn port)

/-- A link that was UP is lost: it trains again, or the port is retired once class 8 is crossed. -/
def execEthLinkLoss (port : PortId) (s : State) : Host.Outcome State Fault Refusal :=
  .next (if (s.eth port).st != .up then s
    else
      let s := s.modEth port fun e => { e with st := .training, fecLock := false, paused := false, pausing := false, events := e.events + 1 }
      let (x, s) := s.crosses 8 (s.eth port).events
      if x then s.retireEth port else s)

/-- Training of the PHY completes (R338); what waits for the port is sent. -/
def execEthLinkUp (port : PortId) (cr2 : Bool) (s : State) : Host.Outcome State Fault Refusal :=
  .next (if (s.eth port).st != .training then s
    else (s.modEth port fun e => { e with st := .up, fecLock := true, phy := BitVec.ofNat 2 (ofBool cr2) }).pumpPort port)

/-! ### Lockstep pairs (R380) -/

def otherPair (p : PortId) : PortId := if p = 0 then 1 else 0

def execLockstepMismatch (pair : PortId) (s : State) : Host.Outcome State Fault Refusal :=
  .next (if vget s.rep.pairStopped pair || (s.pwr.run != .ready && s.pwr.run != .starting) then s
    else
      let last := vget s.rep.pairStopped (otherPair pair)
      let s := s.modRep fun r => { r with pairStopped := vset r.pairStopped pair true }
      if last then
        let running := s.existing.filter fun p => !s.stopped p
        let s := s.modRep fun r => { r with failed := true, takeover := none, waitPkts := [] }
        (s.each running fun s p => s.stopPart p).latchFault
      else (s.modRep fun r => { r with takeover := some pair }).noteRetired 0xFF 10 pair.val pair.val)

/-- A packet that waited is taken in. -/
def State.takePacket (s : State) (p : Pkt) : State :=
  match p.type.toNat with
  | 0x01 => s.hello p
  | 0x03 => s.finishSetup p
  | 0x10 => s.controlPacket p
  | 0x11 => s.ackPacket p
  | 0x12 => s.dataPacket p
  | _ => s.haspPacket p (entryN p.payload 0 1 = 1)

def execTakeoverEnd (s : State) : Host.Outcome State Fault Refusal :=
  .next (match s.rep.takeover with
    | none => s
    | some _ =>
      let waiting := s.rep.waitPkts
      let due := s.rep.ledgerDue
      let s := s.modRep fun r => { r with takeover := none, waitPkts := [], ledgerDue := [] }
      let s := s.each due State.ledger
      (s.syncHold.each waiting fun s p => s.takePacket p).each [0, 1] fun s p => s.followPfc p)

/-! ### Functions (R381 to R383) -/

/-- What a function number names. -/
inductive FnKind where
  | eth (p : PortId)
  | far (p : PortId)
  | maint
  | link (l : LinkId)
  | reserved
  deriving DecidableEq, Repr

def fnKind (fn : Nat) : FnKind :=
  if fn ≤ 1 then .eth (if fn = 0 then 0 else 1)
  else if fn ≤ 3 then .far (if fn = 2 then 0 else 1)
  else if fn = 4 then .maint
  else if 8 ≤ fn then (match toFin? 24 (fn - 8) with
    | some l => .link l
    | none => .reserved)
  else .reserved

/-- Start begins. -/
def State.fnBegin (s : State) (k : FnKind) : State :=
  match k with
  | .eth p => s.modEth p fun e => { e with st := .training }
  | .far p => s.modFar p fun f => { f with st := .training }
  | .link l => s.modLink l fun x => { x with st := .training, flitOk := false, trained := false }
  | _ => s

/-- A far address of port p lies in a window of a partition or in an object's far copy. -/
def State.farUsed (s : State) (p : PortId) : Bool :=
  let cap0 := (vget s.tier.far 0).cap.toNat
  let hits (a n : Nat) : Bool :=
    let lo := a - farBase
    let hi := min (a + n - farBase) s.farSize
    if hi ≤ lo then false
    else if s.tier.farInterleave then 4096 < hi - lo || s.farPlace lo = p || s.farPlace (hi - 1) = p
    else if p = 0 then lo < cap0 else cap0 < hi
  (s.existing.any fun q => (s.part q).cfg.windows.any fun w => farBase ≤ w.base.toNat && hits w.base.toNat w.size.toNat) ||
  s.slots.any fun i => let r := s.obj i; r.far ≠ noAddr && hits r.far (65536 * r.extents)

/-- DISABLE is refused (R383). -/
def State.fnKept (s : State) (k : FnKind) : Bool :=
  match k with
  | .eth p => !((vget s.rep.fns (ethFn (otherPair p))).st == .on && (s.eth (otherPair p)).st == .up)
  | .far p => s.farUsed p
  | .link l => (s.link (pairOf l)).st != .up
  | _ => false

def State.modFn (s : State) (i : Fin 32) (f : Fn → Fn) : State := s.modRep fun r => { r with fns := vmod r.fns i f }

def State.endAll (s : State) (hs : List (BitVec 32)) (st : Status) : State := s.each hs fun s h => s.endCmd h st 0

/-- The requests of the transition in progress, and a new one that joins it. -/
def State.fnJoin (s : State) (i : Fin 32) (h : List (BitVec 32)) : State := s.modFn i fun f => { f with pend := f.pend ++ h }

/-- Start is finished: the function is ON, or goes on to a queued stop. -/
def State.fnStarted (s : State) (i : Fin 32) : State :=
  let f := vget s.rep.fns i
  let s := s.endAll f.pend stDone
  s.modFn i fun f => if f.queued then { f with st := .stopping, queued := false, pend := f.qreqs, qreqs := [] }
    else { f with st := .on, pend := [] }

/-- Start begins, and for maintenance it is finished at once. -/
def State.fnStart (s : State) (i : Fin 32) (h : List (BitVec 32)) : State :=
  let s := (s.modFn i fun f => { f with st := .starting, queued := false, pend := h, qreqs := [] }).fnBegin (fnKind i.val)
  if fnKind i.val == .maint then s.fnStarted i else s

/-- A request by its state (R382). -/
def State.fnAct (s : State) (i : Fin 32) (on : Bool) (h : List (BitVec 32)) : State :=
  let f := vget s.rep.fns i
  let queue (s : State) : State := s.modFn i fun f => { f with queued := true, qreqs := f.qreqs ++ h }
  let supersede (s : State) : State :=
    (s.endAll f.qreqs stSuperseded).modFn i fun f => { f with queued := false, qreqs := [] }
  match f.st, on with
  | .off, true => s.fnStart i h
  | .off, false => s.endAll h stDone
  | .starting, true => if f.queued then (supersede s).fnJoin i h else s.fnJoin i h
  | .starting, false => queue s
  | .on, true => s.endAll h stDone
  | .on, false => s.modFn i fun f => { f with st := .stopping, pend := h }
  | .stopping, false => if f.queued then (supersede s).fnJoin i h else s.fnJoin i h
  | .stopping, true => queue s
  | .retired, _ => s.endAll h stRetired

/-- A request for a function, from a REG_WRITE where `h` names one. -/
def State.fnRequest (s : State) (fn : Nat) (on : Bool) (h : List (BitVec 32)) : State :=
  match toFin? 32 fn, fnKind fn with
  | _, .reserved => s.endAll h stBadDesc
  | none, _ => s.endAll h stBadDesc
  | some i, k =>
    if (vget s.rep.fns i).st == .retired then s.endAll h stRetired
    else if !on && s.fnKept k then s.endAll h stBadDesc
    else
      let s := s.each h fun s h => s.modCmd h fun c => { c with running := true }
      ((s.modFn i fun f => { f with pref := on }).ledger 0).fnAct i on h

/-- The master may write MOD_FNCTL, MOD_RELEASE and the other fields of maintenance (R357, R381, R387). -/
def State.hostMaint (s : State) (m : Master) : Bool :=
  match m with
  | .session i => (s.sess i).isOpen && (s.sess i).maint
  | _ => false

def execEnable (m : Master) (fn : BitVec 6) (s : State) : Host.Outcome State Fault Refusal :=
  .next (if s.hostMaint m then s.fnRequest fn.toNat true [] else s)

def execDisable (m : Master) (fn : BitVec 6) (s : State) : Host.Outcome State Fault Refusal :=
  .next (if s.hostMaint m then s.fnRequest fn.toNat false [] else s)

/-- A far link is UP, at one of the rates and widths of R239. -/
def State.farUp (s : State) (p : PortId) : State :=
  let (v, s) := s.fresh
  s.modFar p fun f => { f with st := .up, rate := if v.getLsbD 0 then 64 else 32, width := if v.getLsbD 1 then 16 else 8 }

/-- The hardware under a function has finished its start (R383): `up` says how a port's training ended, `cap` what a far
device presents. -/
def State.fnEndStart (s : State) (k : FnKind) (up : Bool) (cap : BitVec 46) : State :=
  match k with
  | .eth p => if up then (s.modEth p fun e => { e with st := .up, fecLock := true }).pumpPort p else s
  | .far p =>
    if up && (vget s.tier.far p).cap.toNat ≤ cap.toNat then s.farUp p
    else s.modFar p fun f => { f with st := .down, rate := 0, width := 0 }
  | _ => s

/-- A fabric link's start is finished when the link has left TRAINING. -/
def State.fnStartOver (s : State) (k : FnKind) : Bool :=
  match k with
  | .link l => (s.link l).st != .training
  | _ => true

def execFnStartFinished (fn : BitVec 6) (up : Bool) (cap : BitVec 46) (s : State) : Host.Outcome State Fault Refusal :=
  .next (match toFin? 32 fn.toNat with
    | none => s
    | some i =>
      let k := fnKind fn.toNat
      if (vget s.rep.fns i).st != .starting || !s.fnStartOver k then s else (s.fnEndStart k up cap).fnStarted i)

/-- The hardware under a function is powered down. -/
def State.fnEndStop (s : State) (k : FnKind) : State :=
  match k with
  | .eth p => s.modEth p fun e => { e with st := .down, fecLock := false, paused := false, pausing := false }
  | .far p => s.modFar p fun f => { f with st := .down, rate := 0, width := 0 }
  | .link l => (s.modLink l fun x => { x with st := .down, flitOk := false, trained := false, peerValid := false }).toPair l
  | _ => s

def execFnStopFinished (fn : BitVec 6) (s : State) : Host.Outcome State Fault Refusal :=
  .next (match toFin? 32 fn.toNat with
    | none => s
    | some i =>
      let f := vget s.rep.fns i
      if f.st != .stopping then s
      else
        let s := (s.fnEndStop (fnKind fn.toNat)).endAll f.pend stDone
        if f.queued then s.fnStart i f.qreqs else s.modFn i fun f => { f with st := .off, pend := [] })

/-! ### Releases (R385, R387) -/

/-- The master may write PART_RELEASE of a partition, and the core is one of it. -/
def State.mayRelease (s : State) (m : Master) (p : PartId) (c : CoreId) : Bool :=
  (match m with
   | .session i => (s.sess i).isOpen && (s.sess i).holds p
   | _ => false) && s.owner c = some p

/-- KIND thread. -/
def State.releaseThread (s : State) (m : Master) (p : PartId) (c : CoreId) (t : ThreadId) : State :=
  if s.mayRelease m p c && (s.thread c t).st == .frozen then s.resetThread (.pctl p) c t else s

def execPartReleaseThread (m : Master) (p : PartId) (c : CoreId) (t : ThreadId) (s : State) :
    Host.Outcome State Fault Refusal :=
  .next (s.releaseThread m p c t)

/-- A list of a core goes on; the operation held on it completes VIOLATION_FROZEN. -/
def State.releaseList (s : State) (c : CoreId) (move : Bool) : State :=
  let frozen := if move then (s.core c).reg.frzMlist else (s.core c).reg.frzClist
  if !frozen then s
  else
    let s := s.modReg c fun r => if move then { r with frzMlist := false } else { r with frzClist := false }
    s.each (s.core c).ops fun s o => if o.move = move && o.phase == .heldBy then s.finish c o.ticket stViolation 0 else s

def execPartReleaseComputeList (m : Master) (p : PartId) (c : CoreId) (s : State) : Host.Outcome State Fault Refusal :=
  .next (if s.mayRelease m p c then s.releaseList c false else s)

def execPartReleaseMoveList (m : Master) (p : PartId) (c : CoreId) (s : State) : Host.Outcome State Fault Refusal :=
  .next (if s.mayRelease m p c then s.releaseList c true else s)

/-- KIND core. -/
def State.releaseCore (s : State) (m : Master) (p : PartId) (c : CoreId) : State :=
  let r := (s.core c).reg
  if !(s.mayRelease m p c && r.frzCore && !r.retiring) then s
  else s.modCore c fun k => { k with threads := k.threads.map Thread.onSubstitute, reg := { k.reg with frzCore := false } }

def execPartReleaseCore (m : Master) (p : PartId) (c : CoreId) (s : State) : Host.Outcome State Fault Refusal :=
  .next (s.releaseCore m p c)

/-- KIND session. -/
def State.releaseSession (s : State) (m : Master) (sid : BitVec 32) : State :=
  if !s.hostMaint m then s
  else match s.findSess sid true with
    | some i => s.modSess i fun x => if x.st == .frozen then { x with st := .openS } else x
    | none => s

def execModReleaseSession (m : Master) (sid : BitVec 32) (s : State) : Host.Outcome State Fault Refusal :=
  .next (s.releaseSession m sid)

/-- KIND remote module. -/
def State.releaseRemote (s : State) (m : Master) (module : BitVec 18) (p : PartId) : State :=
  if !s.hostMaint m then s
  else s.modFab fun f => { f with frozenPairs := f.frozenPairs.filter fun x => x ≠ (module, p) }

def execModReleaseRemoteModule (m : Master) (module : BitVec 18) (p : PartId) (s : State) :
    Host.Outcome State Fault Refusal :=
  .next (s.releaseRemote m module p)

/-! ### Ledger updates (R393, R395) -/

/-- An update of a slot, read back; `mismatches` of its attempts did not compare. With the fourth the bank has failed. -/
def State.writeSlot (s : State) (n : Fin 202) (mismatches : Nat) : State :=
  match s.bankFor n with
  | none => s
  | some b =>
    if mismatches < 4 then s.ledger n
    else
      let s := (s.putSlot b n false .empty).modRep fun r => { r with banks := vmod r.banks b fun k => { k with failed := true } }
      s.noteRetired 0xFF 11 b.val b.val

def execLedgerSlotWrite (slot : Fin 202) (mismatches : Nat) (s : State) : Host.Outcome State Fault Refusal :=
  .next (if s.rep.takeover.isSome || (s.pwr.run != .ready && s.pwr.run != .starting) then s else s.writeSlot slot mismatches)

end Sys2Proof.Machine
end

