-- ==== Sys2Proof/Machine/Power.lean ====
section
/-! DEFINITION. Power: stops and what survives them (R427 to R429, R441), start-up (R437, R394, R405 to R408, R315), the
cap, the governor and the thermal hold (R430, R431, R434), and the orderly shut-down (R440). Readings are in
notes/assumptions/28.md. -/

namespace Sys2Proof.Machine

/-! ### What survives a stop (R441) -/

/-- The module with everything volatile at its reset value. -/
def State.cold (s : State) (run : RunSt) : State :=
  { State.reset with
    pending := s.pending
    free := s.free
    tier := { TierUnit.reset with
      slowFree := s.tier.slowFree, slowRo := s.tier.slowRo, slowObjs := s.tier.slowObjs, stripes := s.tier.stripes,
      stripeNext := s.tier.stripeNext
      slow := s.tier.slow.map fun c =>
        { c with up := false, lost := 0, rebuilds := 0, retries := 0, progEvents := Vector.replicate 16 0,
                 parityEvents := Vector.replicate 16 0 } }
    esp := { EspUnit.reset with imgCurrent := s.esp.imgCurrent, imgStaged := s.esp.imgStaged }
    rep := { RepUnit.reset with
      ledgerSeq := s.rep.ledgerSeq, banks := s.rep.banks, fwSlots := s.rep.fwSlots, pairStopped := s.rep.pairStopped }
    sec := { SecUnit.reset with
      ownerHash := s.sec.ownerHash, ownerLock := s.sec.ownerLock, ringVer := s.sec.ringVer, dbgDisable := s.sec.dbgDisable }
    pwr := { PwrUnit.reset with
      grade := s.pwr.grade, run := run, pwrGood := s.pwr.pwrGood, resetN := s.pwr.resetN, holdN := s.pwr.holdN,
      latchedCause := s.pwr.latchedCause, vin := s.pwr.vin, inlet := s.pwr.inlet, die0 := s.pwr.die0, die1 := s.pwr.die1 } }

/-- Islands run: the module is neither off nor held in reset. -/
def State.powered (s : State) : Bool :=
  s.pwr.run == .starting || s.pwr.run == .halted || s.pwr.run == .ready

/-- The cause of a stop goes into the COUNTERS slot. -/
def State.writeCause (s : State) (cause : BitVec 4) : State :=
  match s.bankFor 7 with
  | some b => s.putSlot b 7 true (.counters cause s.lifetime s.wear)
  | none => s

/-- Every island stops (R429). After an orderly shut-down its cause stands. -/
def State.stopAll (s : State) (cause : BitVec 4) (run : RunSt) : State :=
  (if s.powered && !s.pwr.safe then s.writeCause cause else s).cold run

/-- A power-loss stop: PWR_GOOD is low, and a latched one waits to be cleared (R428, R429). -/
def State.powerLoss (s : State) (cause : BitVec 4) (latched : Bool) : State :=
  if s.pwr.run == .off || s.pwr.run == .latched then s
  else (s.stopAll cause (if latched then .latched else .off)).modPwr fun u =>
    { u with pwrGood := false, latchedCause := if latched then some cause else none }

def execUndervoltage (s : State) : Host.Outcome State Fault Refusal := .next (s.powerLoss 1 false)

def execOvercurrent (s : State) : Host.Outcome State Fault Refusal := .next (s.powerLoss 2 true)

def execOvervoltage (s : State) : Host.Outcome State Fault Refusal := .next (s.powerLoss 3 true)

def execThermalShutdown (s : State) : Host.Outcome State Fault Refusal := .next (s.powerLoss 4 true)

def execLatchedStopClear (s : State) : Host.Outcome State Fault Refusal :=
  .next (if s.pwr.run == .latched then s.modPwr fun u => { u with run := .off, latchedCause := none } else s)

/-- PWR_GOOD is released, and start begins unless RESET_N is low (R427, R437). -/
def execInputPowerGood (s : State) : Host.Outcome State Fault Refusal :=
  .next (if s.pwr.run == .off || (s.powered && !s.pwr.pwrGood) then
      (s.cold (if s.pwr.resetN then .starting else .inReset)).modPwr fun u => { u with pwrGood := true }
    else s.modPwr fun u => { u with pwrGood := u.pwrGood || u.run == .inReset })

def execRailOutOfRange (s : State) : Host.Outcome State Fault Refusal :=
  .next (s.modPwr fun u => { u with pwrGood := false })

def execResetNLow (s : State) : Host.Outcome State Fault Refusal :=
  .next (if s.powered then (s.stopAll 5 .inReset).modPwr fun u => { u with resetN := false }
    else s.modPwr fun u => { u with resetN := false })

def execResetNHigh (s : State) : Host.Outcome State Fault Refusal :=
  .next (s.modPwr fun u => { u with resetN := true, run := if u.run == .inReset && u.pwrGood then .starting else u.run })

/-! ### Start-up: the ledger (R394, R405, R408) -/

/-- The copy that start takes of a slot: the valid one with the higher SEQ; `bad` names copies found damaged. -/
def State.readSlot (s : State) (bad : List (PortId × Nat)) (n : Fin 202) : Option SlotBody :=
  let ok (b : PortId) : Bool := (vget (vget s.rep.banks b).slots n).valid && !bad.contains (b, n.val)
  let copy (b : PortId) : SlotCopy := vget (vget s.rep.banks b).slots n
  match ok 0, ok 1 with
  | true, true => some (if (copy 0).seq.toNat < (copy 1).seq.toNat then (copy 1).body else (copy 0).body)
  | true, false => some (copy 0).body
  | false, true => some (copy 1).body
  | false, false => none

/-- ETH_CFG and ETH_IP4 from their words. -/
def Eth.setCfg (e : Eth) (w : Word) : Eth :=
  { e with udpPort := w.extractLsb' 32 16, bulkPcp := w.extractLsb' 20 3, ctrlPcp := w.extractLsb' 16 3,
           echo := w.getLsbD 13, untagged := w.getLsbD 12, vid := w.extractLsb' 0 12 }

def Eth.setIp4 (e : Eth) (w : Word) : Eth := { e with ip4Valid := w.getLsbD 32, ip4 := w.extractLsb' 0 32 }

/-- What a slot's body says is in force again. -/
def State.takeBody (s : State) (body : SlotBody) : State :=
  match body with
  | .identity macs cfg ip4 ip6 rto idle origin prefs =>
    let s := s.modFct fun u =>
      { u with rto := rto, idle := idle, eth := Vector.ofFn fun i =>
          { ((vget u.eth i).setCfg (vget cfg i)).setIp4 (vget ip4 i) with
            mac := vget macs i, ip6Hi := (vget ip6 i).1, ip6Lo := (vget ip6 i).2 } }
    (s.modFab fun f => { f with origin := origin }).modRep fun r =>
      { r with fns := Vector.ofFn fun i => { vget r.fns i with pref := prefs.getD i.val true } }
  | .cores act ret subst colmaps =>
    let s := { s with act := Vector.ofFn fun i => act.getD i.val false, ret := Vector.ofFn fun i => ret.getD i.val false,
                      subst := Vector.ofFn fun i => subst.getD i.val (false, 0, 0) }
    let spareOf (c : CoreId) : Option Byte := (subst.find? fun e => e.1 && e.2.1.toNat = c.val).map fun e => e.2.2
    { s with cores := Vector.ofFn fun i =>
        let k := vget s.cores i
        { k with reg := { k.reg with silicon := (spareOf i).getD k.reg.silicon }
                 arr := { k.arr with colmap := colmaps.getD i.val 0 } } }
  | .near sts pos intent =>
    let left := match intent with
      | some c => if pos.contains c then pos else pos ++ [c]
      | none => pos
    { s.modTier (fun t => { t with nretPos := left }) with
      chans := Vector.ofFn fun i =>
        { vget s.chans i with st := if left.contains i then .retired else if sts.getD i.val .off == .lost then .lost else .off } }
  | .links links eth far dies =>
    let s := s.modFab fun f => { f with links := Vector.ofFn fun i =>
      { vget f.links i with st := if links.getD i.val .down == .retired then .retired else .down } }
    let s := s.modFct fun u => { u with eth := Vector.ofFn fun i =>
      { vget u.eth i with st := if eth.getD i.val .down == .retired then .retired else .down } }
    s.modTier fun t =>
      { t with far := Vector.ofFn fun i =>
                 { vget t.far i with st := if far.getD i.val .down == .retired then .retired else .down },
               slow := Vector.ofFn fun i => { vget t.slow i with dies := dies.getD i.val 0xFFFF } }
  | .images cur staged layout retire parts =>
    s.modEsp fun e =>
      { e with imgCurrent := if storeHash e.imgCurrent = cur then e.imgCurrent else none,
               imgStaged := if storeHash e.imgStaged = staged then e.imgStaged else none,
               layoutFloor := layout, retireFloor := retire, partFloors := parts }
  | .counters cause life wear =>
    let s := (s.modPwr fun u => { u with lastStop := cause }).modRep fun r => { r with life := life }
    s.modTier fun t => { t with slow := Vector.ofFn fun i =>
      { vget t.slow i with wearMax := (wear.getD i.val (0, 0)).1, wearMin := (wear.getD i.val (0, 0)).2 } }
  | .ftl valid => s.modTier fun t => { t with slowLost := !valid }
  | .blocks retired map => s.modTier fun t =>
      { t with slow := Vector.ofFn fun i =>
          let x := vget t.slow i
          { x with retired := retired.getD i.val 0,
                   blocks := x.blocks.map fun b => { b with retired := (map.getD i.val []).contains (b.die, b.num) } } }
  | _ => s

/-- A slot without a valid copy, as R394 recovers it. -/
def State.lostBody (s : State) (n : Nat) : State :=
  match n with
  | 4 => (s.takeBody (factoryBody 4)).modEsp fun e => { e with imgCurrent := none, imgStaged := none }
  | 8 => s.modTier fun t => { t with slowLost := true }
  | _ => s.takeBody (factoryBody n)

/-- The slots whose loss MOD_LEDGER.FALLBACK counts: every one but the POISON tables, which are emptied in any case. -/
def ledgerSlots : List (Fin 202) := [0, 1, 2, 3, 4, 7, 8, 9]

/-- Step 2. -/
def State.readLedger (s : State) (bad : List (PortId × Nat)) : State :=
  let all : List (Fin 202) := [5, 6] ++ ledgerSlots
  let lost := all.countP fun n => (s.readSlot bad n).isNone
  let seqs := s.rep.banks.toList.flatMap fun b => (b.slots.toList.filter SlotCopy.valid).map SlotCopy.seq
  let top := seqs.foldl (fun a b => if a.toNat < b.toNat then b else a) 0
  let s := s.each ledgerSlots fun s n => match s.readSlot bad n with
    | some b => s.takeBody b
    | none => s.lostBody n.val
  s.modRep fun r => { r with ledgerFallback := BitVec.ofNat 8 lost, ledgerSeq := top }

/-! ### Start-up: step 1 (R391, R404 to R408) -/

/-- A keyring is valid against the fuses (R405); what the module itself sealed verifies. -/
def State.ringOk (s : State) (k : Keyring) : Bool :=
  s.sec.ownerLock && k.version.toNat = s.sec.ringVer.toNat && (k.version ≠ 0 || Config.sha3 k.bytes = s.sec.ownerHash)

/-- The keyring of the SECURITY slot: the current one, or a pending one that the fuses say has taken its place. -/
def State.takeRing (s : State) (bad : List (PortId × Nat)) : State :=
  match s.readSlot bad 6 with
  | some (.security cur pending) =>
    match cur.filter s.ringOk, pending.filter s.ringOk with
    | some k, _ => s.modSec fun x => { x with keyring := some k }
    | none, some k => (s.modSec fun x => { x with keyring := some k }).ledger 6
    | none, none => s
  | _ => s

/-- A firmware slot passes the ROM's checks. -/
def State.fwSlotOk (s : State) (i : Fin 2) : Bool := (s.fwBad (vget s.rep.fwSlots i).img true).isNone

/-- The slot and the floor that the FIRMWARE record names, or those that the ROM finds in its place. -/
def State.takeFirmware (s : State) (bad : List (PortId × Nat)) : State :=
  match s.readSlot bad 5 with
  | some (.firmware _ _ cur floor) => s.modRep fun r => { r with fwCurrent := cur, fwFloor := floor }
  | _ =>
    let s := s.modRep fun r => { r with fwFloor := 0 }
    let v (i : Fin 2) : Nat := if s.fwSlotOk i then fwVersionOf (vget s.rep.fwSlots i).img + 1 else 0
    let best : Fin 2 := if v 0 < v 1 then 1 else 0
    if v best = 0 then s.modRep fun r => { r with fwFloor := Config.factoryVersion }
    else (s.modRep fun r => { r with fwCurrent := best, fwFloor := BitVec.ofNat 32 (v best - 1) }).ledger 5

/-- OPERATIONAL with the current firmware, or PROVISIONING with its reason. -/
def State.bootMode (s : State) : State :=
  let img := (vget s.rep.fwSlots s.rep.fwCurrent).img
  if s.sec.keyring.isSome && s.fwSlotOk s.rep.fwCurrent then
    (s.modRep fun r => { r with fwVersion := BitVec.ofNat 32 (fwVersionOf img) }).modSec fun x =>
      { x with provisioning := false, pcause := 0, fwMeas := fwMeasure img }
  else
    (s.modRep fun r => { r with fwVersion := Config.factoryVersion }).modSec fun x =>
      { x with provisioning := true, pcause := if !s.sec.ownerLock then 1 else if s.sec.keyring.isNone then 2 else 3 }

/-- A step took its failure outcome. -/
def State.startFail (s : State) (step : Nat) : State :=
  s.modPwr fun u => { u with startFailed := u.startFailed ||| ((1 : BitVec 6) <<< (step - 1)) }

def State.failIf (s : State) (step : Nat) (b : Bool) : State := if b then s.startFail step else s

/-! ### Start-up: steps 3 to 6 -/

/-- Training of the channels that are neither retired nor lost (R234). -/
def State.trainNear (s : State) (bad : List ChanId) : State :=
  s.each (List.finRange 192) fun s ch =>
    if (s.chan ch).st != .off then s
    else if !bad.contains ch then s.modChan ch fun c => { c with st := .serving, rate := s.pwr.nearRate }
    else if s.nret < 8 then
      ((s.modChan ch fun c => { c with st := .retired }).modTier fun t => { t with nretPos := t.nretPos ++ [ch] }).noteRetired
        0xFF 0 ch.val ch.val
    else ((s.modChan ch fun c => { c with st := .lost }).ledger 2).latchFault

/-- Physical cores that fail self-test are retired and never made active; the number that one served gets no substitute
before a hinge point (R19, R375). -/
def State.testCores (s : State) (bad : List CoreId) : State :=
  s.each bad fun s x =>
    if vget s.ret x then s
    else
      let s := match (List.finRange 176).find? fun c => s.usable c && (s.core c).reg.silicon.toNat = x.val with
        | some c => (s.modReg c fun r => { r with frzCore := true, retiring := true, frzCause := 0x09 }).setSubst c none
        | none => s
      (s.setMaps x false true).noteRetired 0xFF 7 x.val x.val

/-- The function's preference is ON and it is not retired. -/
def State.fnWanted (s : State) (fn : Fin 32) : Bool := let f := vget s.rep.fns fn; f.pref && f.st != .retired

def State.setFn (s : State) (fn : Fin 32) (st : FnSt) : State := s.modFn fn fun f => { f with st := st }

def farFn (p : PortId) : Fin 32 := if p = 0 then 2 else 3

def linkFn (l : LinkId) : Fin 32 := (toFin? 32 (8 + l.val)).getD 8

/-- Retired resources have retired functions. -/
def State.retiredFns (s : State) : State :=
  let s := s.each [0, 1] fun s p => if (s.eth p).st == .retired then s.setFn (ethFn p) .retired else s
  let s := s.each [0, 1] fun s p => if (vget s.tier.far p).st == .retired then s.setFn (farFn p) .retired else s
  s.each (List.finRange 24) fun s l => if (s.link l).st == .retired then s.setFn (linkFn l) .retired else s

/-- CXL training and enumeration (R240). -/
def State.startFar (s : State) (e : StartEnv) : State :=
  s.each [0, 1] fun s p =>
    if !s.fnWanted (farFn p) then s
    else
      let s := s.setFn (farFn p) .on
      if vget e.farDown p then s
      else (s.modFar p fun f => { f with cap := BitVec.ofNat 46 ((vget e.farCap p).toNat / 0x10000000 * 0x10000000) }).farUp p

/-- The translation layer (R243, R394). -/
def State.startSlow (s : State) (e : StartEnv) : State :=
  let s := if s.fnWanted 4 then s.setFn 4 .on else s
  if e.ftlOk && !s.tier.slowLost then s.modTier fun t => { t with slow := t.slow.map fun c => { c with up := true } }
  else s.modTier fun t => { t with slowLost := true }

/-- Links and ports train; those that are still training at the bound go on (R437). -/
def State.startLinks (s : State) (e : StartEnv) : State :=
  let s := s.each (List.finRange 24) fun s l =>
    if s.fnWanted (linkFn l) then ((s.setFn (linkFn l) .starting).modLink l fun k => { k with st := .training }).sendTrain l
    else s
  s.each [0, 1] fun s p =>
    if !s.fnWanted (ethFn p) then s
    else if vget e.ethUp p then
      (s.setFn (ethFn p) .on).modEth p fun x =>
        { x with st := .up, fecLock := true, phy := BitVec.ofNat 2 (ofBool (vget e.ethCr2 p)) }
    else (s.setFn (ethFn p) .starting).modEth p fun x => { x with st := .training }

/-- The staged image is loaded, or else the current one (R315). -/
def State.startImages (s : State) : State :=
  let current (s : State) : State := match s.esp.imgCurrent with
    | none => s.startFail 6
    | some img => match s.validate img true with
      | none => s.applyFull img
      | some r => ((s.latchEsp r).2).startFail 6
  match s.esp.imgStaged with
  | none => current s
  | some img => match s.validate img true with
    | none => ((s.modEsp fun e => { e with imgStaged := none }).applyFull img)
    | some r => current (s.latchEsp r).2

/-- Stopped pairs run self-test again; how it ends is free (R380). -/
def State.testPairs (s : State) : State :=
  s.each [0, 1] fun s p =>
    if !vget s.rep.pairStopped p then s
    else let (v, s) := s.fresh; s.modRep fun r => { r with pairStopped := vset r.pairStopped p (v.getLsbD 0) }

/-- The steps of R437 in order. -/
def State.startUp (s : State) (e : StartEnv) : State :=
  let s := ((s.modPwr fun u => { u with startStep := 1, startFailed := 0, startDropped := 0 }).testPairs).takeRing e.badLedger
  let s := (s.takeFirmware e.badLedger).bootMode
  let s := s.failIf 1 s.sec.provisioning
  if s.sec.provisioning && !e.romOk then
    (s.modPwr fun u => { u with run := .halted }).modRep fun r => { r with faultHeld := true }
  else
    let s := (s.readLedger e.badLedger).retiredFns
    let s := s.failIf 2 (s.rep.ledgerFallback ≠ 0)
    let s := ((s.trainNear e.badChans).testCores e.badCores).startFar e
    let s := s.failIf 3 (!e.badChans.isEmpty || !e.badCores.isEmpty || e.farDown.toList.any id)
    let s := s.startSlow e
    let s := s.failIf 4 s.tier.slowLost
    let s := s.startLinks e
    let s := if s.sec.provisioning then s else s.startImages
    (s.modPwr fun u => { u with run := .ready, startStep := 7, startTime := e.time }).latchFault

def execStartUp (e : StartEnv) (s : State) : Host.Outcome State Fault Refusal :=
  .next (if s.pwr.run == .starting then s.startUp e else s)

/-! ### The governor (R328, R430, R431) -/

/-- Bandwidth floor of a cap's band in sixteenths of the access rate at a data rate (R328). -/
def accessFloor (cap rate : Nat) : Nat :=
  let bw := match capBand cap with
    | 3 => 8448
    | 2 => 7680
    | 1 => 6144
    | _ => 3072
  min 16 ((16 * bw + 192 * rate - 1) / (192 * rate))

/-- The point below which a core is not lowered. -/
def Core.floorAt (k : Core) (cap : Nat) : Nat := min k.reg.imgMhz.toNat (coreFloor cap)

def Core.setFreq (k : Core) (f : Nat) : Core := { k with reg := { k.reg with freqMhz := BitVec.ofNat 16 f } }

/-- Some core is above its floor. -/
def State.coresHigh (s : State) : Bool :=
  s.cores.toList.any fun k => k.floorAt s.pwr.cap.toNat < k.reg.freqMhz.toNat

/-- The first item above its floor is lowered by one step. -/
def State.lower (s : State) : State :=
  let cap := s.pwr.cap.toNat
  let down (s : State) : State := s.modPwr fun u => { u with govDown := u.govDown + 1 }
  let rate := s.pwr.nearRate.toNat
  if s.coresHigh then
    down { s with cores := s.cores.map fun k =>
      if k.floorAt cap < k.reg.freqMhz.toNat then k.setFreq (max (k.floorAt cap) (k.reg.freqMhz.toNat - 50)) else k }
  else if min s.pwr.nearImgRate.toNat (rateFloor cap) < rate then
    (down (s.setNearRate (rate - 4))).modPwr fun u => { u with nearStepping := true }
  else if accessFloor cap rate < s.pwr.nearAccess.toNat then
    down (s.modPwr fun u => { u with nearAccess := u.nearAccess - 1 })
  else s

/-- The last item below its image point is raised by one step; the near-tier rate at most once per 1 ms. -/
def State.raise (s : State) : State :=
  let up (s : State) : State := s.modPwr fun u => { u with govUp := u.govUp + 1 }
  if s.pwr.nearAccess.toNat < 16 then up (s.modPwr fun u => { u with nearAccess := u.nearAccess + 1 })
  else if s.pwr.nearRate.toNat < s.pwr.nearImgRate.toNat then
    if s.pwr.sinceRaise < 16 then s
    else (up (s.setNearRate (s.pwr.nearRate.toNat + 4))).modPwr fun u => { u with nearStepping := true, sinceRaise := 0 }
  else if s.cores.toList.any fun k => k.reg.freqMhz.toNat < k.reg.imgMhz.toNat then
    up { s with cores := s.cores.map fun k =>
      if k.reg.freqMhz.toNat < k.reg.imgMhz.toNat then k.setFreq (min k.reg.imgMhz.toNat (k.reg.freqMhz.toNat + 50)) else k }
  else s

def execGovernorWindow (pin vin : BitVec 16) (s : State) : Host.Outcome State Fault Refusal :=
  .next (if !s.powered then s
    else
      let c := 10 * s.pwr.cap.toNat
      let low := 20 * pin.toNat < 19 * c
      let s := s.modPwr fun u =>
        { u with pin := pin, vin := vin, lowWindows := if low then u.lowWindows + 1 else 0, sinceRaise := u.sinceRaise + 1 }
      if s.pwr.thermal then s
      else if c < pin.toNat then s.lower
      else if 16 ≤ s.pwr.lowWindows then s.raise
      else s)

def execNearRateStepEnd (s : State) : Host.Outcome State Fault Refusal :=
  .next (s.modPwr fun u => { u with nearStepping := false })

/-- Every item of the governor at the floor of the cap's band (R434). -/
def State.holdFloors (s : State) : State :=
  let cap := s.pwr.cap.toNat
  let s := { s with cores := s.cores.map fun (k : Core) => k.setFreq (k.floorAt cap) }
  let s := s.setNearRate (min s.pwr.nearImgRate.toNat (rateFloor cap))
  s.modPwr fun u => { u with nearAccess := BitVec.ofNat 5 (accessFloor cap u.nearRate.toNat) }

def State.setTemp (s : State) (die : PortId) (temp : BitVec 16) : State :=
  s.modPwr fun u => if die = 0 then { u with die0 := temp } else { u with die1 := temp }

/-- The hotspot in sixteenths of a degree. -/
def State.hotspot (s : State) : Int := max s.pwr.die0.toInt s.pwr.die1.toInt

def execThermalWarning (die : PortId) (temp : BitVec 16) (s : State) : Host.Outcome State Fault Refusal :=
  .next (if !s.powered || temp.toInt < 1680 then s
    else ((s.setTemp die temp).modPwr fun u => { u with thermN := false, thermal := true }).holdFloors)

def execThermalClear (die : PortId) (temp : BitVec 16) (s : State) : Host.Outcome State Fault Refusal :=
  .next (if !s.powered || 1600 ≤ temp.toInt then s
    else
      let s := s.setTemp die temp
      if s.hotspot < 1600 then s.modPwr fun u => { u with thermN := true, thermal := false } else s)

/-- A write of PWR_CAP (R430): REFUSED is W1C, and a CAP outside 30 to 75 sets it. -/
def State.writeCap (s : State) (v : Word) : State :=
  let cap := v.toNat % 256
  let s := s.modPwr fun u => { u with capRefused := u.capRefused && !v.getLsbD 8 }
  if within cap 30 75 then
    let s := s.modPwr fun u => { u with cap := BitVec.ofNat 8 cap }
    if s.pwr.thermal then s.holdFloors else s
  else s.modPwr fun u => { u with capRefused := true }

def execPwrCap (m : Master) (v : Word) (s : State) : Host.Outcome State Fault Refusal :=
  .next (if s.hostMaint m then s.writeCap v else s)

/-! ### Orderly shut-down (R440) -/

/-- A request: partitions stop, and a second request joins the first. -/
def State.beginShutdown (s : State) (h : List (BitVec 32)) : State :=
  if s.pwr.safe then s.endAll h stDone
  else
    let s := s.each h fun s h => s.modCmd h fun c => { c with running := true }
    let running := s.existing.filter fun p => !s.stopped p
    let s := s.modPwr fun u => { u with shutting := true, shutReqs := u.shutReqs ++ h }
    s.each running fun s p => s.stopPart p

def execShutdown (m : Master) (s : State) : Host.Outcome State Fault Refusal :=
  .next (if s.hostMaint m && s.ready then s.beginShutdown [] else s)

/-- In SAFE only NOP, QUERY, CLOSE, REG_READ, GET_IDENTITY and ATTEST are performed: what was accepted earlier and has not
begun completes BAD_DESCRIPTOR like any later command. -/
def State.refuseWaiting (s : State) (reqs : List (BitVec 32)) : State :=
  s.each (s.fct.cmds.filter fun c =>
      !reqs.contains c.handle && !safeOpc c.opc.toNat && !c.running && !c.sentAll && c.issued.isNone) fun s c =>
    (s.unqueue c.handle).endCmd c.handle stBadDesc 0

/-- Loads and writes in progress have ended: the checkpoint and the cause are recorded, and SAFE is set. Ledger writes wait
for a takeover's end (R380), and so does this. -/
def execShutdownComplete (s : State) : Host.Outcome State Fault Refusal :=
  .next (if !s.pwr.shutting || s.pwr.safe || s.loadBusy || s.rep.takeover.isSome || s.tier.moves.any (fun m => m.dest = 1) then s
    else
      let reqs := s.pwr.shutReqs
      let s := ((s.ledger 8).writeCause 0).modPwr fun u => { u with safe := true, shutReqs := [] }
      (s.refuseWaiting reqs).endAll reqs stDone)

end Sys2Proof.Machine
end

