-- ==== Sys2Proof/Machine/Security.lean ====
section
/-! DEFINITION. The keyring and its fuses (R400, R401, R403, R410 to R414), identity and attestation (R415, R416), debug
(R419), and the security commands with their causes (R420, R421). The order of the causes is notes/assumptions/29.md. -/

namespace Sys2Proof.Machine

/-! ### Keyrings (R401, R403) -/

def ringBytes : Nat := 10768

def ringEntry (b : List Byte) (i : Nat) : KeyEntry :=
  let e := 16 + 1344 * i
  let flags := bytesN b (e + 1313) 1
  { pk := (b.drop e).take 1312, roles := BitVec.ofNat 6 (bytesN b (e + 1312) 1), valid := flags % 2 = 1,
    revoked := flags / 2 % 2 = 1, pmask := BitVec.ofNat 16 (bytesN b (e + 1314) 2) }

/-- An entry keeps its reserved bits zero, and is all zero when it is not VALID. -/
def ringEntryOk (b : List Byte) (i : Nat) : Bool :=
  let e := 16 + 1344 * i
  bytesN b (e + 1312) 1 < 64 && bytesN b (e + 1313) 1 < 4 && zeroAt b (e + 1316) (e + 1344) &&
  ((ringEntry b i).valid || zeroAt b e (e + 1344))

/-- A well-formed keyring. -/
def ringOf (b : List Byte) : Option Keyring :=
  let es : List KeyEntry := (List.range 8).map (ringEntry b)
  if b.length = ringBytes && bytesN b 0 4 = 0x474E524B && zeroAt b 8 16 && (List.range 8).all (ringEntryOk b) &&
      es.any (fun k => k.usable 2) && es.any (fun k => k.usable 3) then
    some { version := BitVec.ofNat 32 (bytesN b 4 4), entries := Vector.ofFn fun i => ringEntry b i.val, bytes := b }
  else none

def kSeal : List Byte := hashBytes (Config.kmac256 Config.uds [] "FLQ8 seal")

/-- SEAL of a keyring (R403). -/
def ringSeal (b : List Byte) : List Byte := hashBytes (Config.kmac256 kSeal b "FLQ8 keyring")

/-! ### Data for the host (R415, R416, R420) -/

/-- The identity certificate, as Brepor wrote it at manufacture (R415). -/
def State.certificate (s : State) : List Byte :=
  let body := leBytes 4 0x54434449 ++ sized 16 Config.serial ++ leBytes 1 s.pwr.grade.toNat ++ [0xB1, 0, 0] ++ identityPk ++ leBytes 8 0
  body ++ sized 2420 (Config.factorySign "FLQ8-IDC" body)

def execGetIdentity (h : BitVec 32) (s : State) : Host.Outcome State Fault Refusal :=
  .next (s.withCmd h 0x60 fun s _ => s.sendData h s.certificate)

/-- Bytes 0 to 255 of an attestation report. -/
def State.report (s : State) (nonce : List Byte) : List Byte :=
  let x := s.sec
  leBytes 4 0x54535441 ++ leBytes 2 1 ++ leBytes 1 s.pwr.grade.toNat ++ [0xB1] ++ nonce ++ hashBytes Config.romMeas ++
  hashBytes x.fwMeas ++ hashBytes s.ringHash ++ hashBytes s.espMeas ++ leBytes 4 s.rep.fwVersion.toNat ++
  leBytes 4 s.rep.fwFloor.toNat ++ leBytes 4 x.ringVer.toNat ++ leBytes 4 s.esp.layoutGen.toNat ++
  leBytes 8 ((s.modBlock 0x100).getD 0) ++ leBytes 8 s.rep.ledgerSeq.toNat ++ sized 16 Config.serial ++
  leBytes 1 (ofBool x.provisioning + 2 * ofBool x.debug + 4 * ofBool x.ownerLock + 8 * ofBool x.dbgDisable) ++ leBytes 39 0

def execAttest (h : BitVec 32) (s : State) : Host.Outcome State Fault Refusal :=
  .next (s.withCmd h 0x61 fun s c =>
    let r := s.report ((c.args.drop 16).take 32)
    (s.modSec fun x => { x with attests := x.attests + 1 }).sendData h (r ++ identitySign "FLQ8-ATT" r))

def execGetKeyring (h : BitVec 32) (s : State) : Host.Outcome State Fault Refusal :=
  .next (s.withCmd h 0x62 fun s _ =>
    match s.sec.keyring with
    | some k => s.sendData h (k.bytes ++ ringSeal k.bytes)
    | none => s.refuseCmd h 0x02)

/-! ### Commands with data (R410 to R414, R419) -/

/-- A command whose LEN is one of these runs once its data are here; another LEN is refused at once. -/
def State.withData (s : State) (h : BitVec 32) (opc : Nat) (lens : List Nat) (f : State → HCmd → State) : State :=
  s.withCmd h opc fun s c =>
    if !lens.contains c.wants then s.refuseCmd h 0x01 else if !c.full then s else f s c

/-- Every bit of OWNER_HASH that is programmed is one of this hash. -/
def State.fusesFit (s : State) (h : BitVec 256) : Bool := s.sec.ownerHash &&& ~~~h = 0

def execOwnerFuse (h : BitVec 32) (fuseOk : Bool) (s : State) : Host.Outcome State Fault Refusal :=
  .next (s.withData h 0x63 [ringBytes] fun s c =>
    if !s.sec.provisioning || s.sec.ownerLock then s.refuseCmd h 0x02
    else match ringOf c.data with
      | none => s.refuseCmd h 0x01
      | some k =>
        let hash := Config.sha3 k.bytes
        if k.version ≠ 0 then s.refuseCmd h 0x04
        else if !s.fusesFit hash then s.refuseCmd h 0x09
        else if !fuseOk then
          let (a, s) := s.fresh
          let (b, s) := s.fresh
          let (d, s) := s.fresh
          let (e, s) := s.fresh
          (s.modSec fun x => { x with ownerHash := x.ownerHash ||| (hash &&& (a ++ b ++ d ++ e)) }).refuseCmd h 0x06
        else
          let s := s.modSec fun x => { x with ownerHash := hash, ownerLock := true, keyring := some k, restartDue := some h }
          (s.ledger 6).endCmd h stDone 0)

/-- The keyring is installed, and a restart follows. -/
def State.installRing (s : State) (h : BitVec 32) (k : Keyring) : State :=
  ((s.modSec fun x => { x with keyring := some k, restartDue := some h }).ledger 6).endCmd h stDone 0

def execKeyringInstall (h : BitVec 32) (s : State) : Host.Outcome State Fault Refusal :=
  .next (s.withData h 0x64 [ringBytes, ringBytes + 32] fun s c =>
    let body := c.data.take ringBytes
    if !s.sec.provisioning || !s.sec.ownerLock then s.refuseCmd h 0x02
    else match ringOf body with
      | none => s.refuseCmd h 0x01
      | some k =>
        let v := s.sec.ringVer.toNat
        if k.version.toNat ≠ v || (c.data.length = ringBytes && v ≠ 0) then s.refuseCmd h 0x04
        else if c.data.length = ringBytes then
          (if Config.sha3 body = s.sec.ownerHash then s.installRing h k else s.refuseCmd h 0x09)
        else if c.data.drop ringBytes = ringSeal body then s.installRing h k
        else s.refuseCmd h 0x09)

/-- A refused rotation is counted. -/
def State.rotRefused (s : State) (h : BitVec 32) (cause : Nat) : State :=
  (s.modSec fun x => { x with rotFail := x.rotFail + 1 }).refuseCmd h cause

/-- A key that the old keyring revokes is in use in the new one (R412). -/
def reEnabled (old new : Keyring) : Bool :=
  old.entries.toList.any fun k => k.valid && k.revoked && new.entries.toList.any fun n => n.valid && !n.revoked && n.pk = k.pk

/-- The cause for which a rotation is refused, or the keyring it brings. -/
def State.rotation (s : State) (b : List Byte) : Except Nat Keyring :=
  match s.sec.keyring with
  | none => .error 0x02
  | some old =>
    if s.pwr.shutting then .error 0x02
    else match ringOf (b.take ringBytes) with
      | none => .error 0x01
      | some new =>
        let signer := bytesN b ringBytes 1
        let signed := match (vat old.entries signer).filter fun k => k.usable 2 with
          | some k => Config.mldsaVerify k.pk "FLQ8-ROT" (hashBytes (Config.sha3 old.bytes) ++ b.take 10816) (b.drop 10816)
          | none => false
        if !zeroAt b (ringBytes + 1) 10816 then .error 0x01
        else if new.version ≠ old.version + 1 then .error 0x04
        else if 64 ≤ s.sec.ringVer.toNat then .error 0x07
        else if !signed then .error 0x03
        else if reEnabled old new then .error 0x05
        else .ok new

/-- Sessions whose key no longer serves close (R414); the submitter's closes once its record is acknowledged. -/
def State.dropSessions (s : State) (h : BitVec 32) : State :=
  let mine := (s.findCmd h).bind fun c => match s.findSlot h with
    | some x => if x.st == .issued then some c.sess else none
    | none => none
  s.each (List.finRange 64) fun s i =>
    let x := s.sess i
    if x.st == .free || (s.sessionKey (helloOf x.hello)).isSome then s
    else if x.st == .setup then s.dropSetup i
    else if mine = some i then s.modSess i fun x => { x with closeAck := some h }
    else s.closeSession i

/-- The three steps of R413, in ledger order. -/
def State.rotate (s : State) (h : BitVec 32) (k : Keyring) (fuseOk : Bool) : State :=
  let s := (s.modSec fun x => { x with keyPending := some k }).ledger 6
  if !fuseOk then (s.modSec fun x => { x with keyPending := none }).rotRefused h 0x06
  else
    let st := match s.findCmd h with
      | some c => c.loadDone
      | none => stDone
    let s := s.modSec fun x => { x with ringVer := x.ringVer + 1, keyring := some k, keyPending := none }
    ((s.ledger 6).dropSessions h).endCmd h st (resultOf (leBytes 4 0 ++ leBytes 4 k.version.toNat))

def execKeyringRotate (h : BitVec 32) (fuseOk : Bool) (s : State) : Host.Outcome State Fault Refusal :=
  .next (match s.cmdReady h 0x65 with
    | some c =>
      if c.wants ≠ 13236 then s.rotRefused h 0x01
      else s.inTurn h 0x65 fun s c => match s.rotation c.data with
        | .error x => s.rotRefused h x
        | .ok k => s.rotate h k fuseOk
    | none => s.inTurn h 0x65 fun s c => match s.rotation c.data with
      | .error x => s.rotRefused h x
      | .ok k => s.rotate h k fuseOk)

def execDebugChallenge (h : BitVec 32) (s : State) : Host.Outcome State Fault Refusal :=
  .next (s.withCmd h 0x66 fun s _ =>
    let (a, s) := s.fresh
    let (b, s) := s.fresh
    let x : BitVec 128 := a ++ b
    (s.modSec fun y => { y with challenge := some x }).endCmd h stDone x)

def State.debugRefused (s : State) (h : BitVec 32) (cause : Nat) : State :=
  (s.modSec fun x => { x with dbgFail := x.dbgFail + 1 }).refuseCmd h cause

/-- A key usable for DEBUG signed the challenge. -/
def State.debugSigned (s : State) (challenge : BitVec 128) (sig : List Byte) : Bool :=
  let msg := leBytes 16 challenge.toNat ++ hashBytes (Config.sha3 identityPk)
  match s.sec.keyring with
  | none => false
  | some r => r.entries.toList.any fun k => k.usable 5 && Config.mldsaVerify k.pk "FLQ8-DBG" msg sig

def execDebugUnlock (h : BitVec 32) (s : State) : Host.Outcome State Fault Refusal :=
  .next (s.withCmd h 0x67 fun s c =>
    if c.wants ≠ 2420 then s.debugRefused h 0x01
    else if !c.full then s
    else if s.sec.dbgDisable then s.debugRefused h 0x08
    else match s.sec.challenge with
      | none => s.debugRefused h 0x02
      | some x =>
        let s := s.modSec fun y => { y with challenge := none }
        if s.debugSigned x c.data then (s.modSec fun y => { y with debug := true }).endCmd h stDone 0
        else s.debugRefused h 0x03)

def execDebugDisable (h : BitVec 32) (fuseOk : Bool) (s : State) : Host.Outcome State Fault Refusal :=
  .next (s.withCmd h 0x68 fun s _ =>
    if fuseOk || s.sec.dbgDisable then (s.modSec fun x => { x with dbgDisable := true }).endCmd h stDone 0
    else s.refuseCmd h 0x06)

/-- A provisioning command has completed and its record is acknowledged, or the wait has timed out: start begins again at
step 1 as on release of RESET_N (R407). -/
def execProvisioningRestart (s : State) : Host.Outcome State Fault Refusal :=
  .next (match s.sec.restartDue with
    | none => s
    | some h => if (s.findCmd h).isSome then s else s.cold .starting)

end Sys2Proof.Machine
end

