-- ==== Sys2Proof/Machine/HostCmd.lean ====
section
/-! DEFINITION. The host commands NOP, QUERY, CLOSE, ISSUE, WRITE, READ and REG_READ (R349, R352 to R360, R363). Readings
are in notes/assumptions/30.md. -/

namespace Sys2Proof.Machine

/-- The command violates: it completes VIOLATION_FROZEN and its session, unless it has closed, is frozen (R357). -/
def State.cmdViolation (s : State) (c : HCmd) : State :=
  let t := s.endCmd c.handle stViolation 0
  if s.orphaned c then t else t.freezeSession c.sess c.part

def execFctNop (h : BitVec 32) (s : State) : Host.Outcome State Fault Refusal :=
  .next (s.withCmd h 0x01 fun s c => s.endCmd c.handle stDone 0)

/-! ### QUERY (R354, R359) -/

def HandleSt.code : HandleSt → Nat
  | .free => 0
  | .issued => 1
  | .reported => 2
  | .orphan => 3

/-- The result of a QUERY of a handle: 0 when it is stale. -/
def State.queryResult (s : State) (h : BitVec 32) : BitVec 128 :=
  match s.findSlot h with
  | none => 0
  | some x => resultOf (leBytes 4 x.st.code ++ leBytes 2 (if x.st == .reported then x.status.toNat else 0))

def execQuery (h : BitVec 32) (s : State) : Host.Outcome State Fault Refusal :=
  .next (s.withCmd h 0x02 fun s c => s.endCmd c.handle stDone (s.queryResult (BitVec.ofNat 32 (entryN c.args 12 4))))

/-! ### CLOSE (R349, R352) -/

/-- The session whose CLOSE was accepted closes; a CLOSE with FENCE waits for the commands before it (R355). -/
def execFctClose (sid : BitVec 32) (s : State) : Host.Outcome State Fault Refusal :=
  .next (match s.findSess sid true with
    | none => s
    | some i =>
      let x := s.sess i
      if s.ready && x.closeDue && x.closeAfter.all (fun h => (s.findCmd h).isNone) then s.closeSession i else s)

/-! ### ISSUE (R355, R356, R378) -/

/-- Host operations in flight on a core. -/
def Core.hostOps (k : Core) : Nat := k.ops.countP fun o => o.host.isSome

/-- The lowest of the controller's tokens that no operation in flight holds. -/
def Core.hostToken (k : Core) : Option (BitVec 7) :=
  ((List.range 16).find? fun i => match vat k.tokens (112 + i) with
    | some t => !t.busy
    | none => false).map fun i => BitVec.ofNat 7 (112 + i)

/-- The core that an ISSUE names. -/
def HCmd.issueCore (c : HCmd) : Nat := entryN c.args 12 1

/-- An earlier ISSUE to the same core goes first: one of its session, or one that waits for the per-core limit. -/
def State.issueBehind (s : State) (c : HCmd) : Bool :=
  (s.fct.cmds.takeWhile fun x => x.handle ≠ c.handle).any fun x =>
    x.opc = 0x10 && x.issued.isNone && x.issueCore = c.issueCore &&
    (x.sess = c.sess || (s.cmdReady x.handle 0x10).isSome)

/-- What AFTER names: the wait is met, or met with a status, or is on an operation; none where it names no earlier ISSUE
of the session on the core. -/
def State.afterOf (s : State) (c : HCmd) (h : BitVec 32) : Option (Option (BitVec 32) × Status) :=
  match s.findSlot h with
  | none => some (none, stDone)
  | some x =>
    if x.st == .free then some (none, stDone)
    else if x.st == .orphan || x.sess ≠ c.sess || x.issueCore ≠ some (BitVec.ofNat 8 c.issueCore) then none
    else if x.st == .reported then some (none, x.status)
    else match (s.findCmd h).bind HCmd.issued with
      | some (_, t) => some (some t, stDone)
      | none => none

/-- The controller issues the descriptor on the core. -/
def State.hostIssue (s : State) (c : HCmd) (core : CoreId) (d : Desc) (after : Option (Option (BitVec 32) × Status))
    (t : BitVec 7) : State :=
  let k := s.core core
  let i : Issue := { host := some c.handle, boundary := false, waited := c.waited || k.fenced, after := after, sig := some t }
  let bad := s.ctlBad core d
  (s.modCore core fun k => k.issue d bad i).modCmd c.handle fun x =>
    { x with running := true, issued := some (core, k.next) }

def State.cmdWaits (s : State) (h : BitVec 32) : State := s.modCmd h fun c => { c with waited := true }

/-- ISSUE on a core of its partition. -/
def State.issueOn (s : State) (c : HCmd) (core : CoreId) : State :=
  let d := descOf ((c.args.drop 24).take 128)
  let after := BitVec.ofNat 32 (entryN c.args 16 4)
  let k := s.core core
  if dSigV d || (after ≠ 0 && dWaitV d) then s.endCmd c.handle stBadDesc 0
  else if s.issueBehind c then (if 16 ≤ k.hostOps then s.cmdWaits c.handle else s)
  else match s.afterOf c after with
    | none => s.endCmd c.handle stBadDesc 0
    | some w =>
      if 16 ≤ k.hostOps then s.cmdWaits c.handle
      else if !k.slotFree then s
      else match k.hostToken with
        | none => s
        | some t => s.hostIssue c core d (if after = 0 then none else some w) t

def execIssue (h : BitVec 32) (s : State) : Host.Outcome State Fault Refusal :=
  .next (s.withCmd h 0x10 fun s c =>
    match c.partition with
    | none => s.endCmd h stBadDesc 0
    | some p =>
      if (s.part p).st == .held then s.modCmd h fun c => { c with waited := true, atHold := true }
      else if (s.part p).shortCores.any fun x => x.val = c.issueCore then s.endCmd h stRetired 0
      else match s.entryCore p c.issueCore with
        | none => s.endCmd h stBadDesc 0
        | some core => s.issueOn c core)

/-! ### WRITE and READ (R363) -/

/-- Every byte-addressable range of the module: what is backed of the tiers, and the slots of usable cores without the
units' own memories. -/
def State.maintRanges (s : State) (wr : Bool) : List Range :=
  [(0, s.nearTop), (farBase, farBase + s.farSize)] ++
  ((List.finRange 176).filter s.usable).map fun c => (slotOf c, slotOf c + (if wr then 0x500000 else 0x520000))

/-- The session may not move these bytes. -/
def State.xferViolates (s : State) (c : HCmd) (a n : Nat) (wr : Bool) : Bool :=
  match c.partition with
  | some p => (s.violates p a n wr).isSome
  | none => (firstOutside (s.maintRanges wr) a n).isSome

/-- A transfer whose address and length are good, and whose range the session may address. -/
def State.withRange (s : State) (c : HCmd) (wr : Bool) (f : State → Nat → Nat → State) : State :=
  let a := entryN c.args 16 8
  let n := entryN c.args 24 8
  if a % 64 ≠ 0 || n = 0 || 2 ^ 40 < n then s.endCmd c.handle stBadDesc 0
  else if s.xferViolates c a n wr then s.cmdViolation c
  else f s a n

/-- A WRITE starts: the data that came before are performed, and later ones as they come. -/
def execFctWrite (h : BitVec 32) (s : State) : Host.Outcome State Fault Refusal :=
  .next (s.withCmd h 0x20 fun s c => s.withRange c true fun s _ _ =>
    (s.modCmd h fun c => { c with running := true, data := [] }).performWrite c 0 c.data)

/-- A READ reads its range and sends it; uncorrectable data end it with nothing sent. -/
def execFctRead (h : BitVec 32) (bad : BadSectors) (s : State) : Host.Outcome State Fault Refusal :=
  .next (s.withCmd h 0x21 fun s c => s.withRange c false fun s a n =>
    match s.uncorrectable bad a n with
    | some x => (s.noteUncorrectable x).endCmd h stRetired 0
    | none => s.sendData h (s.rd a n))

/-! ### REG_READ (R357, R360) -/

def execRegRead (h : BitVec 32) (s : State) : Host.Outcome State Fault Refusal :=
  .next (s.withCmd h 0x40 fun s c =>
    let a := entryN c.args 16 8
    let s := s.sampleReg a
    match s.regAt a with
    | some v => s.endCmd h stDone (resultOf (leBytes 8 v))
    | none => s.cmdViolation c)

end Sys2Proof.Machine
end

