-- ==== Sys2Proof/Machine/RegWrite.lean ====
section
/-! DEFINITION. Writes of registers by access code and ownership (R8, R32, R320, R340, R357, R381, R387, R430, R440, R443 and
the register tables), the performing of a thread's store (R31, R57), and REG_WRITE. Readings are in
notes/assumptions/31.md. -/

namespace Sys2Proof.Machine

/-! ### Fields of one register -/

/-- Bit i of the value written is 1: a W1C bit is cleared, a WO bit acts. -/
def one (v : Word) (i : Nat) : Bool := v.getLsbD i

/-- A W1C flag after a write. -/
def w1c (old : Bool) (v : Word) (i : Nat) : Bool := old && !one v i

/-! ### Per-core units (R26, R443) -/

/-- The registers of one thread: THR_CTL acts; the others are writable only while it is IDLE (R32). -/
def State.threadRegWrite (s : State) (m : Master) (c : CoreId) (t : ThreadId) (off : Nat) (v : Word) : State :=
  if off = 0 then s.writeThrCtl m c t v
  else if (s.thread c t).st != .idle then s
  else if off = 8 then s.modThread c t fun x => { x with pc := v.extractLsb' 2 20 }
  else if off = 0x18 then s.modThread c t fun x => { x with pred := v.setWidth 8 ||| 1 }
  else match regIndex 0x200 64 off with
    | some i => s.modThread c t fun x => x.setReg (BitVec.ofNat 6 i) v
    | none => s

/-- Unit u of core c at an offset. -/
def State.coreRegWrite (s : State) (m : Master) (c : CoreId) (u off : Nat) (v : Word) : State :=
  match u with
  | 0 =>
    if off = 0x18 then s.modReg c fun r => { r with elogValid := w1c r.elogValid v 63, elogOvf := w1c r.elogOvf v 62 }
    else s
  | 1 => if off = 0x28 then s.modArr c fun a => { a with perrValid := w1c a.perrValid v 63 } else s
  | 2 =>
    match toFin? 32 (off / 0x400) with
    | some t => s.threadRegWrite m c t (off % 0x400) v
    | none => s
  | 5 =>
    if off = 0x28 then s.modSts c fun x => { x with driftValid := w1c x.driftValid v 63, driftOvf := w1c x.driftOvf v 62 }
    else if off = 0x30 then s.modSts c fun x => { x with stsUnc := w1c x.stsUnc v 63 }
    else s
  | 6 => if off = 0x48 then s.modKvc c fun x => { x with kvUnc := w1c x.kvUnc v 63 } else s
  | 7 => if off = 0x18 then s.modCnv c fun x => { x with cfValid := w1c x.cfValid v 63 } else s
  | _ => s

/-! ### Module blocks -/

/-- MOD_FNCTL (R381); `h` is the handle of the REG_WRITE, which ends with its request. -/
def State.writeFnCtl (s : State) (v : Word) (h : List (BitVec 32)) : State :=
  let act := (v.toNat / 256) % 4
  if act = 1 || act = 2 then s.fnRequest (v.toNat % 64) (act = 1) h else s.endAll h stBadDesc

/-- MOD_RELEASE (R387). -/
def State.writeModRelease (s : State) (m : Master) (v : Word) : State :=
  let kind := (v.extractLsb' 62 2).toNat
  if kind = 0 then s.releaseSession m (v.setWidth 32)
  else if kind = 1 then s.releaseRemote m (v.setWidth 18) (v.extractLsb' 52 4).toFin
  else s

def State.modBlockWrite (s : State) (m : Master) (off : Nat) (v : Word) (h : List (BitVec 32)) : State :=
  if off = 0x108 then (if s.hostMaint m then s.writeFnCtl v h else s)
  else if off = 0x120 then s.writeModRelease m v
  else if off = 0x140 then s.modRep fun r => { r with lrValid := w1c r.lrValid v 63, lrOvf := w1c r.lrOvf v 62 }
  else s

def State.pwrBlockWrite (s : State) (m : Master) (off : Nat) (v : Word) (h : List (BitVec 32)) : State :=
  if !s.hostMaint m then s
  else if off = 0 then s.writeCap v
  else if off = 0x30 && one v 0 then s.beginShutdown h
  else s

def State.fctBlockWrite (s : State) (off : Nat) (v : Word) : State :=
  if off = 0 then (s.modFct fun f => { f with rto := v }).ledger 0
  else if off = 8 then (s.modFct fun f => { f with idle := v }).ledger 0
  else if off = 0x30 then s.modFct fun f => { f with sessSel := v.setWidth 6 }
  else s

/-- ETH_CFG: 7 is no class's PCP but HASP's, and BULK_PCP does not take CTRL_PCP's value. -/
def Eth.setCfgFields (e : Eth) (v : Word) : Eth :=
  let ctrl : BitVec 3 := v.extractLsb' 16 3
  let bulk : BitVec 3 := v.extractLsb' 20 3
  let ctrl := if ctrl = 7 then e.ctrlPcp else ctrl
  { e with udpPort := v.extractLsb' 32 16, ctrlPcp := ctrl, bulkPcp := if bulk = 7 || bulk = ctrl then e.bulkPcp else bulk,
           echo := one v 13, untagged := one v 12, vid := v.setWidth 12 }

def State.ethBlockWrite (s : State) (p : PortId) (off : Nat) (v : Word) : State :=
  if off = 0x10 then (s.modEth p fun e => e.setCfgFields v).ledger 0
  else if off = 0x18 then (s.modEth p fun e => { e with ip4Valid := one v 32, ip4 := v.setWidth 32 }).ledger 0
  else if off = 0x20 then (s.modEth p fun e => { e with ip6Hi := v }).ledger 0
  else if off = 0x28 then (s.modEth p fun e => { e with ip6Lo := v }).ledger 0
  else s

/-- NEAR_TG_CTL: its fields, then STOP for a run in progress, then START (R238). -/
def State.writeTgCtl (s : State) (m : Master) (ch : ChanId) (v : Word) : State :=
  let s := s.modChan ch fun c =>
    { c with tgRefused := w1c c.tgRefused v 18, tgReads := v.extractLsb' 8 4, tgPasses := v.extractLsb' 2 6,
             tgPattern := v.setWidth 2 }
  let s := if one v 15 then s.tgStopRun m ch else s
  if one v 16 then s.tgStart m ch else s

def State.chanBlockWrite (s : State) (m : Master) (ch : ChanId) (off : Nat) (v : Word) : State :=
  if off = 0x10 then s.modChan ch fun c => { c with uncValid := w1c c.uncValid v 63 }
  else if off = 0x20 then s.writeTgCtl m ch v
  else if off = 0x28 then s.modChan ch fun c => { c with tgRows := v.extractLsb' 32 23, tgFirst := v.setWidth 23 }
  else s

/-- A link's block; FAB_POS is the same register in every one, and ORIGIN establishes the position once an image is
loaded (R273). -/
def State.fabBlockWrite (s : State) (l : LinkId) (off : Nat) (v : Word) : State :=
  if off = 0x18 then ((s.modFab fun f => { f with origin := one v 32 }).ledger 0).checkLinks
  else if off = 0x40 then s.modLink l fun k => { k with vValid := w1c k.vValid v 63 }
  else s

/-- PART_RELEASE (R387). -/
def State.writePartRelease (s : State) (m : Master) (p : PartId) (v : Word) : State :=
  match toFin? 176 (v.toNat / 256 % 256) with
  | none => s
  | some c =>
    match v.toNat / 65536 % 4 with
    | 0 => s.releaseThread m p c (v.setWidth 5).toFin
    | 1 => if s.mayRelease m p c then s.releaseList c false else s
    | 2 => if s.mayRelease m p c then s.releaseList c true else s
    | _ => s.releaseCore m p c

/-- The PART block of a partition (R320, R443). -/
def State.partBlockWrite (s : State) (m : Master) (p : PartId) (off : Nat) (v : Word) : State :=
  if (s.part p).st == .absent then s
  else if off = 0 then s.modBound p fun b => { b with late := w1c b.late v 16 }
  else if off = 8 then s.endStep m p v
  else if off = 0x30 then s.modPart p fun x => { x with wdogValid := w1c x.wdogValid v 63, wdogOvf := w1c x.wdogOvf v 62 }
  else if off = 0x48 then s.modBound p fun b => { b with listErr := w1c b.listErr v 63 }
  else if off = 0x70 then s.writePartRelease m p v
  else s

/-- The master may write the PART block of a partition (R357, R443). -/
def State.mayWritePart (s : State) (m : Master) (p : PartId) : Bool :=
  match m with
  | .thread c _ => s.owner c = some p
  | .session i => (s.sess i).isOpen && (s.sess i).holds p
  | .pctl q => q = p
  | .mctl => false

/-- Module block b at an offset, other than the PART blocks. -/
def State.moduleWrite (s : State) (m : Master) (b off : Nat) (v : Word) (h : List (BitVec 32)) : State :=
  if b = 0 then s.modBlockWrite m off v h
  else if b = 1 then s.pwrBlockWrite m off v h
  else if b = 2 then
    (if off = 0xE8 then s.modSec fun x =>
      { x with dbgUnit := v.extractLsb' 28 4, dbgCtrl := v.extractLsb' 24 4, dbgOffset := v.setWidth 24 }
    else s)
  else if b = 3 then
    (if off = 0x38 then s.modEsp fun e =>
      { e with espErrValid := w1c e.espErrValid v 63, espErrOvf := w1c e.espErrOvf v 62 }
    else s)
  else if b = 4 then s.fctBlockWrite off v
  else if b = 8 then s.ethBlockWrite 0 off v
  else if b = 9 then s.ethBlockWrite 1 off v
  else if b = 0x20 then
    (if off = 0x200 then s.modTier fun t => { t with evValid := w1c t.evValid v 63, evOvf := w1c t.evOvf v 62 } else s)
  else if b = 0x28 || b = 0x29 then
    (if off = 0x20 then s.modFar (if b = 0x28 then 0 else 1) fun f => { f with errValid := w1c f.errValid v 63 } else s)
  else match toFin? 192 (b - 0x100), toFin? 24 (b - 0x200) with
    | some ch, _ => if 0x100 ≤ b then s.chanBlockWrite m ch off v else s
    | none, some l => s.fabBlockWrite l off v
    | none, none => s

/-! ### A write of a register -/

/-- A write of a register by a master, applied or ignored by ownership and access code. -/
def State.regWrite (s : State) (m : Master) (a : Nat) (v : Word) (h : List (BitVec 32)) : State :=
  if (s.regAt a).isNone then s else
  match regionOf a with
  | .coreReg c u off => if s.mayControl m c then s.coreRegWrite m c u off v else s
  | .modReg b off =>
    if 0x10 ≤ b && b < 0x20 then
      match toFin? 16 (b - 0x10) with
      | some p => if s.mayWritePart m p then s.partBlockWrite m p off v else s
      | none => s
    else if s.maintains m then s.moduleWrite m b off v h
    else s
  | _ => s

def execRegisterWrite (m : Master) (a : LAddr) (v : Word) (s : State) : Host.Outcome State Fault Refusal :=
  .next (s.regWrite m a.toNat v [])

/-! ### STORE_PERFORMED (R31, R57, R58) -/

/-- An earlier store of the thread that shares a byte is not performed yet. -/
def Thread.storeWaits (x : Thread) (i : Nat) (y : Store) : Bool :=
  (x.stores.take i).any fun z => sharesByte y.addr.toNat y.size z.addr.toNat z.size

/-- A local store reaches its target; the target of a remote one answers with its ACK. -/
def execStorePerformed (c : CoreId) (t : ThreadId) (i : Fin 8) (s : State) : Host.Outcome State Fault Refusal :=
  let x := s.thread c t
  .next (match x.stores[i.val]? with
    | none => s
    | some y =>
      let a := localPart y.addr.toNat
      if y.tag.isSome || x.storeWaits i.val y then s
      else if isRegAddr a then (s.regWrite (.thread c t) a y.val []).storeGone c t i.val
      else (s.storeN a y.size y.val.toNat).storeGone c t i.val)

/-! ### REG_WRITE (R357) -/

/-- The session may write this register. -/
def State.sessWrites (s : State) (i : Fin 64) (a : Nat) : Bool :=
  match regionOf a with
  | .coreReg c _ _ => s.mayControl (.session i) c
  | .modReg b _ =>
    (s.sess i).maint || match toFin? 16 (b - 0x10) with
      | some p => 0x10 ≤ b && (s.sess i).pmask.getLsbD p.val
      | none => false
  | _ => false

/-- The REG_WRITE ends with the request that it makes: MOD_FNCTL, and PWR_CTL with SHUTDOWN set (R381, R440). -/
def endsLater (a : Nat) (v : Word) : Bool := a = regBase + 0x108 || (a = regBase + 0x10030 && one v 0)

/-- REG_WRITE; after its session has closed the rights are gone, and nothing is written. -/
def execRegWrite (h : BitVec 32) (s : State) : Host.Outcome State Fault Refusal :=
  .next (s.withCmd h 0x41 fun s c =>
    let a := entryN c.args 16 8
    let v := BitVec.ofNat 64 (entryN c.args 24 8)
    if s.orphaned c then s.endCmd h stViolation 0
    else if (s.regAt a).isNone || !s.sessWrites c.sess a then s.cmdViolation c
    else if endsLater a v then s.regWrite (.session c.sess) a v [h]
    else (s.regWrite (.session c.sess) a v []).endCmd h stDone 0)

end Sys2Proof.Machine
end

