-- ==== Sys2Proof/Machine/Dispatch.lean ====
section
/-! DEFINITION. The dispatch: one arm per command, each one call of its meaning. -/

namespace Sys2Proof.Machine

def exec (i : Instr) (s : State) : Host.Outcome State Fault Refusal :=
  match i with
  | .alu c t w => Sys2Proof.Machine.execAlu c t w s
  | .addi c t w => Sys2Proof.Machine.execAddi c t w s
  | .andi c t w => Sys2Proof.Machine.execAndi c t w s
  | .ori c t w => Sys2Proof.Machine.execOri c t w s
  | .xori c t w => Sys2Proof.Machine.execXori c t w s
  | .shli c t w => Sys2Proof.Machine.execShli c t w s
  | .shri c t w => Sys2Proof.Machine.execShri c t w s
  | .srai c t w => Sys2Proof.Machine.execSrai c t w s
  | .cmp c t w => Sys2Proof.Machine.execCmp c t w s
  | .cmpi c t w => Sys2Proof.Machine.execCmpi c t w s
  | .plog c t w => Sys2Proof.Machine.execPlog c t w s
  | .movk c t w => Sys2Proof.Machine.execMovk c t w s
  | .movs c t w => Sys2Proof.Machine.execMovs c t w s
  | .br c t w => Sys2Proof.Machine.execBr c t w s
  | .call c t w => Sys2Proof.Machine.execCall c t w s
  | .jr c t w => Sys2Proof.Machine.execJr c t w s
  | .ldb c t w => Sys2Proof.Machine.execLdb c t w s
  | .ldh c t w => Sys2Proof.Machine.execLdh c t w s
  | .ldw c t w => Sys2Proof.Machine.execLdw c t w s
  | .ldd c t w => Sys2Proof.Machine.execLdd c t w s
  | .ldws c t w => Sys2Proof.Machine.execLdws c t w s
  | .stb c t w => Sys2Proof.Machine.execStb c t w s
  | .sth c t w => Sys2Proof.Machine.execSth c t w s
  | .stw c t w => Sys2Proof.Machine.execStw c t w s
  | .std c t w => Sys2Proof.Machine.execStd c t w s
  | .fence c t w => Sys2Proof.Machine.execFence c t w s
  | .amo64 c t w => Sys2Proof.Machine.execAmo64 c t w s
  | .amo32 c t w => Sys2Proof.Machine.execAmo32 c t w s
  | .amof c t w => Sys2Proof.Machine.execAmof c t w s
  | .semAcquire c t w => Sys2Proof.Machine.execSemAcquire c t w s
  | .semRelease c t w => Sys2Proof.Machine.execSemRelease c t w s
  | .tiss c t w bad => Sys2Proof.Machine.execTiss c t w bad s
  | .twait c t w => Sys2Proof.Machine.execTwait c t w s
  | .tpoll c t w => Sys2Proof.Machine.execTpoll c t w s
  | .halt c t w => Sys2Proof.Machine.execHalt c t w s
  | .yield c t w => Sys2Proof.Machine.execYield c t w s
  | .rdcyc c t w => Sys2Proof.Machine.execRdcyc c t w s
  | .rdid c t w => Sys2Proof.Machine.execRdid c t w s
  | .rdpart c t w => Sys2Proof.Machine.execRdpart c t w s
  | .loadDataReturn c t bad => Sys2Proof.Machine.execLoadDataReturn c t bad s
  | .storePerformed c t n => Sys2Proof.Machine.execStorePerformed c t n s
  | .thrCtlStart m c t => Sys2Proof.Machine.execThrCtlStart m c t s
  | .thrCtlReset m c t => Sys2Proof.Machine.execThrCtlReset m c t s
  | .registerWrite m a v => Sys2Proof.Machine.execRegisterWrite m a v s
  | .tileOperationPrepare c => Sys2Proof.Machine.execTileOperationPrepare c s
  | .opComplete c ticket => Sys2Proof.Machine.execOpComplete c ticket s
  | .nop c => Sys2Proof.Machine.execNop c s
  | .copy c bad => Sys2Proof.Machine.execCopy c bad s
  | .fill c => Sys2Proof.Machine.execFill c s
  | .matmul c bad => Sys2Proof.Machine.execMatmul c bad s
  | .passEnter c => Sys2Proof.Machine.execPassEnter c s
  | .passLand c bad => Sys2Proof.Machine.execPassLand c bad s
  | .arrayParityError c col row pass => Sys2Proof.Machine.execArrayParityError c col row pass s
  | .bankDrainStart c b => Sys2Proof.Machine.execBankDrainStart c b s
  | .bankDrainEnd c b => Sys2Proof.Machine.execBankDrainEnd c b s
  | .rngReseed c ok => Sys2Proof.Machine.execRngReseed c ok s
  | .scan c bad => Sys2Proof.Machine.execScan c bad s
  | .gated c bad => Sys2Proof.Machine.execGated c bad s
  | .update c bad => Sys2Proof.Machine.execUpdate c bad s
  | .strOpen c bad => Sys2Proof.Machine.execStrOpen c bad s
  | .strClose c bad => Sys2Proof.Machine.execStrClose c bad s
  | .strFork c bad => Sys2Proof.Machine.execStrFork c bad s
  | .swapOut c bad => Sys2Proof.Machine.execSwapOut c bad s
  | .swapIn c bad => Sys2Proof.Machine.execSwapIn c bad s
  | .strWrite c bad => Sys2Proof.Machine.execStrWrite c bad s
  | .strRead c bad => Sys2Proof.Machine.execStrRead c bad s
  | .deferredEntryPart c bad => Sys2Proof.Machine.execDeferredEntryPart c bad s
  | .lastSliceCopiedOut c bad => Sys2Proof.Machine.execLastSliceCopiedOut c bad s
  | .lastSliceCopiedIn c bad => Sys2Proof.Machine.execLastSliceCopiedIn c bad s
  | .attend c bad => Sys2Proof.Machine.execAttend c bad s
  | .append c bad => Sys2Proof.Machine.execAppend c bad s
  | .combine c bad => Sys2Proof.Machine.execCombine c bad s
  | .kvOpen c bad => Sys2Proof.Machine.execKvOpen c bad s
  | .kvClose c bad => Sys2Proof.Machine.execKvClose c bad s
  | .kvFork c bad => Sys2Proof.Machine.execKvFork c bad s
  | .kvFlush c bad => Sys2Proof.Machine.execKvFlush c bad s
  | .kvRing c bad => Sys2Proof.Machine.execKvRing c bad s
  | .kvRingArrival a => Sys2Proof.Machine.execKvRingArrival a s
  | .conv c bad => Sys2Proof.Machine.execConv c bad s
  | .convT c bad => Sys2Proof.Machine.execConvT c bad s
  | .pool c bad => Sys2Proof.Machine.execPool c bad s
  | .fused c bad => Sys2Proof.Machine.execFused c bad s
  | .bandWordPoll c bad => Sys2Proof.Machine.execBandWordPoll c bad s
  | .rdonePoll c => Sys2Proof.Machine.execRdonePoll c s
  | .matmulDx c bad => Sys2Proof.Machine.execMatmulDx c bad s
  | .matmulDw c bad => Sys2Proof.Machine.execMatmulDw c bad s
  | .convDx c bad => Sys2Proof.Machine.execConvDx c bad s
  | .convDw c bad => Sys2Proof.Machine.execConvDw c bad s
  | .stash c bad => Sys2Proof.Machine.execStash c bad s
  | .shardGet c bad => Sys2Proof.Machine.execShardGet c bad s
  | .shardPublish c bad => Sys2Proof.Machine.execShardPublish c bad s
  | .shardPublishResume c ticket bad => Sys2Proof.Machine.execShardPublishResume c ticket bad s
  | .objCreate c => Sys2Proof.Machine.execObjCreate c s
  | .objPromote c => Sys2Proof.Machine.execObjPromote c s
  | .objEvict c bad => Sys2Proof.Machine.execObjEvict c bad s
  | .objPin c => Sys2Proof.Machine.execObjPin c s
  | .objWriteback c bad fails => Sys2Proof.Machine.execObjWriteback c bad fails s
  | .objDelete c => Sys2Proof.Machine.execObjDelete c s
  | .objQuery c bad => Sys2Proof.Machine.execObjQuery c bad s
  | .moveUpDone id pages bad => Sys2Proof.Machine.execMoveUpDone id pages bad s
  | .moveDownDone id pages bad fails => Sys2Proof.Machine.execMoveDownDone id pages bad fails s
  | .patrolPass pages fails => Sys2Proof.Machine.execPatrolPass pages fails s
  | .prefetch c => Sys2Proof.Machine.execPrefetch c s
  | .prefetchProgressPoll c ticket bad => Sys2Proof.Machine.execPrefetchProgressPoll c ticket bad s
  | .prefetchEntryDone c ticket n => Sys2Proof.Machine.execPrefetchEntryDone c ticket n s
  | .memred c bad => Sys2Proof.Machine.execMemred c bad s
  | .tumblerClaim c bad => Sys2Proof.Machine.execTumblerClaim c bad s
  | .claimWaitEnd c ticket bad => Sys2Proof.Machine.execClaimWaitEnd c ticket bad s
  | .claimCopy c bad => Sys2Proof.Machine.execClaimCopy c bad s
  | .tumblerReset c bad => Sys2Proof.Machine.execTumblerReset c bad s
  | .allgather c bad => Sys2Proof.Machine.execAllgather c bad s
  | .reduceScatter c bad => Sys2Proof.Machine.execReduceScatter c bad s
  | .allreduce c bad => Sys2Proof.Machine.execAllreduce c bad s
  | .collectiveWaitPoll c ticket bad => Sys2Proof.Machine.execCollectiveWaitPoll c ticket bad s
  | .alltoallDispatch c bad => Sys2Proof.Machine.execAlltoallDispatch c bad s
  | .alltoallReturn c bad => Sys2Proof.Machine.execAlltoallReturn c bad s
  | .shardGather c bad => Sys2Proof.Machine.execShardGather c bad s
  | .waitWord c => Sys2Proof.Machine.execWaitWord c s
  | .waitWordPoll c ticket bad => Sys2Proof.Machine.execWaitWordPoll c ticket bad s
  | .channelRetrainEnd ch ok => Sys2Proof.Machine.execChannelRetrainEnd ch ok s
  | .evacuationEnd bad => Sys2Proof.Machine.execEvacuationEnd bad s
  | .nearTgCtlStart m ch => Sys2Proof.Machine.execNearTgCtlStart m ch s
  | .nearTgCtlStop m ch => Sys2Proof.Machine.execNearTgCtlStop m ch s
  | .tgRunEnd ch checked failing => Sys2Proof.Machine.execTgRunEnd ch checked failing s
  | .farPortRetire p => Sys2Proof.Machine.execFarPortRetire p s
  | .dataFlitReceive l f => Sys2Proof.Machine.execDataFlitReceive l f s
  | .idleFlitReceive l f => Sys2Proof.Machine.execIdleFlitReceive l f s
  | .retryFlitReceive l f => Sys2Proof.Machine.execRetryFlitReceive l f s
  | .trainFlitReceive l n => Sys2Proof.Machine.execTrainFlitReceive l n s
  | .linkTrainingDone l => Sys2Proof.Machine.execLinkTrainingDone l s
  | .linkTrainingFail l => Sys2Proof.Machine.execLinkTrainingFail l s
  | .failoverReturn l => Sys2Proof.Machine.execFailoverReturn l s
  | .fabRead n bad => Sys2Proof.Machine.execFabRead n bad s
  | .fabWrite n => Sys2Proof.Machine.execFabWrite n s
  | .fabAmo n bad => Sys2Proof.Machine.execFabAmo n bad s
  | .bwrite n => Sys2Proof.Machine.execBwrite n s
  | .badd n bad => Sys2Proof.Machine.execBadd n bad s
  | .rdata n => Sys2Proof.Machine.execRdata n s
  | .fabAck n => Sys2Proof.Machine.execFabAck n s
  | .nack n => Sys2Proof.Machine.execNack n s
  | .fabHasp n => Sys2Proof.Machine.execFabHasp n s
  | .fabHaspAck n => Sys2Proof.Machine.execFabHaspAck n s
  | .imageLoad h => Sys2Proof.Machine.execImageLoad h s
  | .waitingLoadStart => Sys2Proof.Machine.execWaitingLoadStart s
  | .loadDrainTimeout p => Sys2Proof.Machine.execLoadDrainTimeout p s
  | .partialLoadApply => Sys2Proof.Machine.execPartialLoadApply s
  | .partEnd m p v => Sys2Proof.Machine.execPartEnd m p v s
  | .quiesceDone p bad => Sys2Proof.Machine.execQuiesceDone p bad s
  | .boundaryStage p bad => Sys2Proof.Machine.execBoundaryStage p bad s
  | .watchdogOverrun p => Sys2Proof.Machine.execWatchdogOverrun p s
  | .leaseExpiry p slot => Sys2Proof.Machine.execLeaseExpiry p slot s
  | .leaseWaitEnd p => Sys2Proof.Machine.execLeaseWaitEnd p s
  | .arpRequest port mac ip4 => Sys2Proof.Machine.execArpRequest port mac ip4 s
  | .neighbourSolicitation port mac ip6 => Sys2Proof.Machine.execNeighbourSolicitation port mac ip6 s
  | .echoRequest port mac src dst data => Sys2Proof.Machine.execEchoRequest port mac src dst data s
  | .pfcFrame port bulk pause => Sys2Proof.Machine.execPfcFrame port bulk pause s
  | .otherFrame port => Sys2Proof.Machine.execOtherFrame port s
  | .setupHello p => Sys2Proof.Machine.execSetupHello p s
  | .setupFinish p => Sys2Proof.Machine.execSetupFinish p s
  | .setupTimeout sid => Sys2Proof.Machine.execSetupTimeout sid s
  | .control p => Sys2Proof.Machine.execControl p s
  | .ack p => Sys2Proof.Machine.execAck p s
  | .data p => Sys2Proof.Machine.execData p s
  | .retransmitTimeout sid bulk => Sys2Proof.Machine.execRetransmitTimeout sid bulk s
  | .sessionIdleTimeout sid => Sys2Proof.Machine.execSessionIdleTimeout sid s
  | .haspStop p => Sys2Proof.Machine.execHaspStop p s
  | .haspRelease p => Sys2Proof.Machine.execHaspRelease p s
  | .holdNAssert n => Sys2Proof.Machine.execHoldNAssert n s
  | .holdNDeassert n => Sys2Proof.Machine.execHoldNDeassert n s
  | .fctNop h => Sys2Proof.Machine.execFctNop h s
  | .query h => Sys2Proof.Machine.execQuery h s
  | .fctClose sid => Sys2Proof.Machine.execFctClose sid s
  | .issue h => Sys2Proof.Machine.execIssue h s
  | .fctWrite h => Sys2Proof.Machine.execFctWrite h s
  | .fctRead h bad => Sys2Proof.Machine.execFctRead h bad s
  | .firmwareLoad h selfTest => Sys2Proof.Machine.execFirmwareLoad h selfTest s
  | .regRead h => Sys2Proof.Machine.execRegRead h s
  | .regWrite h => Sys2Proof.Machine.execRegWrite h s
  | .getIdentity h => Sys2Proof.Machine.execGetIdentity h s
  | .attest h => Sys2Proof.Machine.execAttest h s
  | .getKeyring h => Sys2Proof.Machine.execGetKeyring h s
  | .ownerFuse h fuseOk => Sys2Proof.Machine.execOwnerFuse h fuseOk s
  | .keyringInstall h => Sys2Proof.Machine.execKeyringInstall h s
  | .keyringRotate h fuseOk => Sys2Proof.Machine.execKeyringRotate h fuseOk s
  | .debugChallenge h => Sys2Proof.Machine.execDebugChallenge h s
  | .debugUnlock h => Sys2Proof.Machine.execDebugUnlock h s
  | .debugDisable h fuseOk => Sys2Proof.Machine.execDebugDisable h fuseOk s
  | .provisioningRestart => Sys2Proof.Machine.execProvisioningRestart s
  | .coreRetire c slot => Sys2Proof.Machine.execCoreRetire c slot s
  | .ethLinkLoss port => Sys2Proof.Machine.execEthLinkLoss port s
  | .lockstepMismatch pair => Sys2Proof.Machine.execLockstepMismatch pair s
  | .takeoverEnd => Sys2Proof.Machine.execTakeoverEnd s
  | .enable m fn => Sys2Proof.Machine.execEnable m fn s
  | .disable m fn => Sys2Proof.Machine.execDisable m fn s
  | .fnStartFinished fn up cap => Sys2Proof.Machine.execFnStartFinished fn up cap s
  | .fnStopFinished fn => Sys2Proof.Machine.execFnStopFinished fn s
  | .partReleaseThread m p c t => Sys2Proof.Machine.execPartReleaseThread m p c t s
  | .partReleaseComputeList m p c => Sys2Proof.Machine.execPartReleaseComputeList m p c s
  | .partReleaseMoveList m p c => Sys2Proof.Machine.execPartReleaseMoveList m p c s
  | .partReleaseCore m p c => Sys2Proof.Machine.execPartReleaseCore m p c s
  | .modReleaseSession m sid => Sys2Proof.Machine.execModReleaseSession m sid s
  | .modReleaseRemoteModule m module p => Sys2Proof.Machine.execModReleaseRemoteModule m module p s
  | .ledgerSlotWrite slot mismatches => Sys2Proof.Machine.execLedgerSlotWrite slot mismatches s
  | .inputPowerGood => Sys2Proof.Machine.execInputPowerGood s
  | .undervoltage => Sys2Proof.Machine.execUndervoltage s
  | .overcurrent => Sys2Proof.Machine.execOvercurrent s
  | .overvoltage => Sys2Proof.Machine.execOvervoltage s
  | .thermalShutdown => Sys2Proof.Machine.execThermalShutdown s
  | .latchedStopClear => Sys2Proof.Machine.execLatchedStopClear s
  | .resetNLow => Sys2Proof.Machine.execResetNLow s
  | .resetNHigh => Sys2Proof.Machine.execResetNHigh s
  | .startUp e => Sys2Proof.Machine.execStartUp e s
  | .governorWindow pin vin => Sys2Proof.Machine.execGovernorWindow pin vin s
  | .nearRateStepEnd => Sys2Proof.Machine.execNearRateStepEnd s
  | .thermalWarning die temp => Sys2Proof.Machine.execThermalWarning die temp s
  | .thermalClear die temp => Sys2Proof.Machine.execThermalClear die temp s
  | .pwrCap m v => Sys2Proof.Machine.execPwrCap m v s
  | .shutdown m => Sys2Proof.Machine.execShutdown m s
  | .shutdownComplete => Sys2Proof.Machine.execShutdownComplete s
  | .ethLinkUp port cr2 => Sys2Proof.Machine.execEthLinkUp port cr2 s
  | .farLinkLoss p retrains => Sys2Proof.Machine.execFarLinkLoss p retrains s
  | .railOutOfRange => Sys2Proof.Machine.execRailOutOfRange s
  | .pfcPauseExpiry port => Sys2Proof.Machine.execPfcPauseExpiry port s
  | .granuleCopyPerformed g bad => Sys2Proof.Machine.execGranuleCopyPerformed g bad s
  | .slowMaintenanceOperation ch fails => Sys2Proof.Machine.execSlowMaintenanceOperation ch fails s

end Sys2Proof.Machine
end

