-- ==== Sys2Proof/Safety.lean ====
section
/-! DEFINITION. The terms in which statements speak of safe states, of what a command leaves, and of what a step keeps. -/

namespace Sys2Proof

/-- The core, the thread and the word of a thread instruction. -/
def Instr.ofThread : Instr → Option (CoreId × ThreadId × IWord)
  | .alu c t w | .addi c t w | .andi c t w | .ori c t w | .xori c t w | .shli c t w | .shri c t w | .srai c t w
  | .cmp c t w | .cmpi c t w | .plog c t w | .movk c t w | .movs c t w | .br c t w | .call c t w | .jr c t w
  | .ldb c t w | .ldh c t w | .ldw c t w | .ldd c t w | .ldws c t w | .stb c t w | .sth c t w | .stw c t w | .std c t w
  | .fence c t w | .amo64 c t w | .amo32 c t w | .amof c t w | .semAcquire c t w | .semRelease c t w | .tiss c t w _
  | .twait c t w | .tpoll c t w | .halt c t w | .yield c t w | .rdcyc c t w | .rdid c t w | .rdpart c t w => some (c, t, w)
  | _ => none

/-- Bits [31:26] of the word are this code. -/
def IWord.maj (w : IWord) (code : Nat) : Bool := decide (w.word.toNat / 2 ^ 26 = code)

/-- The word of a thread instruction encodes that instruction: its major opcode is R37's, its function codes are not
reserved, and the fields that R37 says are zero are zero (R38). -/
def Instr.spelled : Instr → Bool
  | .alu _ _ w => w.maj 0x01 && decide (w.word.toNat % 16 < 14)
  | .addi _ _ w => w.maj 0x02
  | .andi _ _ w => w.maj 0x03
  | .ori _ _ w => w.maj 0x04
  | .xori _ _ w => w.maj 0x05
  | .shli _ _ w => w.maj 0x06 && decide (w.word.toNat / 64 % 16 = 0)
  | .shri _ _ w => w.maj 0x07 && decide (w.word.toNat / 64 % 16 = 0)
  | .srai _ _ w => w.maj 0x08 && decide (w.word.toNat / 64 % 16 = 0)
  | .cmp _ _ w => w.maj 0x09 && decide (w.word.toNat % 16 < 7) && decide (w.word.toNat / 2 ^ 19 % 8 = 0)
  | .cmpi _ _ w => w.maj 0x0A && decide (w.word.toNat / 2 ^ 16 % 8 < 6)
  | .plog _ _ w => w.maj 0x0B && decide (w.word.toNat % 2 ^ 11 = 0)
  | .movk _ _ w => w.maj 0x0C || w.maj 0x0D || w.maj 0x0E || w.maj 0x0F
  | .movs _ _ w => w.maj 0x10
  | .br _ _ w => w.maj 0x11
  | .call _ _ w => w.maj 0x12
  | .jr _ _ w => w.maj 0x13 && decide (w.word.toNat / 2 ^ 16 % 64 = 0) && decide (w.word.toNat % 1024 = 0)
  | .ldb _ _ w => w.maj 0x18
  | .ldh _ _ w => w.maj 0x19
  | .ldw _ _ w => w.maj 0x1A
  | .ldd _ _ w => w.maj 0x1B
  | .ldws _ _ w => w.maj 0x1C
  | .stb _ _ w => w.maj 0x20
  | .sth _ _ w => w.maj 0x21
  | .stw _ _ w => w.maj 0x22
  | .std _ _ w => w.maj 0x23
  | .fence _ _ w => w.maj 0x28 && decide (w.word.toNat / 4 % 2 ^ 20 = 0)
  | .amo64 _ _ w => w.maj 0x29
  | .amo32 _ _ w => w.maj 0x2A
  | .amof _ _ w => w.maj 0x2B && decide (w.word.toNat % 4 < 2)
  | .semAcquire _ _ w => w.maj 0x2C && decide (w.word.toNat % 2 = 0)
  | .semRelease _ _ w => w.maj 0x2C && decide (w.word.toNat % 2 = 1)
  | .tiss _ _ w _ => w.maj 0x30 && decide (w.word.toNat % 1024 = 0)
  | .twait _ _ w => w.maj 0x31 && decide (w.word.toNat / 128 % 512 = 0)
  | .tpoll _ _ w => w.maj 0x32 && decide (w.word.toNat / 1024 % 64 = 0)
  | .halt _ _ w => w.maj 0x38 && decide (w.word.toNat % 16 = 0)
  | .yield _ _ w => w.maj 0x38 && decide (w.word.toNat % 16 = 1)
  | .rdcyc _ _ w => w.maj 0x38 && decide (w.word.toNat % 16 = 2)
  | .rdid _ _ w => w.maj 0x38 && decide (w.word.toNat % 16 = 3)
  | .rdpart _ _ w => w.maj 0x38 && decide (w.word.toNat % 16 = 4)
  | _ => false

/-- The word of a thread instruction encodes no instruction at all (R37, R38). -/
def IWord.reserved (w : IWord) : Prop := ∀ i : Instr, (∃ c t, i.ofThread = some (c, t, w)) → i.spelled = false

end Sys2Proof

namespace Sys2Proof.Machine

/-- The command answers this next state. -/
def Answers (i : Instr) (s t : State) : Prop := exec i s = .next t

/-! ### What every step keeps -/

/-- The memory is in its canonical form (notes/assumptions/1.md). -/
def State.memOk (s : State) : Prop := Memory.wf s.mem = true

/-- A programmed fuse stays programmed (R400, R402, R413): OWNER_LOCK and DBG_DISABLE stay set, OWNER_HASH no longer
changes once it is locked, and the bits of RING_VER only become set. -/
def FusesKept (s t : State) : Prop :=
  (s.sec.ownerLock = true → t.sec.ownerLock = true ∧ t.sec.ownerHash = s.sec.ownerHash) ∧
  (s.sec.dbgDisable = true → t.sec.dbgDisable = true) ∧ s.sec.ringVer.toNat ≤ t.sec.ringVer.toNat

/-- From s to t the memory keeps its canonical form, the queue is the same, and no fuse is undone. -/
def Kept (s t : State) : Prop := (s.memOk → t.memOk) ∧ t.pending = s.pending ∧ FusesKept s t

/-! ### Threads -/

/-- The word at the thread's program counter is readable: its fetch reports nothing, and its sector is not held as lost
(R35, R229). -/
def State.fetched (s : State) (c : CoreId) (t : ThreadId) (w : IWord) : Bool :=
  !w.lost && (s.uncorrectable [] (slotOf c + 4 * (s.thread c t).pc.toNat) 4).isNone

/-- Thread t of core c issues the word w, and the instruction in it is executed: the thread is READY, the core is not frozen,
the word is readable, and the guard is met (R31, R35, R36, R376). -/
def State.runs (s : State) (c : CoreId) (t : ThreadId) (w : IWord) : Bool :=
  (s.thread c t).st == .ready && !(s.core c).reg.frzCore && s.fetched c t w && (s.thread c t).guard w

/-- As `runs`, and another word of the core store follows the instruction (R35). -/
def State.runsOn (s : State) (c : CoreId) (t : ThreadId) (w : IWord) : Bool :=
  s.runs c t w && (s.thread c t).pc != 0xFFFFF

/-- The state once an instruction of thread t of core c has left the thread as x: the rotation of R33 remembers t, and
nothing else has changed. -/
def State.issued (s : State) (c : CoreId) (t : ThreadId) (x : Thread) : State :=
  s.setCore c { s.core c with lastThread := t, threads := vset (s.core c).threads t x }

/-- The thread at its next instruction. -/
def Thread.next (x : Thread) : Thread := { x with pc := x.pc + 1, yielded := false }

/-- The thread, still at its instruction, in another state (R31). -/
def Thread.wait (x : Thread) (st : TState) : Thread := { x with st := st, yielded := false }

/-- The thread frozen by a violation of this cause and address (R31): every register is kept. -/
def Thread.frozenBy (x : Thread) (cause : Byte) (addr : Nat) : Thread :=
  { x with st := .frozen, resetPend := false, acc := none, held := none, yielded := false,
           fault := { valid := true, cause := cause, addr := BitVec.ofNat 46 addr } }

/-- The state once an instruction has frozen its thread: besides the thread only sessions and ports change, which carry
the FROZEN notice (R31, R361). -/
def Froze (s u : State) (c : CoreId) (t : ThreadId) (cause : Byte) (addr : Nat) : Prop :=
  u = { s.issued c t ((s.thread c t).frozenBy cause addr) with fct := u.fct }

/-- The instruction i, of thread t of core c with the word w, writes v to rd and goes on (a write to g0 is discarded,
R30); every other register, the predicates, memory and every other thread are unchanged. -/
def WritesRd (i : Instr) (c : CoreId) (t : ThreadId) (w : IWord) (v : State → Word) : Prop :=
  i.spelled = true → ∀ s : State, s.runsOn c t w = true →
    exec i s = .next (s.issued c t ((s.thread c t).next.setReg (wRd w) (v s)))

/-- The instruction writes v to predicate pd and goes on (a write to p0 is discarded, R30); all else is unchanged. -/
def WritesPd (i : Instr) (c : CoreId) (t : ThreadId) (w : IWord) (pd : Nat) (v : State → Bool) : Prop :=
  i.spelled = true → ∀ s : State, s.runsOn c t w = true →
    exec i s = .next (s.issued c t ((s.thread c t).next.setPred pd (v s)))

/-- Registers ra and rb of the issuing thread. -/
def State.ra (s : State) (c : CoreId) (t : ThreadId) (w : IWord) : Word := (s.thread c t).reg (wRa w)
def State.rb (s : State) (c : CoreId) (t : ThreadId) (w : IWord) : Word := (s.thread c t).reg (wRb w)

/-! ### Accesses of threads -/

/-- An access of n bytes at g by a thread of core c is one of this module's memory (no register), aligned, and allowed
(R22, R25, R39). -/
def State.dataAccess (s : State) (c : CoreId) (g : Word) (n : Nat) (wr : Bool) : Bool :=
  g.toNat % n == 0 && s.isLocal g.toNat && !isRegAddr (localPart g.toNat) &&
    match s.owner c with
    | some p => s.mayAccess p (localPart g.toNat) n wr
    | none => false

/-- The address of a load or store of n bytes: ra plus the immediate scaled by n (R36, R37). -/
def State.memOperand (s : State) (c : CoreId) (t : ThreadId) (w : IWord) (n : Nat) : Word :=
  s.ra c t w + (w.word.extractLsb' 0 10).signExtend 64 * BitVec.ofNat 64 n

/-- The i-th byte of a number, little-endian (R6). -/
def byteOf (v i : Nat) : Byte := BitVec.ofNat 8 (v / 256 ^ i)

/-- Every byte from a on, n of them, holds the little-endian number v, and every other byte of memory is as in s. -/
def Stores (s u : State) (a n v : Nat) : Prop :=
  (∀ i, i < n → memGet u.mem (a + i) = byteOf v i) ∧ (∀ x, x < a ∨ a + n ≤ x → memGet u.mem x = memGet s.mem x)

/-- The range lies outside the module areas, whose object table is in the near tier, and no resident copy of an object
overlaps it, so that a write there marks nothing dirty (R249, R300). -/
def State.noCopy (s : State) (a n : Nat) : Bool :=
  (firstInside s.moduleRanges a n).isNone && inNear s.tier.objBase.toNat (128 * s.tier.objCount.toNat) &&
  (List.range s.tier.objCount.toNat).all fun slot =>
    match s.objCopy slot with
    | some (b, len) => decide (a + n ≤ b) || decide (b + len ≤ a)
    | none => true

/-- A thread waits for an access of this module's memory that no store of its own holds back, on a core that is not
frozen, with no reset pending and another instruction to follow (R31, R58, R60). -/
def State.accReady (s : State) (c : CoreId) (t : ThreadId) (a : Acc) : Bool :=
  (s.thread c t).st == .waitMem && (s.thread c t).acc == some a && s.isLocal a.addr.toNat && !(s.thread c t).accWaits a &&
    !(s.thread c t).resetPend && !(s.core c).reg.frzCore && (s.thread c t).pc != 0xFFFFF

/-- The thread once its access has returned: READY at the next instruction (R31). -/
def Thread.returned (x : Thread) : Thread := { x with st := .ready, acc := none, pc := x.pc + 1 }

/-! ### Operations -/

/-- Operation o stands at the head of its list on core c and starts now with the descriptor d, its bounds filled in from its
bounds record where it has one: it passed the checks at issue, its wait is met with a success, and its partition is not
stopped (R45, R47, R48, R51, R53, R366). -/
def State.begins (s : State) (c : CoreId) (bad : BadSectors) (o : Op) (d : Desc) : Bool :=
  (s.core c).startable (dOpc o.desc) == some o && !o.bad && !isFailure o.depSt && (!s.coreStopped c || o.boundary) &&
    s.boundsOf c bad o.desc == (none, d)

/-- The operation with this ticket on core c has its status st and result words r (R49 completes it). -/
def State.Ended (u : State) (c : CoreId) (ticket : BitVec 32) (st : Status) (r : BitVec 128) : Prop :=
  ∃ o, u.findOp c ticket = some o ∧ o.phase = .finished st ∧ o.result = r

/-- The operation with this ticket runs and holds this work. -/
def State.Works (u : State) (c : CoreId) (ticket : BitVec 32) (w : Work) : Prop :=
  ∃ o, u.findOp c ticket = some o ∧ o.phase = .running ∧ o.work = w

/-- The operation's slot once it has its status. -/
def Op.ended (o : Op) (st : Status) (r : BitVec 128) : Op :=
  { o with phase := .finished st, result := r, work := o.work.kept, tags := [], xfers := [] }

/-- The state once the operation of a ticket has its status, and nothing else has changed. -/
def State.ends (s : State) (c : CoreId) (ticket : BitVec 32) (st : Status) (r : BitVec 128) : State :=
  s.modOp c ticket fun o => o.ended st r

/-- As `ends`, of an operation that started with its bounds filled in as d (R51). -/
def State.endsAs (s : State) (c : CoreId) (ticket : BitVec 32) (d : Desc) (st : Status) (r : BitVec 128) : State :=
  s.modOp c ticket fun o => { o.ended st r with desc := d }

/-- A violation of an operation (R384): its list is frozen, it stays in its slot, and memory is unchanged. -/
def HeldByViolation (s u : State) (c : CoreId) (o : Op) : Prop :=
  u.mem = s.mem ∧ (∃ x, u.findOp c o.ticket = some x ∧ x.phase = .heldBy) ∧
    (if o.move then (u.core c).reg.frzMlist = true else (u.core c).reg.frzClist = true)

/-- Every byte outside the range is as in s. -/
def SameOutside (s u : State) (a n : Nat) : Prop := ∀ x, x < a ∨ a + n ≤ x → memGet u.mem x = memGet s.mem x

/-- The range is readable data and may be written without marking an object dirty: nothing in it is uncorrectable, no part
of it lies on a lost channel or port, and no object's resident copy overlaps it. -/
def State.plainData (s : State) (a n : Nat) : Bool :=
  (s.uncorrectable [] a n).isNone && ((List.range n).all fun i => !s.deadAt (a + i)) && s.noCopy a n

/-- No data of the module is uncorrectable by anything the state holds (R229, R234, R237, R241). -/
def State.sound (s : State) : Prop := s.poisoned = [] ∧ s.anyDead = false

/-- The operation runs and holds this work, on a core that is not frozen and whose partition is not stopped (R366, R376). -/
def State.runsWith (s : State) (c : CoreId) (o : Op) (w : Work) : Prop :=
  s.findOp c o.ticket = some o ∧ o.phase = .running ∧ o.work = w ∧ (s.core c).reg.frzCore = false ∧
    (s.coreStopped c = false ∨ o.boundary = true)

/-! ### Messages (chapter 10) -/

/-- The message has been sent: it waits on a link or has left on it, on either virtual channel, or is for this module. -/
def State.sent (u : State) (m : Msg) : Prop :=
  (∃ x v, { m with vc := v } ∈ (u.link x).outq ∨ ∃ f, (x, f) ∈ u.fab.fabSent ∧ { m with vc := v } ∈ f.msgs) ∨
    ∃ x, (x, m) ∈ u.fab.fabIn

/-- A message for the module can leave, from this die and on no link's behalf (R274, R279). -/
def State.reaches (s : State) (dest : Nat) (die : Nat) : Prop := ∀ l, s.nextHop dest die none ≠ .unreachable l

/-! ### Objects (chapter 9) -/

/-- The object table and the dirty bitmaps lie in the near tier and apart. -/
def State.tablesApart (s : State) : Bool :=
  let a := s.tier.objBase.toNat
  let b := s.tier.dirtyBase.toNat
  let n := s.tier.objCount.toNat
  inNear a (128 * n) && inNear b (2048 * n) && !overlap a (128 * n) b (2048 * n)

/-- Memory is as in s outside the record and the dirty bitmap of an object slot. -/
def OnlySlot (s u : State) (slot : Nat) : Prop :=
  ∀ x, (x < s.objRec slot ∨ s.objRec slot + 128 ≤ x) → (x < s.dirtyMap slot ∨ s.dirtyMap slot + 2048 ≤ x) →
    memGet u.mem x = memGet s.mem x

/-! ### Host commands (chapter 13) -/

/-- The host command of handle h is accepted and not complete, its session is open, and no other has its handle (R354). -/
def State.accepted (s : State) (h : BitVec 32) (c : HCmd) : Prop :=
  s.findCmd h = some c ∧ (∃ x, s.findSlot h = some x ∧ x.st = .issued ∧ x.sess = c.sess) ∧ ∀ x ∈ s.fct.cmds, x.handle = h → x = c

/-- The command of handle h has completed with a status and result words: its slot is REPORTED, and its record is on its
session's CONTROL stream (R354, R358). -/
def State.reports (u : State) (c : HCmd) (st : Status) (r : BitVec 128) : Prop :=
  u.findCmd c.handle = none ∧ (∃ x, u.findSlot c.handle = some x ∧ x.st = .reported ∧ x.status = st) ∧
    ∃ q flags cyc, (q, [3, 0] ++ leBytes 2 36 ++ recordBytes c.handle st c.part flags r cyc) ∈ (u.sess c.sess).ctlOut

/-- The command is refused BAD_DESCRIPTOR with a cause in result byte 8 (R389, R421). -/
def State.refusedFor (u : State) (c : HCmd) (cause : Nat) : Prop := u.reports c stBadDesc (resultOf (leBytes 1 cause))

/-- The command returns these bytes: every DATA packet of them waits or has been sent on its session's BULK stream, and it
completes once they are acknowledged (R362, R363). -/
def State.returns (s u : State) (h : BitVec 32) (c : HCmd) (bs : List Byte) : Prop :=
  u.mem = s.mem ∧ u.findCmd h = some { c with running := true, sentAll := true } ∧
    ∀ x ∈ dataPackets h 0 (bs.length / 8192 + 1) bs,
      x ∈ (u.sess c.sess).bulkWait ∨ ∃ q, (q, x.2) ∈ (u.sess c.sess).bulkOut

/-- The packet is of this type, and its port takes it in (R338, R339, R342, R345, R380, R438). -/
def State.takesIn (s : State) (p : Pkt) (type : Byte) : Prop :=
  p.type = type ∧ s.portTakes p.port = true ∧ s.accepts p = true ∧ s.rep.takeover ≠ some p.port ∧ s.classOk p = true ∧ p.ver = 1

/-- The tag of the packet verifies for the session it names, which is open (R347). -/
def State.speaks (s : State) (p : Pkt) (i : Fin 64) : Prop :=
  s.findSess p.sid true = some i ∧ Config.kmac128 (s.sess i).h2m (headerOf p ++ p.payload) "FCT" = p.tag

/-- Every session that the notice concerns and that has fewer than 256 undelivered has it (R361). -/
def Told (s u : State) (n : Notice) : Prop :=
  ∀ i, (s.sess i).hears n.part = true → (s.sess i).notices.length < 256 → n ∈ (u.sess i).notices

/-- The HOLD_N pins are high and no partition is stopped (R364). -/
def State.unheld (s : State) : Prop := (∀ n, vget s.pwr.holdN n = true) ∧ ∀ p, (s.part p).src = 0

/-! ### Streams (chapter 5) -/

/-- No control operation is at work in the core's group. -/
def State.noCtl (s : State) (c : CoreId) : Prop := ∀ m ∈ s.members c, ∀ x ∈ (s.core m).ops, ∀ w, x.work ≠ .ctl w

/-- No chunk of the core's group holds a pin (R150). -/
def State.unpinned (s : State) (c : CoreId) : Prop :=
  ∀ m ∈ s.members c, (∀ x ∈ (s.core m).ops, isChunk x = false) ∧ (s.core m).sts.stsPins = []

/-- The control operation o of core c is the one in progress, with the work w. -/
def State.atCtl (s : State) (c : CoreId) (o : Op) (w : CtlWork) : Prop :=
  s.runsWith c o (.ctl w) ∧ ((s.core c).ops.find? fun x => x.phase == .running && match x.work with
    | .ctl _ => true
    | _ => false) = some o

/-- The result words of a control operation (R149). -/
def ctlWords (performed deferred : Nat) : BitVec 128 := resultOf (leBytes 4 performed ++ leBytes 4 deferred)

/-- The sum of a bank at a row's and a column's position in its tile. -/
def sumAt (b : Bank) (row col : Nat) : BitVec 32 := ((b.sums.getD row []).getD col 0)

/-- The output tiles of an array operation's descriptor (R79, R190, R195, R217, R220). -/
def State.tilesOf (s : State) (c : CoreId) (d : Desc) : List TileSpec :=
  let g := geoOf d
  let m := matOf d
  let w := (s.core c).width
  match dOpc d with
  | 0x10 => plainTiles w (if m.layout = 0 then w else m.tw) m.n 1024 (s.maskRows m.mask m.m) (kTiles m.k)
  | 0x50 => plainTiles w w m.k 1024 (s.maskRows m.mask m.m) (kTiles m.n)
  | 0x51 => s.dwTiles m w (Sys2Proof.Machine.groupOf d ((s.routeOf c d).getD 1))
  | 0x40 => (convTiles g.fwd w g.tw g.cout g.cin g.cinp [(List.range g.outPixels, g.tapGroups)]).1
  | 0x41 => (convTiles g.trans w g.tw g.cout g.cin g.cinp (phaseParts g (List.range g.outPixels) g.transPhase)).1
  | 0x52 => (convTiles g.back w w g.cin g.cout g.coutp (phaseParts g ((List.range g.inPixels).filter fun p =>
      let (t, y, x) := pixel g.ih g.iw p; !g.inBand t y x) g.backPhase)).1
  | 0x53 => (s.convDwTiles g w (Sys2Proof.Machine.groupOf d ((s.routeOf c d).getD 1))).1
  | _ => []

end Sys2Proof.Machine

namespace Sys2Proof

open Sys2Proof.Machine

/-- The commands that start an operation of an OPC as the head of its list, with the sectors reported uncorrectable. -/
def Instr.starts : Instr → Option (CoreId × Nat × BadSectors)
  | .nop c => some (c, 0x01, [])
  | .copy c b => some (c, 0x02, b)
  | .fill c => some (c, 0x03, [])
  | .matmul c b => some (c, 0x10, b)
  | .scan c b => some (c, 0x20, b)
  | .gated c b => some (c, 0x21, b)
  | .update c b => some (c, 0x22, b)
  | .attend c b => some (c, 0x30, b)
  | .append c b => some (c, 0x31, b)
  | .combine c b => some (c, 0x32, b)
  | .kvFork c b => some (c, 0x3A, b)
  | .kvFlush c b => some (c, 0x3B, b)
  | .conv c b => some (c, 0x40, b)
  | .convT c b => some (c, 0x41, b)
  | .pool c b => some (c, 0x42, b)
  | .fused c b => some (c, 0x43, b)
  | .matmulDx c b => some (c, 0x50, b)
  | .matmulDw c b => some (c, 0x51, b)
  | .convDx c b => some (c, 0x52, b)
  | .convDw c b => some (c, 0x53, b)
  | .stash c b => some (c, 0x58, b)
  | .shardPublish c b => some (c, 0x5C, b)
  | .shardGet c b => some (c, 0x5D, b)
  | .objCreate c => some (c, 0x60, [])
  | .objPromote c => some (c, 0x61, [])
  | .objEvict c b => some (c, 0x62, b)
  | .objPin c => some (c, 0x63, [])
  | .objWriteback c b [] => some (c, 0x64, b)
  | .objDelete c => some (c, 0x65, [])
  | .objQuery c b => some (c, 0x66, b)
  | .prefetch c => some (c, 0x67, [])
  | .memred c b => some (c, 0x68, b)
  | .tumblerClaim c b => some (c, 0x69, b)
  | .claimCopy c b => some (c, 0x6A, b)
  | .tumblerReset c b => some (c, 0x6B, b)
  | .allgather c b => some (c, 0x70, b)
  | .reduceScatter c b => some (c, 0x71, b)
  | .allreduce c b => some (c, 0x72, b)
  | .shardGather c b => some (c, 0x75, b)
  | .waitWord c => some (c, 0x7E, [])
  | _ => none

/-- What goes before the operation that could start: passes of earlier operations before an ATTEND's (R54, log 45), writes of
earlier array operations before a vector-unit operation's (R56), the part of a control entry before a chunk's slices (R150),
and an APPEND that waits before the next operation of its KV unit (R165). -/
def Instr.waitsFirst (i : Instr) (s : State) : Bool :=
  match i with
  | .scan c b => s.chunkHeld c 0x20 || s.drainFirst c 0x20 b chunkWrites
  | .gated c b => s.chunkHeld c 0x21 || s.drainFirst c 0x21 b chunkWrites
  | .update c b => s.chunkHeld c 0x22 || s.drainFirst c 0x22 b chunkWrites
  | .append c _ => (s.core c).kvBusy
  | .kvOpen c b => (s.core c).kvBusy || s.drainFirst c 0x38 b kvWrites
  | .kvClose c b => (s.core c).kvBusy || s.drainFirst c 0x39 b kvWrites
  | .kvFork c b => (s.core c).kvBusy || s.drainFirst c 0x3A b kvWrites
  | .kvFlush c b => (s.core c).kvBusy || s.drainFirst c 0x3B b kvWrites
  | .attend c b => (s.core c).passesFirst || s.drainFirst c 0x30 b (s.attWrites c)
  | .combine c b => s.drainFirst c 0x32 b (s.cmbWrites c)
  | .pool c b => s.drainFirst c 0x42 b (s.poolWrites c)
  | .stash c b => s.drainFirst c 0x58 b (s.stashWrites c)
  | _ => false

/-- The descriptor fails the checks of its array operation that are made at issue: all of them where its bounds are
IMMEDIATE, and under AT_ISSUE those that do not depend on the bounds record (R15, R77, R121). -/
def Instr.failsAtIssue (i : Instr) (s : State) (d : Desc) : Bool :=
  match i with
  | .matmul c _ => earlyBad 0 (s.matmulLegal c) d
  | .conv c _ => earlyBad (leastConv 1) (fun d => s.convLegal c d none) d
  | .convT c _ => earlyBad (leastConv 1) (fun d => s.convLegal c d none) d
  | .pool c _ => earlyBad (leastConv 0) (fun d => s.convLegal c d none) d
  | .matmulDx c _ => earlyBad 0 (s.dxLegal c) d
  | .matmulDw c _ => earlyBad 0 (s.dwLegal c) d
  | .convDx c _ => earlyBad (leastConv 1) (s.convDxLegal c) d
  | .convDw c _ => earlyBad (leastConv 0) (s.convDwLegal c) d
  | .stash c _ => earlyBad (2 ^ 32) (s.stashLegal c) d
  | _ => false

/-- As `State.begins`, of the command i: nothing goes before the operation, and it passes its own checks at issue. -/
def Instr.begins (i : Instr) (s : State) (c : CoreId) (bad : BadSectors) (o : Op) (d : Desc) : Bool :=
  s.begins c bad o d && !i.waitsFirst s && !i.failsAtIssue s o.desc

end Sys2Proof
end

