-- ==== Sys2Proof/Certificates/Slice0/Obligations.lean ====
section
/-! DEFINITION. The statements for the provers. -/

open Sys2Proof Sys2Proof.Machine

/-- R10, DESIGN CHOICE (notes/assumptions/3.md): a step performs the command at the front of the queue on the state with
the rest of the queue. -/
def Obligations.StepPerformsFront : Prop :=
  ∀ (i : Instr) (s : State), step { s with pending := i :: s.pending } = exec i s

/-- R10 and the opcode table: every command of the table, on every state, is answered with a next state: none faults and none
is refused. -/
def Obligations.EveryCommandIsAnswered : Prop := ∀ (i : Instr) (s : State), ∃ u, exec i s = .next u
/-! ### Threads (chapter 2) -/

/-- R30: the 32 threads of a core, each with a program counter, 64 registers of 64 bits and 8 predicates: g0 reads as zero and
p0 as true, and writes to them are discarded; a write of any other register or predicate is read back, and leaves every
other register, predicate and field of the thread as it was. -/
def Obligations.HardwiredRegisters : Prop :=
  (∀ (s : State) (c : CoreId), (s.core c).threads.toList.length = 32) ∧
  ∀ x : Thread,
    (x.g.toList.length = 64 ∧ x.reg 0 = 0 ∧ x.predicate 0 = true) ∧
    (∀ v : Word, x.setReg 0 v = x) ∧ (∀ b : Bool, x.setPred 0 b = x) ∧
    (∀ (r : BitVec 6) (v : Word), r ≠ 0 → (x.setReg r v).reg r = v ∧ (∀ q, q ≠ r → (x.setReg r v).reg q = x.reg q) ∧
      { x.setReg r v with g := x.g } = x) ∧
    (∀ (p : Nat) (b : Bool), 0 < p → p < 8 → (x.setPred p b).predicate p = b ∧
      (∀ q, q ≠ p → q < 8 → (x.setPred p b).predicate q = x.predicate q) ∧ { x.setPred p b with pred := x.pred } = x)

/-- R36, R37: the instructions with a register result write it to rd and go on; g0 stays zero (R30). The arithmetic is
written out by FN; the frame is the whole next state. Each is the one that its word's major opcode names (`Instr.spelled`).
R37: CMP, CMPI and PLOG write one predicate; p0 stays true (R30). -/
def Obligations.RegisterInstructionsWriteTheirResult : Prop :=
   (∀ (c : CoreId) (t : ThreadId) (w : IWord),
      (∀ f ∈ ([(0, fun a b => BitVec.ofNat 64 (a.toNat + b.toNat)),
               (1, fun a b => BitVec.ofInt 64 ((a.toNat : Int) - b.toNat)),
               (2, fun a b => a &&& b), (3, fun a b => a ||| b), (4, fun a b => a ^^^ b),
               (5, fun a b => BitVec.ofNat 64 (a.toNat * 2 ^ (b.toNat % 64))),
               (6, fun a b => BitVec.ofNat 64 (a.toNat / 2 ^ (b.toNat % 64))),
               (7, fun a b => BitVec.ofInt 64 (a.toInt / 2 ^ (b.toNat % 64))),
               (8, fun a b => BitVec.ofNat 64 (a.toNat * b.toNat)),
               (9, fun a b => BitVec.ofNat 64 (a.toNat * b.toNat / 2 ^ 64)),
               (10, fun a b => if a.toInt < b.toInt then a else b),
               (11, fun a b => if a.toInt < b.toInt then b else a),
               (12, fun a b => if a.toNat < b.toNat then a else b),
               (13, fun a b => if a.toNat < b.toNat then b else a)] : List (Nat × (Word → Word → Word))),
        w.word.toNat % 16 = f.1 → WritesRd (.alu c t w) c t w fun s => f.2 (s.ra c t w) (s.rb c t w)) ∧
      WritesRd (.addi c t w) c t w (fun s => s.ra c t w + (w.word.extractLsb' 0 10).signExtend 64) ∧
      WritesRd (.andi c t w) c t w (fun s => s.ra c t w &&& (w.word.extractLsb' 0 10).signExtend 64) ∧
      WritesRd (.ori c t w) c t w (fun s => s.ra c t w ||| (w.word.extractLsb' 0 10).signExtend 64) ∧
      WritesRd (.xori c t w) c t w (fun s => s.ra c t w ^^^ (w.word.extractLsb' 0 10).signExtend 64) ∧
      WritesRd (.shli c t w) c t w (fun s => BitVec.ofNat 64 ((s.ra c t w).toNat * 2 ^ (w.word.toNat % 64))) ∧
      WritesRd (.shri c t w) c t w (fun s => BitVec.ofNat 64 ((s.ra c t w).toNat / 2 ^ (w.word.toNat % 64))) ∧
      WritesRd (.srai c t w) c t w (fun s => BitVec.ofInt 64 ((s.ra c t w).toInt / 2 ^ (w.word.toNat % 64))) ∧
      (∀ h : Fin 4, w.maj (0x0C + h.val) = true → WritesRd (.movk c t w) c t w fun s =>
        let v := (s.thread c t).reg (wRd w)
        BitVec.ofNat 64 (v.toNat / 2 ^ (16 * h.val + 16) * 2 ^ (16 * h.val + 16) + w.word.toNat % 2 ^ 16 * 2 ^ (16 * h.val) +
          v.toNat % 2 ^ (16 * h.val))) ∧
      WritesRd (.movs c t w) c t w (fun _ => (w.word.extractLsb' 0 16).signExtend 64) ∧
      WritesRd (.rdid c t w) c t w (fun _ => BitVec.ofNat 64 (c.val * 256 + t.val)) ∧
      WritesRd (.rdpart c t w) c t w (fun s => match (s.core c).reg.part with
        | some p => BitVec.ofNat 64 p.val
        | none => 0)) ∧
   (∀ (c : CoreId) (t : ThreadId) (w : IWord),
      (∀ f ∈ ([(0, fun a b => decide (a = b)), (1, fun a b => decide (a ≠ b)), (2, fun a b => decide (a.toInt < b.toInt)),
               (3, fun a b => decide (a.toNat < b.toNat)), (4, fun a b => decide (a.toInt ≤ b.toInt)),
               (5, fun a b => decide (a.toNat ≤ b.toNat)), (6, fun a b => decide (a &&& b ≠ 0))] :
               List (Nat × (Word → Word → Bool))),
        (w.word.toNat % 16 = f.1 →
          WritesPd (.cmp c t w) c t w (w.word.toNat / 2 ^ 16 % 8) fun s => f.2 (s.ra c t w) (s.rb c t w)) ∧
        (f.1 < 6 → w.word.toNat / 2 ^ 16 % 8 = f.1 →
          WritesPd (.cmpi c t w) c t w (w.word.toNat / 2 ^ 19 % 8) fun s =>
            f.2 (s.ra c t w) ((w.word.extractLsb' 0 10).signExtend 64))) ∧
      (∀ f ∈ ([(0, fun a b => a && b), (1, fun a b => a || b), (2, fun a b => a != b), (3, fun a b => a && !b)] :
               List (Nat × (Bool → Bool → Bool))),
        w.word.toNat / 2 ^ 11 % 4 = f.1 →
          WritesPd (.plog c t w) c t w (w.word.toNat / 2 ^ 19 % 8) fun s =>
            f.2 ((s.thread c t).predicate (w.word.toNat / 2 ^ 16 % 8)) ((s.thread c t).predicate (w.word.toNat / 2 ^ 13 % 8))))

/-- R35, R37: BR and CALL go to PC + 4 × off22 and JR to ra, CALL with g63 = PC + 4; a target outside the core store or a
misaligned one freezes the thread with cause 0x06 and address 0, and no register is written (of CALL the model's choice, log 38).
R35, R36, R38: whatever the instruction, a word that cannot be read freezes the thread with cause 0x07 and the address of
its sector, and a word that encodes no instruction with cause 0x01 and address 0, whatever its guard; an instruction whose
guard is not met only passes. -/
def Obligations.JumpsGuardsAndEncodings : Prop :=
   (∀ (c : CoreId) (t : ThreadId) (w : IWord) (s : State), s.runs c t w = true →
      let x := s.thread c t
      let target : Int := x.pc.toNat + (w.word.extractLsb' 0 22).toInt
      let v := (s.ra c t w).toNat
      (0 ≤ target → target < 2 ^ 20 →
        (w.maj 0x11 = true →
          exec (.br c t w) s = .next (s.issued c t { x with pc := BitVec.ofInt 20 target, yielded := false })) ∧
        (w.maj 0x12 = true → exec (.call c t w) s = .next (s.issued c t
          { x.setReg 63 (BitVec.ofNat 64 (4 * x.pc.toNat + 4)) with pc := BitVec.ofInt 20 target, yielded := false }))) ∧
      (target < 0 ∨ 2 ^ 20 ≤ target →
        (w.maj 0x11 = true → ∃ u, exec (.br c t w) s = .next u ∧ Froze s u c t 0x06 0) ∧
        (w.maj 0x12 = true → ∃ u, exec (.call c t w) s = .next u ∧ Froze s u c t 0x06 0)) ∧
      (w.maj 0x13 = true → w.word.toNat / 2 ^ 16 % 64 = 0 → w.word.toNat % 1024 = 0 →
        (v % 4 = 0 → v < 2 ^ 22 →
          exec (.jr c t w) s = .next (s.issued c t { x with pc := BitVec.ofNat 20 (v / 4), yielded := false })) ∧
        (v % 4 ≠ 0 ∨ 2 ^ 22 ≤ v → ∃ u, exec (.jr c t w) s = .next u ∧ Froze s u c t 0x06 0))) ∧
   (∀ (i : Instr) (c : CoreId) (t : ThreadId) (w : IWord) (s : State), i.ofThread = some (c, t, w) →
      (s.thread c t).st = .ready → (s.core c).reg.frzCore = false →
      (s.fetched c t w = false → ∃ u, exec i s = .next u ∧ u.mem = s.mem ∧ u.thread c t =
        { s.thread c t with
          st := .frozen, resetPend := false, acc := none, held := none,
          fault := { valid := true, cause := 0x07,
                     addr := BitVec.ofNat 46 ((slotOf c + 4 * (s.thread c t).pc.toNat) / 64 * 64) } }) ∧
      (s.fetched c t w = true → w.reserved → ∃ u, exec i s = .next u ∧ Froze s u c t 0x01 0) ∧
      (s.fetched c t w = true → i.spelled = true → (s.thread c t).guard w = false → (s.thread c t).pc ≠ 0xFFFFF →
        exec i s = .next (s.issued c t (s.thread c t).next)))
/-- R31, R37: a load, atomic or SEM of this module's memory leaves its thread in WAIT_MEM, still at the instruction, with the
access recorded; a store joins the unperformed ones and the thread goes on, or is held when eight are unperformed. -/
def Obligations.MemoryInstructionsIssue : Prop :=
  ∀ (c : CoreId) (t : ThreadId) (w : IWord) (s : State), s.runs c t w = true →
    let x := s.thread c t
    let waits (i : Instr) (g : Word) (k : AccKind) : Prop := i.spelled = true →
      exec i s = .next (s.issued c t { x.wait .waitMem with
        acc := some { kind := k, rd := wRd w, addr := g, rb := s.rb c t w, cmp := x.reg (wRd w), tag := none } })
    let load (i : Instr) (n : Nat) (signed : Bool) : Prop :=
      s.dataAccess c (s.memOperand c t w n) n false = true → waits i (s.memOperand c t w n) (.load n signed)
    let store (i : Instr) (n : Nat) : Prop :=
      let y : Store := { addr := s.memOperand c t w n, size := n, val := x.reg (wRd w), tag := none }
      i.spelled = true → s.dataAccess c (s.memOperand c t w n) n true = true →
        (x.stores.length < 8 → x.pc ≠ 0xFFFFF →
          exec i s = .next (s.issued c t { x.next with stores := x.stores ++ [y] })) ∧
        (8 ≤ x.stores.length → exec i s = .next (s.issued c t { x.wait .waitMem with
          held := some y, acc := some { kind := .heldStore, rd := 0, addr := y.addr, rb := 0, cmp := 0, tag := none } }))
    let g := s.ra c t w
    load (.ldb c t w) 1 false ∧ load (.ldh c t w) 2 false ∧ load (.ldw c t w) 4 false ∧ load (.ldd c t w) 8 false ∧
    load (.ldws c t w) 4 true ∧ store (.stb c t w) 1 ∧ store (.sth c t w) 2 ∧ store (.stw c t w) 4 ∧ store (.std c t w) 8 ∧
    (s.dataAccess c g 8 true = true → atomicPlace true false (localPart g.toNat) = true →
      waits (.amo64 c t w) g (.amo64 (w.word.extractLsb' 0 2) (w.word.extractLsb' 2 2))) ∧
    (s.dataAccess c g 4 true = true → atomicPlace true false (localPart g.toNat) = true →
      waits (.amo32 c t w) g (.amo32 (w.word.extractLsb' 0 2) (w.word.extractLsb' 2 2)) ∧
      waits (.amof c t w) g (.amof (w.word.extractLsb' 0 2) (w.word.extractLsb' 2 2))) ∧
    (s.dataAccess c g 8 true = true → localPart g.toNat < 0x4800000000 →
      waits (.semAcquire c t w) g (.semAcq (w.word.extractLsb' 1 3)) ∧ waits (.semRelease c t w) g (.semRel (w.word.extractLsb' 1 3)))

/-- R25, R26, R38, R39, R64: an access that is misaligned (0x02), of a register block but not 8 bytes wide (0x04), an
atomic or SEM where none may act (0x05), or outside what the partition may reach (0x03) freezes its thread at once. -/
def Obligations.AccessViolationsFreeze : Prop :=
  ∀ (c : CoreId) (t : ThreadId) (w : IWord) (s : State), s.runs c t w = true →
    let fails (i : Instr) (g : Word) (cause : Byte) : Prop :=
      ∃ u, exec i s = .next u ∧ Froze s u c t cause (localPart g.toNat)
    let here (g : Word) : Prop := s.isLocal g.toNat = true
    let forbidden (g : Word) (n : Nat) (wr : Bool) : Prop :=
      match s.owner c with
      | some p => s.mayAccess p (localPart g.toNat) n wr = false
      | none => True
    (∀ f ∈ ([(.ldb c t w, 1, false), (.ldh c t w, 2, false), (.ldw c t w, 4, false), (.ldd c t w, 8, false), (.ldws c t w, 4, false),
             (.stb c t w, 1, true), (.sth c t w, 2, true), (.stw c t w, 4, true), (.std c t w, 8, true)] : List (Instr × Nat × Bool)),
      f.1.spelled = true →
      let g := s.memOperand c t w f.2.1
      (g.toNat % f.2.1 ≠ 0 → fails f.1 g 0x02) ∧
      (g.toNat % f.2.1 = 0 → here g →
        (isRegAddr (localPart g.toNat) = true → f.2.1 ≠ 8 → fails f.1 g 0x04) ∧
        (isRegAddr (localPart g.toNat) = false → forbidden g f.2.1 f.2.2 → fails f.1 g 0x03))) ∧
    (∀ f ∈ ([(.amo64 c t w, 8, false), (.amo32 c t w, 4, false), (.amof c t w, 4, false), (.semAcquire c t w, 8, true),
             (.semRelease c t w, 8, true)] : List (Instr × Nat × Bool)), f.1.spelled = true →
      let g := s.ra c t w
      (g.toNat % f.2.1 ≠ 0 → fails f.1 g 0x02) ∧
      (g.toNat % f.2.1 = 0 → atomicPlace (s.isLocal g.toNat) f.2.2 (localPart g.toNat) = false → fails f.1 g 0x05) ∧
      (g.toNat % f.2.1 = 0 → here g → atomicPlace true f.2.2 (localPart g.toNat) = true → forbidden g f.2.1 true →
        fails f.1 g 0x03))

/-- R31, R37, R229: the data of a load return zero-extended or, for LDWS, sign-extended; those of a register that does not count
on by itself (R67, R228, R239, R338, log 46) are the register's value; memory and every other thread are unchanged.
Uncorrectable data freeze the thread with cause 0x07, and with a reset pending the thread becomes IDLE with the result
written. -/
def Obligations.LoadReturnsItsBytes : Prop :=
  ∀ (c : CoreId) (t : ThreadId) (bad : BadSectors) (s : State) (a : Acc) (n : Nat) (signed : Bool),
    a.kind = .load n signed →
    let x := s.thread c t
    let at' := localPart a.addr.toNat
    let v : Word := if signed then (BitVec.ofNat 32 (s.rdN at' n)).signExtend 64 else BitVec.ofNat 64 (s.rdN at' n)
    (s.accReady c t a = true → isRegAddr at' = false → s.uncorrectable bad at' n = none →
      exec (.loadDataReturn c t bad) s = .next (s.setThread c t (x.returned.setReg a.rd v))) ∧
    (∀ r, s.accReady c t a = true → isRegAddr at' = true → (∀ d, regionOf at' ≠ .coreReg d 0 0x10) →
      (∀ b o, regionOf at' = .modReg b o → b < 0x100 ∧ b ∉ [0x08, 0x09, 0x28, 0x29]) → s.regAt at' = some r →
      exec (.loadDataReturn c t bad) s = .next (s.setThread c t (x.returned.setReg a.rd (BitVec.ofNat 64 r)))) ∧
    (∀ y, s.accReady c t a = true → isRegAddr at' = false → s.uncorrectable bad at' n = some y →
      ∃ u, exec (.loadDataReturn c t bad) s = .next u ∧ u.mem = s.mem ∧
        u.thread c t = { x with st := .frozen, resetPend := false, acc := none, held := none,
                                fault := { valid := true, cause := 0x07, addr := BitVec.ofNat 46 (y * 64) } }) ∧
    (x.st = .waitMem → x.acc = some a → s.isLocal a.addr.toNat = true → x.accWaits a = false → x.resetPend = true →
      x.pc ≠ 0xFFFFF → isRegAddr at' = false → s.uncorrectable bad at' n = none →
      ∃ u, exec (.loadDataReturn c t bad) s = .next u ∧ u.mem = s.mem ∧
        u.thread c t = { x.returned.setReg a.rd v with
                         st := .idle, resetPend := false, held := none, yielded := false, coreHeld := false,
                         fault := { valid := false, cause := 0, addr := 0 } })

/-- R37, R57, R249: a store of this module's memory, performed, leaves its low bytes at its address, little-endian, every
other byte as it was, and leaves the thread's list; no register of the thread changes. A store held as the ninth then joins the
list and its thread goes on. -/
def Obligations.StorePerformedWritesBytes : Prop :=
  ∀ (c : CoreId) (t : ThreadId) (i : Fin 8) (s : State) (y : Store),
    let x := s.thread c t
    let a := localPart y.addr.toNat
    s.memOk → x.stores[i.val]? = some y → y.tag = none → s.isLocal y.addr.toNat = true →
    x.storeWaits i.val y = false → isRegAddr a = false →
    s.plainData a y.size = true →
    ∃ u, exec (.storePerformed c t i) s = .next u ∧ Stores s u a y.size y.val.toNat ∧
      (x.held = none → x.acc = none → u.thread c t = { x with stores := x.stores.eraseIdx i.val }) ∧
      (∀ z, x.held = some z → s.isLocal z.addr.toNat = true → x.resetPend = false → (s.core c).reg.frzCore = false →
        x.pc ≠ 0xFFFFF →
        u.thread c t = { x.returned with stores := x.stores.eraseIdx i.val ++ [z], held := none })

/-- R37, R39, R257: an atomic at this module's memory side returns the old word and writes the new one: AMO64 and AMO32 add,
swap, compare-and-swap and signed max, AMOF an FP32 sum or two BF16 sums with the canonical NaN.
R65: SEM on a word of the near tier without a cross-partition lease: acquire lowers COUNT by n when COUNT ≥ n and sets pd,
and otherwise clears pd and leaves the word; release raises COUNT, saturating, and leaves pd; rd is 0 and bits [63:32] are kept.
A caller whose lease has expired gets pd = 0 and 0x0022, and the word is unchanged. -/
def Obligations.AtomicsAndSemaphores : Prop :=
   (∀ (c : CoreId) (t : ThreadId) (bad : BadSectors) (s : State) (a : Acc),
      let x := s.thread c t
      let at' := localPart a.addr.toNat
      let becomes (n : Nat) (v : Nat) : Prop :=
        s.uncorrectable bad at' n = none → s.plainData at' n = true →
        ∃ u, exec (.loadDataReturn c t bad) s = .next u ∧ Stores s u at' n v ∧
          u.thread c t = x.returned.setReg a.rd (BitVec.ofNat 64 (s.rdN at' n))
      let sgn (n v : Nat) : Int := if v % 2 ^ (8 * n) < 2 ^ (8 * n - 1) then ((v % 2 ^ (8 * n) : Nat) : Int)
        else ((v % 2 ^ (8 * n) : Nat) : Int) - 2 ^ (8 * n)
      let integer (n : Nat) (fn : BitVec 2) : Prop :=
        let old := s.rdN at' n
        let new := a.rb.toNat % 2 ^ (8 * n)
        (fn = 0 → becomes n ((old + a.rb.toNat) % 2 ^ (8 * n))) ∧ (fn = 1 → becomes n new) ∧
        (fn = 2 → becomes n (if old = a.cmp.toNat % 2 ^ (8 * n) then new else old)) ∧
        (fn = 3 → becomes n (if sgn n old < sgn n new then new else old))
      s.memOk → s.accReady c t a = true →
      (∀ fn ord, a.kind = .amo64 fn ord → integer 8 fn) ∧ (∀ fn ord, a.kind = .amo32 fn ord → integer 4 fn) ∧
      (∀ fn ord, a.kind = .amof fn ord →
        let old := s.rdN at' 4
        let sum16 (p q : Nat) : Nat := (toBf16c ((decBf16 (BitVec.ofNat 16 p)).add (decBf16 (BitVec.ofNat 16 q)))).toNat
        (fn = 0 → becomes 4 (toF32c ((decF32 (BitVec.ofNat 32 old)).add (decF32 (a.rb.setWidth 32)))).toNat) ∧
        (fn = 1 → becomes 4 (sum16 old a.rb.toNat + 65536 * sum16 (old / 65536) (a.rb.toNat / 65536))))) ∧
   (∀ (c : CoreId) (t : ThreadId) (bad : BadSectors) (s : State) (a : Acc) (pd : BitVec 3) (p : PartId),
      let x := s.thread c t
      let at' := localPart a.addr.toNat
      let w := s.rdN at' 8
      let cnt := w % 2 ^ 32
      let n := a.rb.toNat % 2 ^ 32
      s.memOk → s.accReady c t a = true → s.owner c = some p → s.uncorrectable bad at' 8 = none →
      s.plainData at' 8 = true → at' + 8 ≤ 0x4800000000 →
      ((s.part p).leaseExpired c t a.addr = false → w < 2 ^ 63 →
        (a.kind = .semAcq pd →
          (n ≤ cnt → ∃ u, exec (.loadDataReturn c t bad) s = .next u ∧ Stores s u at' 8 (w - n) ∧
            u.thread c t = (x.returned.setPred pd.toNat true).setReg a.rd 0) ∧
          (cnt < n → exec (.loadDataReturn c t bad) s =
            .next (s.setThread c t ((x.returned.setPred pd.toNat false).setReg a.rd 0)))) ∧
        (a.kind = .semRel pd → ∃ u, exec (.loadDataReturn c t bad) s = .next u ∧
          Stores s u at' 8 (w - cnt + min (cnt + n) 0xFFFFFFFF) ∧ u.thread c t = x.returned.setReg a.rd 0)) ∧
      ((s.part p).leaseExpired c t a.addr = true → (a.kind = .semAcq pd ∨ a.kind = .semRel pd) →
        ∃ u, exec (.loadDataReturn c t bad) s = .next u ∧ u.mem = s.mem ∧
          u.thread c t = (x.returned.setPred pd.toNat false).setReg a.rd 0x22))

/-- R31, R37, R44, R50, R59, R67: HALT, YIELD, RDCYC, FENCE, TWAIT and TPOLL. -/
def Obligations.SystemInstructionsAct : Prop :=
  ∀ (c : CoreId) (t : ThreadId) (w : IWord) (s : State), s.runs c t w = true →
    let x := s.thread c t
    let k := s.core c
    ((Instr.halt c t w).spelled = true → ∃ u, exec (.halt c t w) s = .next u ∧ u.mem = s.mem ∧ u.thread c t =
      { x with st := .idle, resetPend := false, acc := none, held := none, yielded := false, coreHeld := false,
               pc := if x.pc = 0xFFFFF then x.pc else x.pc + 1 }) ∧
    (x.pc ≠ 0xFFFFF →
      ((Instr.yield c t w).spelled = true → exec (.yield c t w) s = .next (s.issued c t { x.next with yielded := true })) ∧
      ((Instr.rdcyc c t w).spelled = true → ∃ n : Word, exec (.rdcyc c t w) s = .next
        { (s.modReg c fun r => { r with cyc := r.cyc + n }).issued c t (x.next.setReg (wRd w) (k.reg.cyc + n))
          with free := s.free + 1 }) ∧
      ((Instr.fence c t w).spelled = true →
        (x.stores = [] → exec (.fence c t w) s = .next (s.issued c t x.next)) ∧
        (w.word.toNat % 4 = 2 → x.stores ≠ [] → exec (.fence c t w) s = .next s)) ∧
      (∀ tok : Fin 128, tok.val = w.word.toNat % 128 →
        let b := vget k.tokens tok
        ((Instr.twait c t w).spelled = true →
          (b.bound = false → exec (.twait c t w) s = .next (s.issued c t (x.next.setReg (wRd w) 0))) ∧
          (b.bound = true → b.busy = false →
            exec (.twait c t w) s = .next (s.issued c t (x.next.setReg (wRd w) (b.status.setWidth 64)))) ∧
          (∀ o : Op, b.bound = true → b.busy = true →
            ((k.ops.filter fun o => o.sig == some (BitVec.ofNat 7 tok.val)).getLast?) = some o →
            exec (.twait c t w) s =
              .next (s.issued c t { x.wait .waitToken with tokTicket := o.ticket, tokRd := wRd w }))) ∧
        ((Instr.tpoll c t w).spelled = true →
          let pd := w.word.toNat / 128 % 8
          (b.bound = false → exec (.tpoll c t w) s =
            .next (s.issued c t ((x.next.setPred pd true).setReg (wRd w) 0))) ∧
          (b.bound = true → b.busy = false → exec (.tpoll c t w) s =
            .next (s.issued c t ((x.next.setPred pd true).setReg (wRd w) (b.status.setWidth 64)))) ∧
          (∀ o : Op, b.bound = true → b.busy = true →
            ((k.ops.filter fun o => o.sig == some (BitVec.ofNat 7 tok.val)).getLast?) = some o →
            exec (.tpoll c t w) s = .next (s.issued c t ((x.next.setPred pd false).setReg (wRd w) 0))))))

/-- R44, R45, R47: a TISS of a readable descriptor takes a slot, appends the operation to the lists, gives its thread the
ticket and binds its token; with every slot busy the thread waits at the TISS. Memory is unchanged. -/
def Obligations.TissIssuesAnOperation : Prop :=
  ∀ (c : CoreId) (t : ThreadId) (w : IWord) (bad : BadSectors) (s : State), s.runsOn c t w = true →
    (Instr.tiss c t w bad).spelled = true →
    (s.thread c t).stores = [] →
    let x := s.thread c t
    let k := s.core c
    let a := localPart (s.ra c t w).toNat
    let d : Desc := BitVec.ofNat 1024 (s.rdN a 128)
    (k.ops.length < 64 → s.isLocal (s.ra c t w).toNat = true → a % 64 = 0 → slotOf c ≤ a → a + 128 ≤ slotOf c + 0x400000 →
      s.uncorrectable bad a 128 = none → s.crecOutside c d = false →
      ∃ u, exec (.tiss c t w bad) s = .next u ∧ u.mem = s.mem ∧
        u.thread c t = x.next.setReg (wRd w) (k.next.setWidth 64) ∧
        (u.core c).next = k.next + 1 ∧ (u.core c).ops = k.ops ++ [newOp k d (headerBad c d true) (byThread d)] ∧
        (dSigV d = true → ∀ g : Fin 128, g.val = dSig d → g.val < 112 →
          vget (u.core c).tokens g = { busy := true, bound := true, status := 0, ticket := k.next }) ∧
        (dSigV d = false → (u.core c).tokens = k.tokens)) ∧
    (64 ≤ k.ops.length → exec (.tiss c t w bad) s =
      .next (s.issued c t { x.wait .waitIssue with tissRd := wRd w, tissAddr := s.ra c t w })) ∧
    (k.ops.length < 64 → (a % 64 ≠ 0 ∨ s.isLocal (s.ra c t w).toNat = false) →
      ∃ u, exec (.tiss c t w bad) s = .next u ∧ (u.core c).ops = k.ops ++ [newOp k 0 true (byThread 0)] ∧
        u.thread c t = x.next.setReg (wRd w) (k.next.setWidth 64))

/-- R31, R32: START of an IDLE thread by a master that may control it makes it READY; START of another is ignored; RESET of a
READY, WAIT_ISSUE or WAIT_TOKEN thread makes it IDLE with its registers kept, of a thread in WAIT_MEM is pending, of a FROZEN
one is honoured from the partition controller alone. -/
def Obligations.ThreadControl : Prop :=
  ∀ (m : Master) (c : CoreId) (t : ThreadId) (s : State), s.mayControl m c = true →
    let x := s.thread c t
    let stopped (f : ThrFault) : Prop := ∃ u, exec (.thrCtlReset m c t) s = .next u ∧ u.mem = s.mem ∧
      u.thread c t = { x with st := .idle, resetPend := false, acc := none, held := none, yielded := false,
                              coreHeld := false, fault := f }
    (x.st = .idle → (∀ p, m = .pctl p → (s.part p).st ≠ .held) →
      exec (.thrCtlStart m c t) s = .next (s.setThread c t { x with st := .ready })) ∧
    (x.st ≠ .idle → exec (.thrCtlStart m c t) s = .next s) ∧
    (x.st = .idle → stopped { valid := false, cause := 0, addr := 0 }) ∧
    (x.st = .ready ∨ x.st = .waitIssue ∨ x.st = .waitToken → stopped x.fault) ∧
    (x.st = .waitMem → exec (.thrCtlReset m c t) s = .next (s.setThread c t { x with resetPend := true })) ∧
    (x.st = .frozen → (∀ p, m = .pctl p → stopped { valid := false, cause := 0, addr := 0 }) ∧
      ((∀ p, m ≠ .pctl p) → exec (.thrCtlReset m c t) s = .next s))

/-! ### Addresses, registers and reset (chapter 1 and the register tables) -/

/-- R22, R23, R26: what a local address names; in a core slot, and anywhere else, every other address is unmapped. -/
def Obligations.AddressMap : Prop :=
  ∀ a : Nat, a < 2 ^ 46 →
    (regionOf a = .near ↔ a ≤ 0x0047FFFFFFFF) ∧
    (∀ o, regionOf a = .far o ↔ 0x100000000000 ≤ a ∧ a ≤ 0x13FFFFFFFFFF ∧ a = 0x100000000000 + o) ∧
    (∀ (c : CoreId) (o : Nat),
      let slot := 0x200000000000 + c.val * 0x800000
      (regionOf a = .store c o ↔ o < 0x400000 ∧ a = slot + o) ∧
      (regionOf a = .sts c o ↔ o < 0x100000 ∧ a = slot + 0x400000 + o) ∧
      (regionOf a = .punnet c ↔ slot + 0x500000 ≤ a ∧ a < slot + 0x520000) ∧
      (regionOf a = .txb c ↔ slot + 0x520000 ≤ a ∧ a < slot + 0x530000) ∧
      (slot + 0x530000 ≤ a → a < slot + 0x800000 → regionOf a = .unmapped)) ∧
    (∀ b o, regionOf a = .modReg b o ↔ blockMapped b = true ∧ o < 0x10000 ∧ a = 0x300000000000 + b * 0x10000 + o) ∧
    (∀ (c : CoreId) (u o : Nat), regionOf a = .coreReg c u o ↔
      u < 8 ∧ o < 0x10000 ∧ a = 0x300010000000 + c.val * 0x100000 + u * 0x10000 + o)

/-- R9 and the register tables: what registers of the per-core units and of the module blocks read as at reset, where their
tables give a reset value. For TIER_NEAR_TOP and ACTIVE_CORES, "from ledger", the fresh module is meant (R24, MOD_ID).
R9, R30, R31, R87, R234, R241, R269, R313, R322, R349, R354, R379: the state of each unit at reset: every thread IDLE with
zero registers, no operation, no token bound, both banks FREE, every partition ABSENT, every channel OFF, every port and link
DOWN, every session FREE, no handle and no command, no image, memory with nothing listed (the model's choice, DESIGN CHOICE in
notes/assumptions/1.md) and nothing waiting. -/
def Obligations.ResetState : Prop :=
   ((∀ c : CoreId, State.reset.usable c = true →
      ∀ r ∈ [(0x00000, (if c.val < 88 then 0 else 1) * 0x10000 + c.val * 0x100 + c.val), (0x00008, 200 * 0x10000 + 200),
              (0x00010, 0), (0x00018, 0), (0x00020, 0), (0x10018, 0), (0x10020, 0), (0x10028, 0), (0x10030, 0),
              (0x20000, 0), (0x20008, 0), (0x20010, 0), (0x20018, 1), (0x20200, 0), (0x27FF8 - 0x7C00, 0),
              (0x30000, 48), (0x30008, 0), (0x30010, 0), (0x30018, 1), (0x40000, 0), (0x40010, 0xFFFFFFFF), (0x40020, 1),
              (0x40100, 0), (0x404F8, 0), (0x50000, 0xFF * 2 ^ 48), (0x50028, 0), (0x50030, 0), (0x60048, 0),
              (0x70000, 0), (0x70008, 0), (0x70010, 0xFF * 2 ^ 40 + 0xFF * 2 ^ 32), (0x70018, 0)],
        State.reset.regAt (0x300010000000 + c.val * 0x100000 + r.1) = some r.2) ∧
    (∀ r ∈ [(0x00008, 0), (0x00100, 0), (0x00140, 0), (0x10000, 30), (0x10008, 0), (0x10010, 32 * 0x100 + 16),
            (0x10020, 0), (0x10028, 0), (0x30000, 0), (0x30008, 0), (0x30038, 0), (0x30080, 0), (0x40010, 0), (0x40018, 0),
            (0x40020, 0), (0x40028, 0), (0x40100, 0), (0x80000, 0), (0x80010, 51444 * 2 ^ 32 + 3 * 2 ^ 20 + 5 * 2 ^ 16),
            (0x80030, 0), (0x100000, 0), (0x200000, 0x4800000000), (0x200008, 0), (0x200058, 0), (0x200070, 25),
            (0x200200, 0), (0x280000, 0), (0x280008, 0), (0x300018, 0x100000 * 2 ^ 32 + 10 * 2 ^ 24 + 200),
            (0x1000000, 0), (0x1000010, 0), (0x1000020, 1 * 2 ^ 8 + 1 * 4), (0x2000000, 0), (0x2000010, 0x111111),
            (0x2000040, 0), (0x2000048, 16), (0x2000100, 0)],
      State.reset.regAt (0x300000000000 + r.1) = some r.2) ∧
    (∃ v, State.reset.regAt 0x300000000000 = some v ∧ v / 2 ^ 24 % 256 = 0xB1 ∧ v / 256 % 256 = 160 ∧ v % 256 = 16)) ∧
   (let s := State.reset
    s.pending = [] ∧ s.mem = [] ∧ s.memOk ∧
    (∀ (c : CoreId) (t : ThreadId), (s.thread c t).st = .idle ∧ (s.thread c t).pc = 0 ∧ (s.thread c t).pred = 1 ∧
      ∀ r, (s.thread c t).reg r = 0) ∧
    (∀ c : CoreId, (s.core c).ops = [] ∧ (∀ k : Fin 128, (vget (s.core c).tokens k).bound = false) ∧
      (∀ b : Fin 2, (vget (s.core c).arr.banks b).st = .free) ∧ (s.core c).kvc.punnet = [] ∧ (s.core c).sts.stsSlices = []) ∧
    (∀ p : PartId, (s.part p).st = .absent ∧ ∀ l : Fin 64, (vget (s.part p).leases l).used = false) ∧
    (∀ ch : ChanId, (s.chan ch).st = .off ∧ (s.chan ch).poison = []) ∧
    (∀ p : PortId, (vget s.tier.far p).st = .down ∧ (s.eth p).st = .down) ∧
    (∀ l : LinkId, (s.link l).st = .down ∧ (s.link l).outq = []) ∧
    (∀ i : Fin 64, (s.sess i).st = .free) ∧ s.fct.handles = [] ∧ s.fct.cmds = [] ∧
    s.esp.espSt = .none ∧ s.esp.sections = [] ∧ s.sec.provisioning = false ∧ s.sec.debug = false)

/-- R8, R32, R430, R443: a write of a register by a master. A W1C bit that a MAINTENANCE session writes as 1 is cleared, and the
cap it writes is taken. Where no register is, nothing happens; a thread's PC, predicates and
registers are written only while it is IDLE, and g0 and p0 not at all; a W1C bit clears where the value has a 1, and the other
fields of CORE_ELOG are kept; a thread's write of a module block other than its partition's PART block, or of another
partition's core, changes nothing. -/
def Obligations.RegisterWritesObeyAccess : Prop :=
  ∀ (m : Master) (a : LAddr) (v : Word) (s : State),
    let w : Instr := .registerWrite m a v
    (s.maintains m = true → (s.regAt a.toNat).isSome = true →
      (a.toNat = 0x300000000140 → exec (.registerWrite m a v) s = .next (s.modRep fun r =>
        { r with lrValid := r.lrValid && !v.getLsbD 63, lrOvf := r.lrOvf && !v.getLsbD 62 })) ∧
      (a.toNat = 0x300000030038 → exec (.registerWrite m a v) s = .next (s.modEsp fun e =>
        { e with espErrValid := e.espErrValid && !v.getLsbD 63, espErrOvf := e.espErrOvf && !v.getLsbD 62 })) ∧
      (a.toNat = 0x300000200200 → exec (.registerWrite m a v) s = .next (s.modTier fun t =>
        { t with evValid := t.evValid && !v.getLsbD 63, evOvf := t.evOvf && !v.getLsbD 62 })) ∧
      (∀ ch : ChanId, a.toNat = 0x300001000010 + 0x10000 * ch.val → exec (.registerWrite m a v) s = .next (s.modChan ch fun k =>
        { k with uncValid := k.uncValid && !v.getLsbD 63 })) ∧
      (a.toNat = 0x300000010000 → s.hostMaint m = true → 30 ≤ v.toNat % 256 → v.toNat % 256 ≤ 75 → s.pwr.thermal = false →
        exec (.registerWrite m a v) s = .next (s.modPwr fun u =>
          { u with capRefused := u.capRefused && !v.getLsbD 8, cap := BitVec.ofNat 8 (v.toNat % 256) }))) ∧
    (s.regAt a.toNat = none → exec w s = .next s) ∧
    (∀ c : CoreId, s.usable c = true → s.mayControl m c = true →
      let u := 0x300010000000 + c.val * 0x100000
      (∀ t : ThreadId,
        let x := s.thread c t
        let b := u + 0x20000 + t.val * 0x400
        (x.st = .idle →
          (a.toNat = b + 8 → exec w s = .next (s.setThread c t { x with pc := v.extractLsb' 2 20 })) ∧
          (a.toNat = b + 0x18 → exec w s = .next (s.setThread c t { x with pred := v.setWidth 8 ||| 1 })) ∧
          (∀ r : BitVec 6, a.toNat = b + 0x200 + 8 * r.toNat → exec w s = .next (s.setThread c t (x.setReg r v)))) ∧
        (x.st ≠ .idle → a.toNat % 8 = 0 → b + 8 ≤ a.toNat → a.toNat < b + 0x400 → exec w s = .next s)) ∧
      (a.toNat = u + 0x18 → exec w s = .next (s.modReg c fun r =>
        { r with elogValid := r.elogValid && !v.getLsbD 63, elogOvf := r.elogOvf && !v.getLsbD 62 }))) ∧
    (∀ (c : CoreId) (t : ThreadId), m = .thread c t →
      (∀ b o, regionOf a.toNat = .modReg b o → (∀ p, s.owner c = some p → b ≠ p.val + 0x10) → exec w s = .next s) ∧
      (∀ d u o, regionOf a.toNat = .coreReg d u o → s.owner d ≠ s.owner c → exec w s = .next s))

/-! ### Operations: start and completion (chapters 2 and 13) -/

/-- R15, R45, R48, R51, R53, R54, R56, R77, R366: an operation that is not at the head of its list, or waits, does nothing. One
that failed at issue completes BAD_DESCRIPTOR whatever else holds, one whose wait met a failure completes with that status, one of a stopped partition
completes ABORTED_BY_HASP, and one with a bounds record at an illegal address completes BAD_DESCRIPTOR: none of these does
anything else. -/
def Obligations.OperationsStartInOrder : Prop :=
  ∀ (i : Instr) (c : CoreId) (opc : Nat) (bad : BadSectors) (s : State), i.starts = some (c, opc, bad) →
    ((s.core c).startable opc = none → exec i s = .next s) ∧
    (i.waitsFirst s = true → exec i s = .next s) ∧
    (∀ o : Op, (s.core c).startable opc = some o → i.waitsFirst s = false →
      let bad' := o.bad || i.failsAtIssue s o.desc
      (bad' = true → exec i s = .next (s.ends c o.ticket stBadDesc 0)) ∧
      (bad' = false → isFailure o.depSt = true → exec i s = .next (s.ends c o.ticket o.depSt 0)) ∧
      (bad' = false → isFailure o.depSt = false →
        (s.coreStopped c = true → o.boundary = false → exec i s = .next (s.ends c o.ticket stAborted 0)) ∧
        ((s.coreStopped c = false ∨ o.boundary = true) → dBmode o.desc = 1 →
          let a := d64 o.desc 16
          (a % 16 ≠ 0 ∨ inNearOrStore c a 16 = false →
            exec i s = .next (s.ends c o.ticket stBadDesc 0)) ∧
          (a % 16 = 0 → inNearOrStore c a 16 = true → (s.coreViolates c a 16 false).isSome = true →
            ∃ u, exec i s = .next u ∧ HeldByViolation s u c o))))

/-- R43, R262: NOP completes DONE with no other effect; COPY and FILL within this module leave the source's bytes, or the
repeated pattern, at DST, complete DONE and change no other byte; illegal fields complete BAD_DESCRIPTOR with nothing moved; a
destination outside the windows freezes the list; an unreadable source completes RESOURCE_RETIRED. -/
def Obligations.NopCopyFill : Prop :=
  ∀ (c : CoreId) (bad : BadSectors) (s : State) (o : Op) (d : Desc),
    let len := d64 d 16
    let src := localPart (d64 d 32)
    let dst := localPart (d64 d 40)
    (s.begins c [] o d = true → dOpc o.desc = 0x01 → (plainHeader d && onlyFields d []) = true →
      exec (.nop c) s = .next (s.endsAs c o.ticket d stDone 0)) ∧
    (s.begins c [] o d = true → dOpc o.desc = 0x01 → (plainHeader d && onlyFields d []) = false →
      exec (.nop c) s = .next (s.endsAs c o.ticket d stBadDesc 0)) ∧
    (s.begins c bad o d = true → dOpc o.desc = 0x02 → dOpc d = 0x02 →
      (copyLegal d = false → exec (.copy c bad) s = .next (s.endsAs c o.ticket d stBadDesc 0)) ∧
      (copyLegal d = true → s.isLocal (d64 d 32) = true → s.isLocal (d64 d 40) = true →
        ((s.coreViolates c dst len true).isSome = true → ∃ u, exec (.copy c bad) s = .next u ∧ HeldByViolation s u c o) ∧
        (s.coreViolates c dst len true = none → s.coreViolates c src len false = none →
          ((s.uncorrectable bad src len).isSome = true →
            ∃ u, exec (.copy c bad) s = .next u ∧ u.mem = s.mem ∧ u.Ended c o.ticket stRetired 0) ∧
          (s.memOk → s.uncorrectable bad src len = none → s.plainData dst len = true →
            ∃ u, exec (.copy c bad) s = .next u ∧ u.Ended c o.ticket stDone 0 ∧ SameOutside s u dst len ∧
              ∀ i, i < len → memGet u.mem (dst + i) = s.rdB (src + i))))) ∧
    (s.begins c [] o d = true → dOpc o.desc = 0x03 → dOpc d = 0x03 →
      (fillLegal d = false → exec (.fill c) s = .next (s.endsAs c o.ticket d stBadDesc 0)) ∧
      (fillLegal d = true → s.isLocal (d64 d 40) = true → s.coreViolates c dst len true = none → s.memOk →
        s.plainData dst len = true →
        ∃ u, exec (.fill c) s = .next u ∧ u.Ended c o.ticket stDone 0 ∧ SameOutside s u dst len ∧
          ∀ i, i < len → memGet u.mem (dst + i) = BitVec.ofNat 8 (d64 d 96 / 256 ^ (i % 8))))

/-- R47 to R50, R358: the completion of an operation of a thread: the record's 32 bytes at CREC (ticket, status, PART, FLAGS
and result words), the token's status, the freed slot, the waits it met and the TWAITs it ends; with CREC = 0 a failure is
latched in CORE_ELOG. A status that is not yet known, or a piece in flight, completes nothing.
R14, R15: the status of an operation that met one condition after another: the first failure stays, a failure replaces a
success, and of successes the highest-numbered counts. -/
def Obligations.OperationCompletes : Prop :=
   (∀ (c : CoreId) (k : BitVec 32) (s : State) (o : Op) (st : Status),
      (s.mayComplete c k = none → exec (.opComplete c k) s = .next s) ∧
      (s.memOk → s.mayComplete c k = some (o, st) → o.host = none →
        dOpc o.desc ≠ 0x43 → s.failDue c o st = false → (s.core c).kvc.holds = [] →
        (∀ t : ThreadId, (s.thread c t).st ≠ .waitIssue ∧ (s.thread c t).pc ≠ 0xFFFFF) →
        let a := dCrec o.desc
        let p : Byte := match (s.core c).reg.part with
          | some p => BitVec.ofNat 8 p.val
          | none => 0xFF
        ∃ u, exec (.opComplete c k) s = .next u ∧
          (u.core c).completed = (s.core c).completed + 1 ∧
          (u.core c).ops = ((s.core c).ops.filter fun x => x.ticket ≠ o.ticket).map (fun x =>
            if x.dep = some o.ticket then { x with dep := none, depSt := st } else x) ∧
          (∀ g : Fin 128, o.sig = some (BitVec.ofNat 7 g.val) → (vget (s.core c).tokens g).busy = true →
            (vget (s.core c).tokens g).ticket = o.ticket →
            vget (u.core c).tokens g = { vget (s.core c).tokens g with busy := false, status := st }) ∧
          (∀ t : ThreadId, (s.thread c t).st = .waitToken → (s.thread c t).tokTicket = o.ticket →
            u.thread c t = { (s.thread c t).setReg (s.thread c t).tokRd (st.setWidth 64) with
                             st := .ready, pc := (s.thread c t).pc + 1 }) ∧
          (a ≠ 0 → crecLegal c a = true → s.crecOutside c o.desc = false → s.plainData a 32 = true →
            SameOutside s u a 32 ∧ ∃ cyc : Nat, ∀ i, i < 32 → memGet u.mem (a + i) =
              ((leBytes 4 o.ticket.toNat ++ leBytes 2 st.toNat ++ [p, BitVec.ofNat 8 (2 + 4 * ofBool o.waited)] ++
                leBytes 16 o.result.toNat ++ leBytes 8 cyc)[i]?).getD 0) ∧
          (a = 0 → u.mem = s.mem) ∧
          (a = 0 → isFailure st = true → (s.core c).reg.elogValid = false →
            (u.core c).reg.elogValid = true ∧ (u.core c).reg.elogStatus = st ∧ (u.core c).reg.elogTicket = o.ticket) ∧
          (a = 0 → isFailure st = true → (s.core c).reg.elogValid = true →
            (u.core c).reg.elogOvf = true ∧ (u.core c).reg.elogStatus = (s.core c).reg.elogStatus ∧
            (u.core c).reg.elogTicket = (s.core c).reg.elogTicket))) ∧
   (∀ (st : Status) (more : List Status),
      (∀ f, isFailure f = true → (st :: more).find? isFailure = some f → more.foldl combine st = f) ∧
      ((∀ x ∈ st :: more, isFailure x = false) →
        more.foldl combine st ∈ st :: more ∧ ∀ x ∈ st :: more, x.toNat ≤ (more.foldl combine st).toNat) ∧
      (isFailure st = true ↔ 0x0010 ≤ st.toNat))

/-! ### The array and the vector unit (chapters 3, 4, 7 and 8) -/

/-- R54, R77 to R79, R188 to R190, R195, R216 to R220: an array operation whose descriptor is legal runs with all its output
tiles still to do, and memory unchanged; a size of zero, or no output tile, completes it DONE with nothing written; an illegal
descriptor completes it BAD_DESCRIPTOR with no other effect. -/
def Obligations.ArrayOperationsExpand : Prop :=
  ∀ (c : CoreId) (bad : BadSectors) (s : State) (o : Op) (d : Desc),
    let m := matOf d
    let g := geoOf d
    let empty (i : Instr) : Prop := i.begins s c bad o d = true → exec i s = .next (s.endsAs c o.ticket d stDone 0)
    let illegal (i : Instr) : Prop := i.begins s c bad o d = true → exec i s = .next (s.endsAs c o.ticket d stBadDesc 0)
    let runs (i : Instr) (a b n : Nat) : Prop :=
      let w := arrayWork o.ticket d a b n (s.tilesOf c d)
      i.begins s c bad o d = true →
      s.viewTrouble c (s.plainView d) (s.tilesOf c d) (s.mayWiden c (dEsc d) (dTypeOut d)) = none →
      dOpc d = dOpc o.desc →
      ∃ u, exec i s = .next u ∧ u.mem = s.mem ∧
        (s.tilesOf c d ≠ [] → u.Works c o.ticket (.array w)) ∧ (s.tilesOf c d = [] → u.Ended c o.ticket stDone 0)
    let clear (a n : Nat) : Prop := a = 0 ∨ s.readTrouble c bad (localPart a) (up64 (ceilDiv n 8)) = none
    (dOpc o.desc = 0x10 →
      (s.matmulLegal c d = false → illegal (.matmul c bad)) ∧
      (s.matmulLegal c d = true → (m.m = 0 ∨ m.k = 0 ∨ m.n = 0) → empty (.matmul c bad)) ∧
      (s.matmulLegal c d = true → m.m ≠ 0 → m.k ≠ 0 → m.n ≠ 0 → clear m.mask m.m → runs (.matmul c bad) m.m m.k m.n)) ∧
    (dOpc o.desc = 0x50 →
      (s.dxLegal c d = false → illegal (.matmulDx c bad)) ∧
      (s.dxLegal c d = true → (m.m = 0 ∨ m.k = 0 ∨ m.n = 0) → empty (.matmulDx c bad)) ∧
      (s.dxLegal c d = true → m.m ≠ 0 → m.k ≠ 0 → m.n ≠ 0 → clear m.mask m.m → runs (.matmulDx c bad) m.m m.k m.n)) ∧
    (dOpc o.desc = 0x51 →
      (s.dwLegal c d = false → illegal (.matmulDw c bad)) ∧
      (s.dwLegal c d = true → (m.m = 0 ∨ m.k = 0 ∨ m.n = 0) → empty (.matmulDw c bad)) ∧
      (s.dwLegal c d = true → m.m ≠ 0 → m.k ≠ 0 → m.n ≠ 0 → clear m.mask m.n → clear m.bmask m.blockBits →
        runs (.matmulDw c bad) m.m m.k m.n)) ∧
    (dOpc o.desc = 0x40 →
      (s.convLegal c d none = false → illegal (.conv c bad)) ∧
      (s.convLegal c d none = true → g.isZero = true → empty (.conv c bad)) ∧
      (s.convLegal c d none = true → g.isZero = false → runs (.conv c bad) 0 0 0)) ∧
    (dOpc o.desc = 0x41 →
      (s.convLegal c d none = false → illegal (.convT c bad)) ∧
      (s.convLegal c d none = true → g.isZero = true → empty (.convT c bad)) ∧
      (s.convLegal c d none = true → g.isZero = false → runs (.convT c bad) 0 0 0)) ∧
    (dOpc o.desc = 0x52 →
      (s.convDxLegal c d = false → illegal (.convDx c bad)) ∧
      (s.convDxLegal c d = true → g.isZero = true → empty (.convDx c bad)) ∧
      (s.convDxLegal c d = true → g.isZero = false → runs (.convDx c bad) 0 0 0)) ∧
    (dOpc o.desc = 0x53 →
      (s.convDwLegal c d = false → illegal (.convDw c bad)) ∧
      (s.convDwLegal c d = true → g.isZero = true → empty (.convDw c bad)) ∧
      (s.convDwLegal c d = true → g.isZero = false → clear g.bmask (ceilDiv g.cout 64 * ceilDiv g.cin 64) →
        runs (.convDw c bad) 0 0 0))

/-- R74, R79: the output tiles of a MATMUL cover every element of a fed row once and nothing else, and in its tile every
column is fed with each reduction index once, in order. -/
def Obligations.MatmulTilesCoverTheProduct : Prop :=
  ∀ (c : CoreId) (s : State) (d : Desc), dOpc d = 0x10 → s.matmulLegal c d = true → (s.core c).width ≠ 0 →
    let m := matOf d
    let has (t : TileSpec) (r n : Nat) : Bool := t.rows.contains r && decide (t.n0 ≤ n) && decide (n < t.n1)
    (∀ r n, ((s.tilesOf c d).countP fun t => has t r n) = if r ∈ s.maskRows m.mask m.m ∧ n < m.n then 1 else 0) ∧
    (∀ t ∈ s.tilesOf c d, t.rows.length ≤ 1024 ∧ ∀ n, t.n0 ≤ n → n < t.n1 →
      ((t.passes.filter fun p => decide (p.c0 ≤ n) && decide (n < p.c1)).flatMap fun p => p.blocks.flatten) =
        List.range m.k) ∧
    (∀ r, r ∈ s.maskRows m.mask m.m ↔
      r < m.m ∧ (m.mask = 0 ∨ (s.rdB (localPart m.mask + r / 8)).toNat.testBit (r % 8) = true))

/-- R54, R55, R81, R87: a tile operation of the earliest operation that still expands is prepared while LOOKAHEAD lets it and a
sector tag is free, and takes tags that are free; the first prepared pass enters, its output tile taking a FREE bank with zero sums if it has none, and waits when both banks are
taken; none of this changes memory. -/
def Obligations.PassesArePreparedAndEnter : Prop :=
  ∀ (c : CoreId) (s : State) (o : Op) (a : ArrayWork) (r : PassRef) (rest : List PassRef),
    let k := s.core c
    (((s.cfgOf c).lookahead.toNat < k.arr.prep.length + 1 ∨ 224 ≤ s.sharedTags c) →
      exec (.tileOperationPrepare c) s = .next s) ∧
    (k.reg.frzCore = false → k.arr.prep.length < (s.cfgOf c).lookahead.toNat →
      (k.ops.find? fun o => o.expands && !o.move) = some o → s.findOp c o.ticket = some o → o.work = .array a →
      a.todo = r :: rest → s.sharedTags c < 224 →
      ∃ u n, exec (.tileOperationPrepare c) s = .next u ∧ u.mem = s.mem ∧
        (u.core c).arr.prep = k.arr.prep ++ [{ r with tags := n }] ∧ n + s.sharedTags c ≤ 224 ∧
        u.Works c o.ticket (.array { a with todo := rest })) ∧
    (k.reg.frzCore = false → k.arr.prep = r :: rest → s.findOp c r.ticket = some o → o.work = .array a →
      ∀ (t : TileSpec) (p : PassSpec), a.tiles[r.tile]? = some t → t.passes[r.pass]? = some p →
      (k.arr.bankOf r = none → k.arr.freeBank = none → exec (.passEnter c) s = .next s) ∧
      (∀ b, k.arr.bankOf r = none → k.arr.freeBank = some b →
        ∃ u, exec (.passEnter c) s = .next u ∧ u.mem = s.mem ∧ (u.core c).arr.prep = rest ∧
          (u.core c).arr.flight = k.arr.flight ++ [r] ∧
          vget (u.core c).arr.banks b =
            { st := .filling, ticket := r.ticket, tile := r.tile, rerun := r.rerun,
              sums := t.rows.map (fun _ => List.replicate (t.n1 - t.n0) 0), sat := 0, pip := 0 } ∧
          (u.core c).arr.beats = k.arr.beats + BitVec.ofNat 64 (ceilDiv t.rows.length (rateG (dTypeB a.desc)))) ∧
      (∀ b, k.arr.bankOf r = some b →
        ∃ u, exec (.passEnter c) s = .next u ∧ u.mem = s.mem ∧ (u.core c).arr.prep = rest ∧
          (u.core c).arr.flight = k.arr.flight ++ [r] ∧ (u.core c).arr.banks = k.arr.banks))

/-- R87, R95 to R97, R101, R103, R444: a pass lands in its tile's bank: each element the pass feeds takes the pass's blocks
into its sum in order, the bank is FULL after the tile's last pass, and the pass is counted; memory is unchanged. A pass that
read uncorrectable data loses the tile, whose bank is free, undrained, once its last pass in flight has landed; a parity error
clears the tile's sums, so that it runs again from its first pass, and is latched. -/
def Obligations.PassesLand : Prop :=
  ∀ (c : CoreId) (bad : BadSectors) (s : State) (o : Op) (a : ArrayWork) (r : PassRef) (rest : List PassRef)
    (t : TileSpec) (p : PassSpec) (b : Fin 2),
    let k := s.core c
    let v := s.viewOf c o a
    let x := vget k.arr.banks b
    k.arr.flight = r :: rest → s.findOp c r.ticket = some o → o.phase = .running → o.work = .array a →
    a.tiles[r.tile]? = some t → t.passes[r.pass]? = some p → k.arr.bankOf r = some b →
    x.sums.length = t.rows.length → (∀ row ∈ x.sums, row.length = t.n1 - t.n0) → (∀ z ∈ k.arr.banks.toList, z.dead = false) →
    (s.passLost bad v t p = none →
      ∃ u, exec (.passLand c bad) s = .next u ∧ u.mem = s.mem ∧ (u.core c).arr.flight = rest ∧
        let y := vget (u.core c).arr.banks b
        (y.st = if r.pass + 1 = t.passes.length then .full else .filling) ∧
        (∀ i row, t.rows[i]? = some row → ∀ n, t.n0 ≤ n → n < t.n1 →
          let old := sumAt x i (n - t.n0)
          sumAt y i (n - t.n0) =
            if n < p.c0 ∨ p.c1 ≤ n then old
            else if v.tout = 11 then (s.sumInt v row n p.blocks old).1
            else (if isBlock v.tb then p.blocks else p.blocks.flatten.map fun j => [j]).foldl
              (fun z js => toF32 ((decF32 z).add (Val.sum (js.map fun j => s.product v row n j)))) old) ∧
        (r.counted = true → u.Works c r.ticket (.array { a with passes := a.passes + 1 }) ∧
          (u.core c).arr.passes = k.arr.passes + 1)) ∧
    (∀ y, s.passLost bad v t p = some y → 1 < a.left →
      ∃ u, exec (.passLand c bad) s = .next u ∧ u.mem = s.mem ∧
        ∃ a', u.Works c r.ticket (.array a') ∧ a'.lost = a.lost ++ [r.tile] ∧ a'.todo = dropRefs r.ticket r.tile a.todo ∧
          ((∀ z ∈ rest, x.holds z = false) → (vget (u.core c).arr.banks b).st = .free ∧ a'.left = a.left - 1) ∧
          ((∃ z ∈ rest, x.holds z = true) → (vget (u.core c).arr.banks b) = { x with dead := true } ∧ a'.left = a.left)) ∧
    (∀ (col : Fin 64) (row : Byte),
      ∃ u, exec (.arrayParityError c col row 0) s = .next u ∧ u.mem = s.mem ∧
        (vget (u.core c).arr.banks b).sums = x.sums.map (fun z => z.map fun _ => 0) ∧
        (vget (u.core c).arr.banks b).st = .filling ∧ (u.core c).arr.perrValid = true ∧
        (u.core c).arr.perrCount = k.arr.perrCount + 1 ∧
        (k.arr.perrValid = false → (u.core c).arr.perrCol = BitVec.ofNat 8 col.val ∧ (u.core c).arr.perrRow = row) ∧
        (∀ z ∈ (u.core c).arr.flight, ¬(z.ticket = r.ticket ∧ z.tile = r.tile ∧ z.rerun = r.rerun)) ∧
        ∀ i, i < t.passes.length → i ∉ (a.todo.filter fun z => z.ticket = r.ticket && z.tile = r.tile && z.rerun = r.rerun).map PassRef.pass →
          ∃ z ∈ (u.core c).arr.prep, z.ticket = r.ticket ∧ z.tile = r.tile ∧ z.rerun = r.rerun ∧ z.pass = i)

/-- R87, R88, R104, R114, R119, R120, R122: a FULL bank drains when the drain is idle and the other bank was not bound first; at
the drain's end it is FREE, the tile's counts are taken, and the last tile gives the operation its status and result words;
the first trip under ESCALATE widens it and queues every drained tile again. -/
def Obligations.BanksDrain : Prop :=
  ∀ (c : CoreId) (b : Fin 2) (ok : Bool) (s : State) (o : Op) (a : ArrayWork) (t : TileSpec),
    let k := s.core c
    let x := vget k.arr.banks b
    let other := vget k.arr.banks (1 - b)
    exec (.rngReseed c ok) s = .next (s.modArr c fun u => { u with reseeds := u.reseeds + 1, rngHealth := ok }) ∧
    (x.st ≠ .full ∨ other.st = .draining ∨ (other.st = .full ∧ k.arr.lastBank = b) →
      exec (.bankDrainStart c b) s = .next s) ∧
    (x.st ≠ .draining → exec (.bankDrainEnd c b) s = .next s) ∧
    (s.findOp c x.ticket = some o → o.phase = .running → o.work = .array a → a.tiles[x.tile]? = some t →
      (x.st = .full → other.st ≠ .draining → ¬(other.st = .full ∧ k.arr.lastBank = b) →
        s.accumLost (s.viewOf c o a) t = none →
        ∃ u, exec (.bankDrainStart c b) s = .next u ∧ (vget (u.core c).arr.banks b).st = .draining ∧
          vget (u.core c).arr.banks (1 - b) = other) ∧
      (x.st = .draining →
        let pol := s.policy c (dEsc a.desc)
        let cnt := pol ≠ 0 ∧ x.rerun = false
        let trip := cnt ∧ s.tripped c x.sat x.pip = true
        let wide := trip ∧ a.widened = false ∧ pol = 2 ∧ narrowOut (dTypeOut a.desc) = true
        ∃ u, exec (.bankDrainEnd c b) s = .next u ∧ u.mem = s.mem ∧ (vget (u.core c).arr.banks b).st = .free ∧
          (¬wide → a.left = 1 → u.Ended c x.ticket
              (if a.lost ≠ [] then stRetired else if a.widened then stEscalated else stDone)
              (BitVec.ofNat 128 (leNat (leBytes 4 a.passes ++ leBytes 4 a.escalated ++
                leBytes 4 (a.sat + x.sat) ++ leBytes 4 (a.pip + x.pip))))) ∧
          (¬wide → 1 < a.left → ∃ a', u.Works c x.ticket (.array a') ∧ a'.left = a.left - 1 ∧ a'.todo = a.todo) ∧
          (wide → 1 ≤ a.left → ∃ a', u.Works c x.ticket (.array a') ∧ a'.widened = true ∧
            a'.left = a.left + a.drained.length ∧ (u.core c).arr.trips = k.arr.trips + 1 ∧
            ∀ i ∈ a.drained ++ [x.tile], ∀ ti, a.tiles[i]? = some ti → ∀ q, q < ti.passes.length →
              ∃ z ∈ a'.todo, z.ticket = x.ticket ∧ z.tile = i ∧ z.pass = q ∧ z.rerun = true)))

/-- R125, R196, R221: POOL and STASH run in the vector unit: legal ones complete DONE, DONE_EMPTY_ROWS or DONE_ESCALATED with
their result words, and write only the records of their result; illegal ones complete BAD_DESCRIPTOR, and a STASH of no rows
DONE. -/
def Obligations.VectorOperationsComplete : Prop :=
  ∀ (c : CoreId) (bad : BadSectors) (s : State) (o : Op) (d : Desc),
    let g := geoOf d
    let rows := d32 d 16
    let len := d32 d 20
    (dOpc o.desc = 0x42 → (Instr.pool c bad).begins s c bad o d = true →
      (s.convLegal c d none = false → exec (.pool c bad) s = .next (s.endsAs c o.ticket d stBadDesc 0)) ∧
      (s.convLegal c d none = true → g.isZero = true → exec (.pool c bad) s = .next (s.endsAs c o.ticket d stDone 0)) ∧
      (s.convLegal c d none = true → g.isZero = false →
        s.poolTrouble c bad d g.xAt (poolTiles d [List.range g.outPixels]) = none →
        ∃ u st r, exec (.pool c bad) s = .next u ∧ u.Ended c o.ticket st r ∧ (st = stDone ∨ st = stEmptyRows ∨ st = stEscalated) ∧
          (st = stDone → poolEmpty d = 0) ∧ (st = stEmptyRows → poolEmpty d ≠ 0) ∧
          r.toNat % 2 ^ 32 = poolEmpty d % 2 ^ 32)) ∧
    (dOpc o.desc = 0x58 → (Instr.stash c bad).begins s c bad o d = true →
      (s.stashLegal c d = false → exec (.stash c bad) s = .next (s.endsAs c o.ticket d stBadDesc 0)) ∧
      (s.stashLegal c d = true → rows = 0 → exec (.stash c bad) s = .next (s.endsAs c o.ticket d stDone 0)) ∧
      (s.stashLegal c d = true → rows ≠ 0 →
        (∀ i, i < rows → s.readTrouble c bad (localPart (d64 d 32) + i * d64 d 64) (recBytes (dTypeA d) false len) = none) →
        s.viewTrouble c (stashView d) (stashTiles rows len) (s.mayWiden c (dEsc d) (dTypeOut d)) = none →
        ∃ u st r, exec (.stash c bad) s = .next u ∧ u.Ended c o.ticket st r ∧ (st = stDone ∨ st = stEscalated) ∧
          r.toNat % 2 ^ 32 = rows ∧
          (st = stDone → s.noCopy (localPart (d64 d 40)) (rows * d64 d 72) = true →
            SameOutside s u (localPart (d64 d 40)) (rows * d64 d 72))))

/-- R198, R204 to R207: FUSED starts with its layers read from its table and, in an exchange, its six band words at COUNT 0; a
poll for a waiting pass takes the rows that its neighbours' band words show for this run, and goes on where they cover the pass, or
a neighbour's failure, with which it then completes (log 42);
a stripe that only waits for RDONE completes when every neighbour that reads from it shows this run. -/
def Obligations.FusedStripes : Prop :=
  ∀ (c : CoreId) (bad : BadSectors) (s : State) (o : Op) (d : Desc),
    let f := fusOf d
    let layers := s.layerTable d
    let done := (layers.zipIdx.all fun x => s.layerLegal c d layers x.2 x.1)
    (s.begins c bad o d = true → dOpc o.desc = 0x43 → s.fusedHeaderOk c d = true →
      s.uncorrectable bad (localPart f.lt) (128 * f.layers) = none → done = true → s.memOk →
      ∃ u, exec (.fused c bad) s = .next u ∧
        u.Works c o.ticket (.fused { layers := layers, layer := 0, upRows := 0, downRows := 0, waitRdone := false,
                                     widened := false, empty := false, res := [0, 0, 0, 0] } none) ∧
        (f.exch = false → u.mem = s.mem) ∧
        (f.exch = true → s.plainData (cntAt c d 0) 48 = true →
          SameOutside s u (cntAt c d 0) 48 ∧ (u.core c).cnv.xActive = true ∧
          ∀ j i, j < 6 → i < 8 → memGet u.mem (cntAt c d j + i) = byteOf (f.run * 2 ^ 48) i)) ∧
    (∀ (w : FusedWork) (a : Option ArrayWork), s.fusedRunning c = some (o, w) → s.findOp c o.ticket = some o →
      o.work = .fused w a → o.desc = d → (s.core c).reg.frzCore = false → s.coreStopped c = false →
      (w.waitBand = true → 0 < w.layer → ∀ (n : Nat × Nat) (up down : CoreId), f.up = up.val → f.down = down.val →
        (match a with
         | some x => (x.todo.head?.map fun r => passNeeds o w x r).getD (0, 0)
         | none => (w.layers[w.layer]?.map fun l => layerNeeds o w l).getD (0, 0)) = n → n.1 ≠ 0 → n.2 ≠ 0 →
        let wu := s.rdN (cntAt up d (2 * (w.layer - 1) + 1)) 8
        let wd := s.rdN (cntAt down d (2 * (w.layer - 1))) 8
        s.uncorrectable bad (cntAt up d (2 * (w.layer - 1) + 1)) 8 = none →
        s.uncorrectable bad (cntAt down d (2 * (w.layer - 1))) 8 = none →
        (wu / 2 ^ 47 = 2 * f.run → wd / 2 ^ 47 = 2 * f.run →
          ∃ u, exec (.bandWordPoll c bad) s = .next u ∧ u.mem = s.mem ∧
            u.Works c o.ticket (.fused { w with upRows := wu % 2 ^ 16, downRows := wd % 2 ^ 16, waitBand :=
              !(decide (n.1 ≤ wu % 2 ^ 16) && decide (n.2 ≤ wd % 2 ^ 16)) } a)) ∧
        (wu / 2 ^ 47 = 2 * f.run + 1 → wd / 2 ^ 47 = 2 * f.run →
          ∃ u r, exec (.bandWordPoll c bad) s = .next u ∧ u.Ended c o.ticket (failStatus (wu / 2 ^ 16 % 2 ^ 16)) r ∧
            (u.core c).cnv.cfValid = true ∧ (u.core c).cnv.cfCore = BitVec.ofNat 8 up.val)) ∧
      (w.waitBand = false → exec (.bandWordPoll c bad) s = .next s) ∧
      (w.waitRdone = true →
        ((∀ k ∈ fusReaders d, s.rdN (cntAt k d 6) 8 / 2 ^ 48 = f.run) →
          ∃ u st, exec (.rdonePoll c) s = .next u ∧ u.mem = s.mem ∧ isFailure st = false ∧
            u.Ended c o.ticket st (BitVec.ofNat 128 (leNat (w.res.flatMap (leBytes 4)))) ∧
            (u.core c).cnv.xActive = false) ∧
        ((∃ k ∈ fusReaders d, s.rdN (cntAt k d 6) 8 / 2 ^ 48 ≠ f.run) → exec (.rdonePoll c) s = .next s)))

/-! ### Carried state (chapter 5) -/

/-- R139 to R145, R150 to R152: SCAN, GATED and UPDATE, with no control operation in their group. An illegal descriptor,
layout or row completes BAD_DESCRIPTOR and a damaged stream RESOURCE_RETIRED, both with nothing written; no rows or no steps
complete DONE; a chunk with a slice still moving in waits with its streams pinned; one whose rows are all there runs and
completes, DONE with its row-steps in the first result word where nothing it reads is lost.
R130, R131, R133: the arithmetic of one element of an FP32 stream at one step: UPDATE adds its input with one rounding, or
keeps the greater; SCAN, GATED and AFFINE take a·h + b with one rounding, a being α itself for AFFINE; an FP32C value is
stored as its rounding to FP32 with the rest as a compensation word of at most 32,767 quanta, zero where the value is not
finite. -/
def Obligations.StreamChunksRun : Prop :=
   (∀ (c : CoreId) (bad : BadSectors) (s : State) (o : Op) (d : Desc), s.noCtl c →
      ∀ f ∈ ([(.scan c bad, 0x20), (.gated c bad, 0x21), (.update c bad, 0x22)] : List (Instr × Nat)), dOpc o.desc = f.2 →
        f.1.begins s c bad o d = true →
        let k := chunkOf d
        let ids := s.rowTable k
        let is := ids.map (s.rowIs c o.ticket k)
        let legal := State.chunkFields d k && s.chunkLayout c d k
        let ends (st : Status) : Prop := exec f.1 s = .next (s.endsAs c o.ticket d st 0)
        (legal = false → ends stBadDesc) ∧
        (legal = true → (k.rows = 0 ∨ k.lc = 0) → ends stDone) ∧
        (legal = true → k.rows ≠ 0 → k.lc ≠ 0 → s.readTrouble c bad (localPart k.tab) (2 * k.rows) = none →
          (¬ids.Nodup ∨ RowIs.bad ∈ is ∨ s.workOk c k ids = false → ends stBadDesc) ∧
          (ids.Nodup → RowIs.bad ∉ is → s.workOk c k ids = true →
            (RowIs.damaged ∈ is → ∃ u, exec f.1 s = .next u ∧ u.mem = s.mem ∧ u.Ended c o.ticket stRetired 0) ∧
            (RowIs.damaged ∉ is → RowIs.wait ∈ is →
              ∃ u, exec f.1 s = .next u ∧ u.mem = s.mem ∧ u.Works c o.ticket (.chunk ids) ∧
                (u.core c).sts.stsPins = (s.core c).sts.stsPins ++ [(o.ticket, ids)]) ∧
            (RowIs.damaged ∉ is → RowIs.wait ∉ is → (∀ t ∈ s.chunkTrouble c bad d k, t = none) →
              ∃ u st r, exec f.1 s = .next u ∧ u.Ended c o.ticket st r ∧ (st = stDone ∨ st = stRetired) ∧
                ((∀ x ∈ bad, 64 * x + 64 ≤ slotOf c + 0x400000) → s.sound → st = stDone ∧ r.toNat % 2 ^ 32 = k.rows * k.lc))))) ∧
   (∀ (s : State) (d : Desc) (k : Chunk) (r e : Nat) (h : BitVec 32),
      let x (i : Nat) : BitVec 32 := s.recF32 (dTypeA d) r i
      let c := e / k.ns
      (k.kind = 2 → k.ufn = 1 → s.stepElem d k true r e (h, 0) = (fadd h (x c), 0)) ∧
      (k.kind = 2 → k.ufn = 2 → (decF32 (x c)).isNan = false → (decF32 h).isNan = false →
        (s.stepElem d k true r e (h, 0)).1 = if (decF32 h).lt (decF32 (x c)) then x c else h) ∧
      (k.kind = 2 → k.ufn = 2 → ((decF32 (x c)).isNan = true ∨ (decF32 h).isNan = true) →
        s.stepElem d k true r e (h, 0) = (nan32, 0)) ∧
      (k.kind = 2 → k.ufn = 0 →
        ∃ b, s.stepElem d k true r e (h, 0) = (ffma (BitVec.ofNat 32 (s.rdN (localPart k.par + 4 * c) 4)) h b, 0)) ∧
      (k.kind = 0 ∨ k.kind = 1 → ∃ a b, s.stepElem d k true r e (h, 0) = (ffma a h b, 0)) ∧
      (∀ v : Val, (toFp32c v).1 = toF32 v ∧ (f32Finite (toF32 v) = false → (toFp32c v).2 = 0) ∧
        -32767 ≤ (toFp32c v).2.toInt ∧ (toFp32c v).2.toInt ≤ 32767))

/-- R146 to R149: a control operation of the lead of a group, with no other in progress: illegal fields, or a list one of whose
entries fails validation, complete BAD_DESCRIPTOR with no entry performed; an empty list completes DONE; STR_OPEN, STR_CLOSE,
STR_FORK, STR_WRITE and STR_READ with no slice pinned perform every entry and complete with the entries counted, DONE unless
what they copy cannot be read. -/
def Obligations.StreamControlsPerform : Prop :=
  ∀ (c : CoreId) (bad : BadSectors) (s : State) (o : Op) (d : Desc), s.begins c bad o d = true →
    (s.core c).ctlBusy o.ticket = false →
    ∀ f ∈ ([(.strOpen c bad, 0x28), (.strClose c bad, 0x29), (.strFork c bad, 0x2A), (.swapOut c bad, 0x2B),
            (.swapIn c bad, 0x2C), (.strWrite c bad, 0x2D), (.strRead c bad, 0x2E)] : List (Instr × Nat)), dOpc o.desc = f.2 →
      let n := ctlCount d
      let legal := ctlFields d && s.herePart (d64 d 32) && decide (s.groupOf c ≠ 0xFF) && decide (s.groupIndex c = 0)
      (legal = false → exec f.1 s = .next (s.endsAs c o.ticket d stBadDesc 0)) ∧
      (legal = true → n = 0 → exec f.1 s = .next (s.endsAs c o.ticket d stDone 0)) ∧
      (legal = true → n ≠ 0 → s.readTrouble c bad (localPart (d64 d 32)) (16 * n) = none →
        (s.strValidateAll c d StrPlan.empty = none → exec f.1 s = .next (s.endsAs c o.ticket d stBadDesc 0)) ∧
        (s.strValidateAll c d StrPlan.empty ≠ none → (∀ t ∈ s.ctlTrouble c d, t = none) →
          s.groupShort c = false → s.unpinned c → f.2 ≠ 0x2B → f.2 ≠ 0x2C →
          ∃ u st, exec f.1 s = .next u ∧ u.Ended c o.ticket st (ctlWords n 0) ∧ (st = stDone ∨ st = stRetired) ∧
            ((f.2 = 0x28 ∨ f.2 = 0x29 ∨ (bad = [] ∧ s.sound)) → st = stDone)))

/-- R138, R147, R150: one entry of STR_CLOSE, SWAP_OUT and SWAP_IN, no slice pinned. CLOSE leaves the record FREE with no slot
and the slots free on every member; SWAP_OUT of a RESIDENT stream leaves it MOVING_OUT; SWAP_IN of an OUT stream leaves it
MOVING_IN in the entry's slot, which every member then holds. No memory but the record changes. -/
def Obligations.StreamRecordsMove : Prop :=
  ∀ (c : CoreId) (bad : BadSectors) (s : State) (o : Op) (d : Desc), s.begins c bad o d = true → s.memOk →
    (s.core c).ctlBusy o.ticket = false →
    (ctlFields d && s.herePart (d64 d 32) && decide (s.groupOf c ≠ 0xFF) && decide (s.groupIndex c = 0)) = true →
    ctlCount d = 1 → s.readTrouble c bad (localPart (d64 d 32)) 16 = none → s.strValidateAll c d StrPlan.empty ≠ none →
    s.groupShort c = false → s.unpinned c →
    let e := s.strEntry d 0
    let a := s.strAt c e.id
    let x := s.strRec c e.id
    inNear a 128 = true → s.plainData a 128 = true →
    let moves (u : State) : Prop := u.Works c o.ticket
      (.ctl { idx := 0, waiting := [], performed := 0, deferred := 0, moving := true, failed := false })
    (dOpc o.desc = 0x29 → ∃ u, exec (.strClose c bad) s = .next u ∧ SameOutside s u a 128 ∧
      u.Ended c o.ticket stDone (ctlWords 1 0) ∧ u.strRec c e.id = { x with state := 0, slot := 0xFFFFFFFF } ∧
      ∀ m ∈ s.members c, (u.core m).sts.stsSlices = (s.core m).sts.stsSlices.filter fun y => y.1.toNat ≠ e.id) ∧
    (dOpc o.desc = 0x2B → x.state = 1 → ∃ u, exec (.swapOut c bad) s = .next u ∧ SameOutside s u a 128 ∧ moves u ∧
      u.strRec c e.id = { x with state := 3 }) ∧
    (dOpc o.desc = 0x2C → x.state = 2 → ∃ u, exec (.swapIn c bad) s = .next u ∧ SameOutside s u a 128 ∧ moves u ∧
      u.strRec c e.id = { x with state := 4, slot := e.slot } ∧
      ∀ m ∈ s.members c, (u.core m).sts.stsSlices = (s.core m).sts.stsSlices ++
        [(BitVec.ofNat 16 e.id, e.slot, sliceBytes x (s.groupSize c))])

/-- R149 to R151, R366: the events of a control operation in progress. Where pins remain, the parts of the members whose pins
are gone are performed and the entry waits for the rest; with the last pin gone, or the last slice copied out or in, the entry
is performed, and with the last entry the operation completes, DONE_DEFERRED if an entry was deferred, RESOURCE_RETIRED if one
failed, and with the status of its stop if it was stopped meanwhile; a swapped-out stream's slots are free on every member. -/
def Obligations.StreamEventsFinishEntries : Prop :=
  ∀ (c : CoreId) (bad : BadSectors) (s : State) (o : Op) (w : CtlWork), s.atCtl c o w →
    let e := s.strEntry o.desc w.idx
    let still := s.stillWaits w.waiting (s.entryIds o.desc w.idx)
    let freed := s.entryParts c o.desc bad e fun m => (w.waiting.any fun x => x.member = m) && !(still.any fun x => x.member = m)
    let with_ (u : State) (w : CtlWork) : State := u.modOp c o.ticket fun o => { o with work := .ctl w }
    let done (u : State) : Prop := ∃ f : Bool, ((bad = [] ∧ s.sound ∧ w.partOk = true) → f = w.failed) ∧ u.Ended c o.ticket
      (w.stop.getD (if f then stRetired else if w.deferred = 0 then stDone else stDeferred))
      (ctlWords (w.performed + 1) w.deferred)
    (w.waiting = [] → exec (.deferredEntryPart c bad) s = .next s) ∧
    (w.waiting ≠ [] → w.moving = true → exec (.deferredEntryPart c bad) s = .next (with_ s { w with waiting := still })) ∧
    (w.waiting ≠ [] → w.moving = false → still ≠ [] → exec (.deferredEntryPart c bad) s =
      .next (with_ freed.2 { w with waiting := still, partOk := w.partOk && freed.1 })) ∧
    ((dOpc o.desc ≠ 0x2B ∨ w.moving = false ∨ still ≠ []) → exec (.lastSliceCopiedOut c bad) s = .next s) ∧
    ((dOpc o.desc ≠ 0x2C ∨ w.moving = false) → exec (.lastSliceCopiedIn c bad) s = .next s) ∧
    ((w.idx + 1 = ctlCount o.desc ∨ w.stop.isSome = true) →
      (w.waiting ≠ [] → still = [] → w.moving = false →
        ∃ u, exec (.deferredEntryPart c bad) s = .next u ∧ done u) ∧
      (dOpc o.desc = 0x2B → w.moving = true → still = [] →
        ∃ u, exec (.lastSliceCopiedOut c bad) s = .next u ∧ done u ∧
          ∀ m ∈ s.members c, (u.core m).sts.stsSlices = (s.core m).sts.stsSlices.filter fun y => y.1.toNat ≠ e.id) ∧
      (dOpc o.desc = 0x2C → w.moving = true → ∃ u, exec (.lastSliceCopiedIn c bad) s = .next u ∧ done u))

/-! ### The KV cache (chapter 6) -/

/-- R161 to R168: APPEND: illegal fields, a sequence that does not fit, a page list that runs out or pages that are not there
complete BAD_DESCRIPTOR with nothing appended; no rows complete DONE. A row that falls into a page its sequence already has
for itself, with room in the punnet, joins the punnet as the newest row; LEN and LIVE of its record rise, no other memory
changes, and the operation completes DONE with one row appended. -/
def Obligations.AppendAddsRows : Prop :=
  ∀ (c : CoreId) (bad : BadSectors) (s : State) (o : Op) (d : Desc) (p : PartId), (Instr.append c bad).begins s c bad o d = true →
    dOpc o.desc = 0x31 → s.owner c = some p →
    let a := appOf d
    let n := recBytes (dTypeA d) false (a.h * a.d)
    let ids := s.appIds a
    let punnet := ((s.markPunnet c bad).core c).kvc.punnet
    let ends (st : Status) : Prop := exec (.append c bad) s = .next (s.endsAs c o.ticket d st 0)
    let fails : Prop := ∃ u, exec (.append c bad) s = .next u ∧ u.mem = s.mem ∧ (u.core c).kvc.punnet = punnet ∧
      u.Ended c o.ticket stBadDesc 0
    let fits := ids.eraseDups.all fun id => s.seqFits p a.h a.d (dTypeOut d) id && decide ((s.seqRec p id).home = c.val)
    (s.appFields c d a = false → bad = [] → ends stBadDesc) ∧ (s.appFields c d a = false → fails) ∧
    (s.appFields c d a = true → a.rows = 0 → bad = [] → ends stDone) ∧
    (s.appFields c d a = true → a.rows ≠ 0 → s.readTrouble c bad (localPart a.tab) (4 * a.rows) = none →
      (∀ t ∈ s.rowsRead c bad a.k a.rows a.kS n ++ s.rowsRead c bad a.v a.rows a.vS n, t = none) →
      (∀ t ∈ s.seqTrouble p c bad ids.eraseDups true, t = none) →
      (fits = false → fails) ∧
      (fits = true → s.planAppend p ids = none → fails) ∧
      (∀ un, fits = true → s.planAppend p ids = some un → (s.part p).unreserved < un → fails) ∧
      (∀ un id e, fits = true → s.planAppend p ids = some un → un ≤ (s.part p).unreserved → a.rows = 1 → ids = [id] →
        let r := s.seqRec p id
        let at' := s.seqAt p id
        r.entryOf r.len = some e → r.len % 256 ≠ 0 → r.len % 256 ≠ 255 → (s.page p (s.entry p id e)).refs ≤ 1 →
        (s.core c).kvc.used + rowSectors (dTypeOut d) a.h a.d ≤ (s.part p).cfg.punnetSectors.toNat →
        s.memOk → inNear at' 128 = true → s.plainData at' 128 = true →
        ∃ u w bytes, exec (.append c bad) s = .next u ∧ u.Ended c o.ticket stDone w ∧ w.toNat % 2 ^ 32 = 1 ∧
          SameOutside s u at' 128 ∧ u.seqRec p id = { r with len := r.len + 1, live := (r.live + 1) % 65536 } ∧
          (u.core c).kvc.punnet = punnet ++
            [{ seq := BitVec.ofNat 20 id, pos := r.len, bytes := bytes, uncorrectable := false, live := true, holders := [] }]))

/-- R163, R166, R170 to R172: KV_OPEN, KV_CLOSE, KV_FORK and KV_FLUSH: illegal fields or a list that fails validation complete
BAD_DESCRIPTOR; an empty list completes DONE; of a valid list the entries performed and refused are counted, and it completes
DONE, or ADMIT_REFUSED if an entry was refused for want of unreserved pages, unless a record or page list could not be read.
An OPEN or FORK reserves its pages or is refused and says so in its entry; a CLOSE or FLUSH takes the sequence's live rows off
the punnet. -/
def Obligations.KvControlsPerform : Prop :=
  ∀ (c : CoreId) (bad : BadSectors) (s : State) (o : Op) (d : Desc) (p : PartId), s.owner c = some p → s.fab.kvArrivals = [] →
    ∀ f ∈ ([(.kvOpen c bad, 0x38), (.kvClose c bad, 0x39), (.kvFork c bad, 0x3A), (.kvFlush c bad, 0x3B)] : List (Instr × Nat)),
      dOpc o.desc = f.2 → dOpc d = f.2 → f.1.begins s c bad o d = true →
      let n := d32 d 16
      let a := localPart (d64 d 32)
      let legal := kvFields d && s.herePart (d64 d 32)
      let e := s.kvEntry d 0
      let ids := (List.range n).flatMap fun i => [(s.kvEntry d i).id, (s.kvEntry d i).id2]
      let k := ((s.markPunnet c bad).core c).kvc
      let ends (st : Status) : Prop := ∃ u, exec f.1 s = .next u ∧ u.mem = s.mem ∧ (u.core c).kvc = k ∧ u.Ended c o.ticket st 0
      (legal = false → ends stBadDesc) ∧ (legal = true → n = 0 → ends stDone) ∧
      (legal = true → n ≠ 0 → s.readTrouble c bad a (16 * n) = none → s.writeTrouble c a (16 * n) = none →
        (∀ t ∈ s.seqTrouble p c bad ids.eraseDups false, t = none) →
        (s.kvValidateAll p c d n = none → ends stBadDesc) ∧
        (s.kvValidateAll p c d n ≠ none →
          (∃ u st m r, exec f.1 s = .next u ∧ u.Ended c o.ticket st (resWords [m, r]) ∧
            ((m + r < n ∧ st = stRetired) ∨ (m + r = n ∧ st = if r = 0 then stDone else stAdmitRefused))) ∧
          ((∀ t ∈ s.seqTrouble p c bad [e.id] true, t = none) → n = 1 →
            ((f.2 = 0x38 ∨ f.2 = 0x3A) → o.boundary = false →
              (e.resv ≤ (s.part p).unreserved → ∃ u, exec f.1 s = .next u ∧ u.Ended c o.ticket stDone (resWords [1, 0]) ∧
                (u.part p).kvReserved = (s.part p).kvReserved + BitVec.ofNat 32 e.resv) ∧
              ((s.part p).unreserved < e.resv → s.memOk → s.plainData (a + 14) 1 = true →
                ∃ u, exec f.1 s = .next u ∧ u.Ended c o.ticket stAdmitRefused (resWords [0, 1]) ∧
                  SameOutside s u (a + 14) 1 ∧ memGet u.mem (a + 14) = 1)) ∧
            ((f.2 = 0x39 ∨ f.2 = 0x3B) → (∀ x ∈ k.punnet, x.holders = []) →
              ∃ u, exec f.1 s = .next u ∧ u.Ended c o.ticket stDone (resWords [1, 0]) ∧
                (u.core c).kvc.punnet = k.punnet.filter fun x => !(x.seq.toNat = e.id && x.live)))))

/-- R292: KV_RING: illegal fields complete BAD_DESCRIPTOR; the sequence's live rows are flushed first; a page that cannot be
read then completes RESOURCE_RETIRED; else the pages are held until NEXT has answered, and an arrival with their geometry
leaves for NEXT, or comes to this module itself. At NEXT an arrival the guest cannot take is refused, one whose reservation is
not yet there waits, and any other is installed. -/
def Obligations.KvRingSendsPages : Prop :=
  (∀ (c : CoreId) (bad : BadSectors) (s : State) (o : Op) (d : Desc) (p : PartId), s.begins c bad o d = true →
    dOpc o.desc = 0x74 → s.owner c = some p → (s.core c).kvBusy = false →
    let id := d32 d 16
    let sig := d64 d 32
    let r := s.seqRec p id
    let s0 := s.markPunnet c bad
    let s1 := if 0 < r.live then s0.flushLine p id .other else s0
    let r1 := s1.seqRec p id
    let gs := ((List.range r1.cap).map fun e => s1.entry p id e).filter (· ≠ 0xFFFFFFFF)
    let ready := gs.all fun g => !(s1.page p g).bad && s1.readable bad (s1.pageAt p g) (2 * r1.h * regionBytes r1.ptype r1.d)
    let legal := plainHeader d && onlyFields d [(16, 12), (32, 8)] && decide (d32 d 24 < 2 ^ 18) &&
      decide (modulePart sig = d32 d 24) && decide (sig % 8 = 0) && s.seqKnown p id && r.opened && decide (r.home = c.val)
    (legal = false → ∃ u, exec (.kvRing c bad) s = .next u ∧ u.mem = s.mem ∧ u.Ended c o.ticket stBadDesc 0) ∧
    (legal = true →
      (if s.isLocal sig then s.writeTrouble c (localPart sig) 8 else s.globalTrouble c bad sig 8 true) = none →
      (ready = false → ∃ u, exec (.kvRing c bad) s = .next u ∧ u.mem = s1.mem ∧ u.Ended c o.ticket stRetired 0) ∧
      (ready = true → s.isLocal sig = true →
        ∃ u, exec (.kvRing c bad) s = .next u ∧ ∃ h ∈ (u.core c).kvc.holds, h.ticket = o.ticket ∧ gs <+: h.pages) ∧
      (ready = true → s.isLocal sig = false →
        ∃ u a, exec (.kvRing c bad) s = .next u ∧ u.mem = s1.mem ∧ u.Works c o.ticket (.script []) ∧
          u.fab.kvSent = s.fab.kvSent ++ [a] ∧ a.part = p ∧ a.dstSeq.toNat = d32 d 20 ∧ a.sig.toNat = sig ∧
          a.pages.length = gs.length ∧ a.flushed.toNat = r1.flushed ∧
          (u.core c).kvc.holds = (s.core c).kvc.holds ++ [{ ticket := o.ticket, pages := gs }] ∧
          u.fab.reqs = s.fab.reqs ++ [{ tag := a.tag, owner := .op c o.ticket }]))) ∧
  (∀ (a : KvArrival) (s : State),
    let room := a.pages.length ≤ (s.seqRec a.part a.dstSeq.toNat).left
    let may := s.mayAccess a.part (localPart a.sig.toNat) 8 true
    (s.kvGuestOk a = false → exec (.kvRingArrival a) s = .next (s.kvAnswer a opNack nackKvRing)) ∧
    (s.kvGuestOk a = true → may = false → exec (.kvRingArrival a) s = .next (s.kvAnswer a opNack nackViolation)) ∧
    (s.kvGuestOk a = true → may = true → ¬room →
      exec (.kvRingArrival a) s = .next { s with fab := { s.fab with kvArrivals := s.fab.kvArrivals ++ [a] } }) ∧
    (s.kvGuestOk a = true → may = true → room →
      ∃ u, exec (.kvRingArrival a) s = .next u ∧ u = s.kvInstall a ∧ u.fab.kvArrivals = s.fab.kvArrivals))

/-- R173 to R183: ATTEND and COMBINE: illegal fields, or for ATTEND a row outside its sequence, complete BAD_DESCRIPTOR; no
rows complete DONE; else they complete DONE, DONE_EMPTY_ROWS or DONE_ESCALATED, or ATTEND that sees a position it cannot read
RESOURCE_RETIRED.
R177, R178, R181, R182: a row and head whose visits show it only scores of −∞, or no position, gives zeros and a log-sum-exp of
−∞; one that sees a single position with a finite score gives that position's value and the score; any other element of finite
terms keeps the bound of R181 or is the nearest to the exact attention; COMBINE of partials that are all −∞ gives zeros and
−∞. -/
def Obligations.AttentionCompletes : Prop :=
   (∀ (c : CoreId) (bad : BadSectors) (s : State) (o : Op) (d : Desc) (p : PartId), s.owner c = some p →
      let a := attOf d
      let m := cmbOf d
      let well (st : Status) : Prop := st = stDone ∨ st = stEmptyRows ∨ st = stEscalated
      let ends (i : Instr) (st : Status) : Prop := ∃ u, exec i s = .next u ∧ u.mem = s.mem ∧ u.Ended c o.ticket st 0
      let runs (i : Instr) (readable : Prop) : Prop := ∃ u st r, exec i s = .next u ∧ u.Ended c o.ticket st r ∧
        (readable → well st ∧ (st = stDone → r.toNat % 2 ^ 32 = 0)) ∧ (¬readable → st = stRetired)
      (dOpc o.desc = 0x30 → (Instr.attend c bad).begins s c bad o d = true →
        let xs := (List.range a.rows).map fun r => s.qRow p a r
        let s0 := s.each (s.partCores p) fun s k => s.markPunnet k bad
        (s.attFields p c d a = false → ends (.attend c bad) stBadDesc) ∧
        (s.attFields p c d a = true → a.rows = 0 → ends (.attend c bad) stDone) ∧
        (s.attFields p c d a = true → a.rows ≠ 0 → s.readTrouble c bad (localPart a.qt) (8 * a.rows) = none →
          (∀ t ∈ s.rowsRead c bad a.q a.rows a.qS (recBytes (dTypeA d) false (a.h * a.d)) ++
            s.rowsWrite c a.o a.rows a.oS (s.outBytesOf c d a.pips (a.h * a.d)), t = none) →
          (a.lse = 0 ∨ s.writeTrouble c (localPart a.lse) (4 * a.rows * a.h) = none) →
          (∀ t ∈ s.seqTrouble p c bad (xs.map QRow.seq).eraseDups true, t = none) →
          ((∃ x ∈ xs, s.qRowOk p d a x = false) → ends (.attend c bad) stBadDesc) ∧
          ((∀ x ∈ xs, s.qRowOk p d a x = true) →
            runs (.attend c bad) (∀ x ∈ xs, ∀ h, h < a.h → ∀ pos ∈ s0.seen p x,
              s0.kvLost p bad (s0.seqRec p x.seq) h pos (s0.kvPlace p x.seq pos) = false)))) ∧
      (dOpc o.desc = 0x32 → (Instr.combine c bad).begins s c bad o d = true →
        (s.cmbFields c d m = false → ends (.combine c bad) stBadDesc) ∧
        (s.cmbFields c d m = true → m.rows = 0 → ends (.combine c bad) stDone) ∧
        (s.cmbFields c d m = true → m.rows ≠ 0 →
          (∀ i, i < m.parts → s.readTrouble c bad (localPart m.lin + i * m.linP) (4 * m.rows * m.h) = none ∧
            ∀ t ∈ s.rowsRead c bad (m.inp + i * m.inP) m.rows m.inR (4 * (m.h * m.d)), t = none) →
          (∀ t ∈ s.rowsWrite c m.o m.rows m.oS (s.outBytesOf c d false (m.h * m.d)), t = none) →
          (m.lse = 0 ∨ s.writeTrouble c (localPart m.lse) (4 * m.rows * m.h) = none) → runs (.combine c bad) True))) ∧
   ((∀ (s : State) (p : PartId) (d : Desc) (a : Att) (r : Nat) (x : QRow) (h : Nat) (visits : List Visit),
      let q := (List.range a.d).map fun j =>
        toF32 (s.valAt (dTypeA d) (some (recSpot (dTypeA d) false (a.h * a.d) (localPart a.q + r * a.qS) (h * a.d + j))))
      let mine := visits.filterMap fun v => (v.rows.find? fun y => y.1 = r).map fun y => (v, y.2)
      let none_ := (List.replicate a.d 0, negInf32, true)
      ((∀ y ∈ mine, ∀ pos ∈ y.2, attnScore a.scale q (s.kvPair p a x h y.1 pos).1 = negInf32) →
        s.attHead p d a r x h visits = none_) ∧
      (∀ v pos, mine = [(v, [pos])] →
        let kv := s.kvPair p a x h v pos
        f32Finite (attnScore a.scale q kv.1) = true →
        s.attHead p d a r x h visits = (kv.2, attnScore a.scale q kv.1, false)) ∧
      (∀ rows : List (Nat × QRow), (∀ y ∈ rows, y.1 = r → y.2.hi ≤ y.2.lo) →
        s.attHead p d a r x h (s.visitsOf p rows) = none_)) ∧
    (∀ (scale l o : BitVec 32) (q : List (BitVec 32)) (n j : Nat) (kvs : List (List (BitVec 32) × List (BitVec 32))),
      let ts := kvs.map fun y => (scoreVal scale q y.1, y.2.getD j 0)
      (∀ t ∈ ts, t.1.isNan = false ∧ t.1.isInf = false ∧ f32Finite t.2 = true) →
        attnWithin (attElem scale q n kvs l o j)
          (attnEta q.length (kvs.map fun y => (scoreVal scale q y.1, scoreSize scale q y.1))) n ts = true ∨
        attElem scale q n kvs l o j = attnNearest ts) ∧
    (∀ (s : State) (a : Cmb) (r h : Nat),
      (∀ i, i < a.parts → s.rdN (localPart a.lin + i * a.linP + 4 * (r * a.h + h)) 4 = negInf32.toNat) →
      s.cmbHead a r h = (List.replicate a.d 0, negInf32, true)))

/-! ### Parameter shards, memory-side sums and tumblers (chapters 8, 9) -/

/-- R223, R224: SHARD_GET of a record of this module: illegal arguments or a length that is not the record's complete
BAD_DESCRIPTOR, a generation the record no longer holds STALE_SHARD, an unreadable record RESOURCE_RETIRED. A get whose slot
and destination lie here leaves the slot's bytes at DST, REFS raised in mode 1 and lowered in mode 2, READ as it was, and every
other byte as it was; its result words are the generation and the count. Of a record of another module that module is asked
for the step.
R290: SHARD_GATHER: an illegal descriptor or entry completes BAD_DESCRIPTOR; no entries complete DONE; one entry whose
record, slot and destination lie here completes DONE with one get counted, none failed. -/
def Obligations.ShardGetsAndGathers : Prop :=
   (∀ (c : CoreId) (bad : BadSectors) (s : State) (o : Op) (d : Desc), s.begins c bad o d = true → dOpc o.desc = 0x5D →
      dOpc d = 0x5D →
      let a := s.shardArgs d 0
      let r := s.shardHere (localPart a.place)
      let p := localPart a.place
      let legal := untyped d && onlyFields d [(16, 8), (32, 16), (96, 1), (100, 4)] && decide (dBits d 96 7 2 = 0) &&
        shardArgsOk a
      let fails (st : Status) : Prop := ∃ u, exec (.shardGet c bad) s = .next u ∧ u.mem = s.mem ∧ u.Ended c o.ticket st 0
      (legal = false → exec (.shardGet c bad) s = .next (s.endsAs c o.ticket d stBadDesc 0)) ∧
      (∀ q, legal = true → s.isLocal a.place = false → s.globalTrouble c [] a.place 64 false = none → s.owner c = some q →
        ∃ u tag e, exec (.shardGet c bad) s = .next u ∧ u.mem = s.mem ∧ u.Works c o.ticket (.shard [e]) ∧ e.st = none ∧
          u.fab.reqs = s.fab.reqs ++ [{ tag := tag, owner := .op c o.ticket }]) ∧
      (legal = true → s.isLocal a.place = true → s.coreViolates c p 64 true = none →
        (∀ y, s.uncorrectable bad p 64 = some y → fails stRetired) ∧
        (s.uncorrectable bad p 64 = none →
          (a.len ≠ r.len → fails stBadDesc) ∧
          (a.len = r.len → shardSlot r a.mode a.gen = none → fails stStaleShard) ∧
          (∀ t, a.len = r.len → shardSlot r a.mode a.gen = some t → s.isLocal (r.slots t) = true → s.isLocal a.dst = true →
            s.globalTrouble c [] (r.slots t) a.len false = none → s.globalTrouble c [] a.dst a.len true = none →
            s.uncorrectable bad (localPart (r.slots t)) a.len = none → s.memOk → s.plainData p 64 = true →
            s.plainData (localPart a.dst) a.len = true → overlap p 64 (localPart a.dst) a.len = false →
            overlap p 64 (localPart (r.slots t)) a.len = false →
            let refs := if a.mode = 1 then min (r.refs t + 1) 0xFFFFFFFF else if a.mode = 2 then r.refs t - 1 else r.refs t
            ∃ u, exec (.shardGet c bad) s = .next u ∧
              u.Ended c o.ticket stDone (resultOf (leBytes 4 (if t = r.cur then r.gen else r.pgen) ++ leBytes 4 refs)) ∧
              (∀ i, i < a.len → memGet u.mem (localPart a.dst + i) = s.rdB (localPart (r.slots t) + i)) ∧
              (∀ i, i < 4 → memGet u.mem (p + 32 + 4 * t + i) = byteOf refs i) ∧
              (∀ x, (x < localPart a.dst ∨ localPart a.dst + a.len ≤ x) → (x < p + 32 + 4 * t ∨ p + 36 + 4 * t ≤ x) →
                memGet u.mem x = memGet s.mem x))))) ∧
   (∀ (c : CoreId) (bad : BadSectors) (s : State) (o : Op) (d : Desc), s.begins c bad o d = true → dOpc o.desc = 0x75 →
      dOpc d = 0x75 →
      let n := d32 d 16
      let at' := localPart (d64 d 32)
      let a := s.shardArgs d 0
      let r := s.shardHere (localPart a.place)
      let entriesOk := (List.range n).all fun i => shardArgsOk (s.shardArgs d i) && decide (s.rdN (at' + 32 * i + 30) 2 = 0)
      (s.gatherOk d = false → exec (.shardGather c bad) s = .next (s.endsAs c o.ticket d stBadDesc 0)) ∧
      (s.gatherOk d = true → n = 0 → exec (.shardGather c bad) s = .next (s.endsAs c o.ticket d stDone 0)) ∧
      (s.gatherOk d = true → n ≠ 0 → s.readTrouble c bad at' (32 * n) = none → s.writeTrouble c at' (32 * n) = none →
        (entriesOk = false → exec (.shardGather c bad) s = .next (s.endsAs c o.ticket d stBadDesc 0)) ∧
        (∀ t, entriesOk = true → n = 1 → s.isLocal a.place = true → s.coreViolates c (localPart a.place) 64 true = none →
          s.uncorrectable bad (localPart a.place) 64 = none → a.len = r.len → shardSlot r a.mode a.gen = some t →
          s.isLocal (r.slots t) = true → s.isLocal a.dst = true →
          s.globalTrouble c [] (r.slots t) a.len false = none → s.globalTrouble c [] a.dst a.len true = none →
          s.uncorrectable bad (localPart (r.slots t)) a.len = none →
          ∃ u, exec (.shardGather c bad) s = .next u ∧
            u.Ended c o.ticket stDone (resultOf (leBytes 4 1 ++ leBytes 4 0 ++ leBytes 4 0xFFFFFFFF)))))

/-- R225, R226: SHARD_PUBLISH on a record of this module that no other publish is on: a length that is not the record's
completes BAD_DESCRIPTOR; while the other slot has references the publish waits, keeping its place on the record; with none and
no reader left, SRC's bytes are in the other slot, which is now the current one at the next generation with no references, and
the publish completes DONE, or DONE_DEFERRED if it waited. Behind another publish it waits too, and of a record of another
module that module is asked for the step. -/
def Obligations.ShardPublishInstalls : Prop :=
  ∀ (c : CoreId) (bad : BadSectors) (s : State) (o : Op) (d : Desc),
    let g := d64 d 32
    let p := localPart g
    let r := s.shardHere p
    let t := 1 - r.cur
    let src := localPart (d64 d 40)
    let dst := localPart (r.slots t)
    let n := d64 d 16
    let me := (p, s.publisher c o.ticket)
    let gen := if (r.gen + 1) % 2 ^ 32 = 0xFFFFFFFF then 0 else (r.gen + 1) % 2 ^ 32
    let legal := untyped d && onlyFields d [(16, 8), (32, 16), (96, 1)] && decide (dBits d 96 7 1 = 0) &&
      decide (g % 64 = 0) && inNear p 64 && byteSpace src n
    let ready : Prop := s.memOk ∧ (∀ i, i < n → inPunnet (src + i) = false) ∧ s.isLocal (d64 d 40) = true ∧
      s.isLocal (r.slots t) = true ∧ r.reads t = 0 ∧
      s.coreViolates c dst n true = none ∧ s.coreViolates c src n false = none ∧ s.uncorrectable bad src n = none ∧
      s.plainData p 64 = true ∧ s.plainData dst n = true ∧ overlap p 64 dst n = false ∧ overlap p 64 src n = false
    let installs (i : Instr) (st : Status) : Prop := ∃ u, exec i s = .next u ∧
      u.Ended c o.ticket st (resultOf (leBytes 4 gen ++ leBytes 4 (r.refs t))) ∧
      (∀ i, i < n → memGet u.mem (dst + i) = s.rdB (src + i)) ∧
      (u.shardHere p).gen = gen ∧ (u.shardHere p).pgen = r.gen ∧
      (u.shardHere p).cur = t ∧ (u.shardHere p).refs t = 0 ∧ (u.shardHere p).refs (1 - t) = r.refs (1 - t) ∧
      me ∉ u.fab.publishing ∧ ∀ x, (x < dst ∨ dst + n ≤ x) → (x < p ∨ p + 48 ≤ x) → memGet u.mem x = memGet s.mem x
    (s.begins c bad o d = true → dOpc o.desc = 0x5C →
      (legal = false → exec (.shardPublish c bad) s = .next (s.endsAs c o.ticket d stBadDesc 0)) ∧
      (legal = true → s.globalTrouble c bad g 64 false = none → s.globalTrouble c bad g 64 true = none →
        (∀ q, s.isLocal g = false → s.owner c = some q →
          ∃ u tag w, exec (.shardPublish c bad) s = .next u ∧ u.mem = s.mem ∧ u.Works c o.ticket (.publish w) ∧
            u.fab.reqs = s.fab.reqs ++ [{ tag := tag, owner := .op c o.ticket }]) ∧
        (s.isLocal g = true → r.len ≠ n →
          ∃ u, exec (.shardPublish c bad) s = .next u ∧ u.mem = s.mem ∧ u.Ended c o.ticket stBadDesc 0) ∧
        (s.isLocal g = true → r.len = n → (∃ x ∈ s.fab.publishing, x.1 = p) → me ∉ s.fab.publishing →
          ∃ u w, exec (.shardPublish c bad) s = .next u ∧ u.mem = s.mem ∧ u.Works c o.ticket (.publish w) ∧
            u.fab.publishing = s.fab.publishing ++ [me]) ∧
        (s.isLocal g = true → r.len = n → (∀ x ∈ s.fab.publishing, x.1 ≠ p) →
          (dBits d 96 0 0 = 0 → r.refs t ≠ 0 →
            ∃ u, exec (.shardPublish c bad) s = .next u ∧ u.mem = s.mem ∧ u.fab.publishing = s.fab.publishing ++ [me] ∧
              u.Works c o.ticket (.publish { step := 1, refs := 0, dst := 0, waited := true })) ∧
          ((dBits d 96 0 0 = 1 ∨ r.refs t = 0) → ready → installs (.shardPublish c bad) stDone)))) ∧
    (∀ w : PubWork, s.runsWith c o (.publish w) → o.desc = d → o.xfers = [] → o.tags = [] → w.step ≤ 1 → inNear p 64 = true →
      s.isLocal g = true → s.uncorrectable bad p 64 = none → r.len = n →
      (s.fab.publishing.find? fun x => x.1 = p) = some me →
      (dBits d 96 0 0 = 0 → r.refs t ≠ 0 → exec (.shardPublishResume c o.ticket bad) s =
        .next (s.modOp c o.ticket fun o => { o with work := .publish { w with step := 1, waited := true } })) ∧
      ((dBits d 96 0 0 = 1 ∨ r.refs t = 0) → ready →
        installs (.shardPublishResume c o.ticket bad) (if w.waited then stDeferred else stDone)))

/-- R257: MEMRED within this module: illegal fields complete BAD_DESCRIPTOR; no elements complete DONE; else every element of
DST becomes the sum, or the greater, of its old value and SRC's, every other byte is as it was, and the count is the result. -/
def Obligations.MemredAddsElements : Prop :=
  ∀ (c : CoreId) (bad : BadSectors) (s : State) (o : Op) (d : Desc), s.begins c bad o d = true → dOpc o.desc = 0x68 →
    let e := dBits d 96 1 0
    let n := etypeBytes e
    let len := d64 d 16 * n
    let src := localPart (d64 d 32)
    let dst := localPart (d64 d 40)
    (memredLegal d = false → exec (.memred c bad) s = .next (s.endsAs c o.ticket d stBadDesc 0)) ∧
    (memredLegal d = true → len = 0 → exec (.memred c bad) s = .next (s.endsAs c o.ticket d stDone 0)) ∧
    (memredLegal d = true → len ≠ 0 → s.isLocal (d64 d 32) = true → s.isLocal (d64 d 40) = true → s.memOk →
      s.coreViolates c dst len true = none → s.coreViolates c src len false = none →
      s.uncorrectable bad src len = none → s.uncorrectable bad dst len = none → s.plainData dst len = true →
      ∃ u, exec (.memred c bad) s = .next u ∧ u.Ended c o.ticket stDone (resultOf (leBytes 8 (d64 d 16))) ∧
        SameOutside s u dst len ∧
        ∀ i, i < d64 d 16 → ∀ j, j < n →
          memGet u.mem (dst + n * i + j) =
            byteOf (addElem e (decide (dBits d 96 2 2 = 1)) (s.rdN (dst + n * i) n) (s.rdN (src + n * i) n)) j)

/-- R258 to R262: a claim takes the valid unassigned entry of the lowest index, else the next index in a free entry, answers
none once NEXT reaches the limit, and waits while no entry is free; CLAIM_COPY of a claim that is no longer the core's
completes CLAIM_FENCED and copies nothing; of one that is, it copies its bytes and clears the entry; TUMBLER_RESET clears every
entry, sets NEXT to 0 and the limit, and raises EPOCH. No other byte changes. A tumbler that cannot be read completes each
RESOURCE_RETIRED. -/
def Obligations.TumblersHandOutIndices : Prop :=
  ∀ (c : CoreId) (bad : BadSectors) (s : State) (o : Op) (d : Desc),
    let t := localPart (d64 d 32)
    let words (i e : Nat) : BitVec 128 := resultOf (leBytes 6 i ++ leBytes 2 e)
    let lost (i : Instr) : Prop := s.uncorrectable bad t 4096 ≠ none →
      ∃ u, exec i s = .next u ∧ u.mem = s.mem ∧ u.Ended c o.ticket stRetired 0
    let takes (i : Instr) (st : Status) : Prop :=
      (∀ e, s.unassigned t = some e → ∃ u, exec i s = .next u ∧ SameOutside s u t 4096 ∧
        u.claim t e = { s.claim t e with core := c.val } ∧
        u.Ended c o.ticket st (words (s.claim t e).index (s.claim t e).epoch)) ∧
      (s.unassigned t = none → s.tumbLimit t ≤ s.tumbNext t → ∃ u, exec i s = .next u ∧ u.mem = s.mem ∧
        u.Ended c o.ticket st (words 0xFFFFFFFFFFFF (s.tumbEpoch t))) ∧
      (∀ e, s.unassigned t = none → s.tumbNext t < s.tumbLimit t →
        tumbEntries.find? (fun e => !(s.claim t e).valid) = some e → ∃ u, exec i s = .next u ∧ SameOutside s u t 4096 ∧
        u.claim t e = { index := s.tumbNext t, epoch := s.tumbEpoch t, core := c.val, valid := true } ∧
        u.tumbNext t = s.tumbNext t + 1 ∧ u.Ended c o.ticket st (words (s.tumbNext t) (s.tumbEpoch t)))
    let waits : Prop := s.unassigned t = none ∧ s.tumbNext t < s.tumbLimit t ∧ ∀ e, e < 252 → (s.claim t e).valid = true
    let reads : Prop := s.uncorrectable bad t 4096 = none
    s.memOk → inNear t 4096 = true →
    (s.begins c bad o d = true → dOpc o.desc = 0x69 →
      let legal := plainHeader d && decide (dBmode d = 0) && onlyFields d [(32, 8)] && s.tumbOk c (d64 d 32)
      (legal = false → exec (.tumblerClaim c bad) s = .next (s.endsAs c o.ticket d stBadDesc 0)) ∧
      (legal = true → lost (.tumblerClaim c bad)) ∧
      (legal = true → reads → takes (.tumblerClaim c bad) stDone) ∧
      (legal = true → reads → waits → ∃ u, exec (.tumblerClaim c bad) s = .next u ∧ u.mem = s.mem ∧ u.Works c o.ticket .claim)) ∧
    (s.runsWith c o .claim → o.desc = d →
      lost (.claimWaitEnd c o.ticket bad) ∧ (reads → takes (.claimWaitEnd c o.ticket bad) stDeferred) ∧
      (reads → waits → exec (.claimWaitEnd c o.ticket bad) s = .next s)) ∧
    (s.begins c bad o d = true → dOpc o.desc = 0x6A → dOpc d = 0x6A →
      let n := d64 d 16
      let src := localPart (d64 d 40)
      let dst := localPart (d64 d 48)
      let legal := claimCopyLegal d && s.tumbOk c (d64 d 32)
      let mine := s.findClaim t (dN d 24 6) (dN d 30 2) c.val
      (legal = false → exec (.claimCopy c bad) s = .next (s.endsAs c o.ticket d stBadDesc 0)) ∧
      (legal = true → lost (.claimCopy c bad)) ∧
      (legal = true → reads → mine = none → exec (.claimCopy c bad) s = .next (s.endsAs c o.ticket d stClaimFenced 0)) ∧
      (∀ e, legal = true → reads → mine = some e → n = 0 → ∃ u, exec (.claimCopy c bad) s = .next u ∧
        SameOutside s u (t + 64 + 16 * e) 16 ∧ (u.claim t e).valid = false ∧
        u.Ended c o.ticket stDone (resultOf (leBytes 8 0))) ∧
      (∀ e, legal = true → reads → mine = some e → n ≠ 0 → s.isLocal (d64 d 40) = true → s.isLocal (d64 d 48) = true →
        s.coreViolates c dst n true = none → s.coreViolates c src n false = none → s.uncorrectable bad src n = none →
        s.plainData dst n = true → overlap t 4096 dst n = false →
        ∃ u, exec (.claimCopy c bad) s = .next u ∧ u.Ended c o.ticket stDone (resultOf (leBytes 8 n)) ∧
          (u.claim t e).valid = false ∧ (∀ i, i < n → memGet u.mem (dst + i) = s.rdB (src + i)) ∧
          ∀ x, (x < dst ∨ dst + n ≤ x) → (x < t + 64 + 16 * e ∨ t + 80 + 16 * e ≤ x) →
            memGet u.mem x = memGet s.mem x)) ∧
    (s.begins c bad o d = true → dOpc o.desc = 0x6B →
      let legal := plainHeader d && decide (dBmode d = 0) && onlyFields d [(16, 8), (32, 8)] && s.tumbOk c (d64 d 32) &&
        decide (d64 d 16 < 2 ^ 48)
      (legal = false → exec (.tumblerReset c bad) s = .next (s.endsAs c o.ticket d stBadDesc 0)) ∧
      (legal = true → lost (.tumblerReset c bad)) ∧
      (legal = true → reads → ∃ u, exec (.tumblerReset c bad) s = .next u ∧ SameOutside s u t 4096 ∧ u.tumbNext t = 0 ∧
        u.tumbEpoch t = (s.tumbEpoch t + 1) % 65536 ∧ u.tumbLimit t = d64 d 16 ∧
        (∀ e, e < 252 → (u.claim t e).valid = false) ∧
        u.Ended c o.ticket stDone (words (s.tumbNext t) ((s.tumbEpoch t + 1) % 65536))))

/-! ### The fabric (chapters 2 and 10) -/

/-- R27, R31, R277, R278: an access of another module that exists and for which the partition has credits leaves as one
request: a load, atomic or SEM keeps its thread in WAIT_MEM with the request's tag, a store joins the unperformed ones with
its tag and the thread goes on; READ and WRITE go to the address's module with the bytes' address, count and data. To one
that does not exist, or without credits, the access is a violation. -/
def Obligations.RemoteAccessesLeave : Prop :=
  ∀ (c : CoreId) (t : ThreadId) (w : IWord) (s : State) (p : PartId), s.runs c t w = true → s.owner c = some p →
    let x := s.thread c t
    let far (g : Word) (n : Nat) : Prop := s.isLocal g.toNat = false ∧ g.toNat % n = 0
    let goes (g : Word) (op : Byte) (n : Nat) (data : List Byte) (u : State) (tag : BitVec 16) : Prop :=
      s.stopped p = false → s.reaches (modulePart g.toNat) (dieOfCore c).val →
      u.sent { cls := 1, vc := 0, op := op, part := BitVec.ofNat 4 p.val, fn := 0,
               dest := BitVec.ofNat 18 (modulePart g.toNat), src := s.fab.moduleId, tag := tag, len := BitVec.ofNat 16 n,
               addr := BitVec.ofNat 46 (localPart g.toNat), data := data }
    let waits (i : Instr) (g : Word) (k : AccKind) (more : State → BitVec 16 → Prop) : Prop :=
      ∃ u tag, exec i s = .next u ∧ u.mem = s.mem ∧ u.fab.reqs = s.fab.reqs ++ [{ tag := tag, owner := .threadAcc c t }] ∧
        u.thread c t = { x.wait .waitMem with
          acc := some { kind := k, rd := wRd w, addr := g, rb := s.rb c t w, cmp := x.reg (wRd w), tag := some tag } } ∧
        more u tag
    (∀ f ∈ ([(.ldb c t w, 1, false), (.ldh c t w, 2, false), (.ldw c t w, 4, false), (.ldd c t w, 8, false),
             (.ldws c t w, 4, true)] : List (Instr × Nat × Bool)), f.1.spelled = true →
      let g := s.memOperand c t w f.2.1
      far g f.2.1 →
        (s.mayRemote p g.toNat = true → waits f.1 g (.load f.2.1 f.2.2) (goes g 0x01 f.2.1 [])) ∧
        (s.mayRemote p g.toNat = false → ∃ u, exec f.1 s = .next u ∧ Froze s u c t 0x03 (localPart g.toNat))) ∧
    (∀ f ∈ ([(.stb c t w, 1), (.sth c t w, 2), (.stw c t w, 4), (.std c t w, 8)] : List (Instr × Nat)),
      f.1.spelled = true →
      let g := s.memOperand c t w f.2
      let v := x.reg (wRd w)
      far g f.2 → s.mayRemote p g.toNat = true → x.stores.length < 8 → x.pc ≠ 0xFFFFF →
        ∃ u tag, exec f.1 s = .next u ∧ u.mem = s.mem ∧
          u.fab.reqs = s.fab.reqs ++ [{ tag := tag, owner := .threadStore c t }] ∧
          u.thread c t = { x.next with stores := x.stores ++ [{ addr := g, size := f.2, val := v, tag := some tag }] } ∧
          goes g 0x02 f.2 (leBytes f.2 v.toNat) u tag) ∧
    (∀ f ∈ ([(.amo64 c t w, 8, .amo64 (w.word.extractLsb' 0 2) (w.word.extractLsb' 2 2)),
             (.amo32 c t w, 4, .amo32 (w.word.extractLsb' 0 2) (w.word.extractLsb' 2 2)),
             (.amof c t w, 4, .amof (w.word.extractLsb' 0 2) (w.word.extractLsb' 2 2)),
             (.semAcquire c t w, 8, .semAcq (w.word.extractLsb' 1 3)), (.semRelease c t w, 8, .semRel (w.word.extractLsb' 1 3))] :
             List (Instr × Nat × AccKind)), f.1.spelled = true →
      let g := s.ra c t w
      far g f.2.1 → localPart g.toNat < 0x4800000000 → s.mayRemote p g.toNat = true → x.stores = [] →
      (s.part p).leaseExpired c t g = false → waits f.1 g f.2.2 fun _ _ => True)

/-- R31, R58, R229, R279: the response to a thread's remote access: RDATA gives a load its value; ACK takes a store off the
thread's list; NACK freezes the thread with cause 0x03, 0x07 or 0x08 at the address.
R43, R278, R279: the last response of a COPY: ACK of its last piece completes it DONE, the last data of a remote source
are written at DST and complete it DONE, and NACK completes it RESOURCE_RETIRED. -/
def Obligations.RemoteResponsesArrive : Prop :=
   (∀ (i : Nat) (c : CoreId) (t : ThreadId) (s : State) (l : LinkId) (m : Msg) (q : Req),
      s.fab.reqs.find? (fun r => r.tag = m.tag) = some q → q.tag = m.tag →
      let x := s.thread c t
      let cause : Byte := if m.fn = 0x01 then 0x03 else if m.fn = 0x02 then 0x07 else 0x08
      let freezes (y : Thread) (a : Nat) (u : State) : Prop := u.thread c t =
        { y with st := .frozen, resetPend := false, acc := none, held := none,
                 fault := { valid := true, cause := cause,
                            addr := BitVec.ofNat 46 (if m.fn = 0x02 then a / 64 * 64 else a) } }
      (∀ a n signed, s.inMsg i opRdata = some (l, m) → q.owner = .threadAcc c t → x.st = .waitMem → x.acc = some a →
        a.tag = some m.tag → a.kind = .load n signed → x.resetPend = false → (s.core c).reg.frzCore = false → x.pc ≠ 0xFFFFF →
        ∃ u, exec (.rdata i) s = .next u ∧ u.mem = s.mem ∧ (∀ r ∈ u.fab.reqs, r.tag ≠ m.tag) ∧
          u.thread c t = x.returned.setReg a.rd
            (if signed then (BitVec.ofNat 32 (leNat m.data)).signExtend 64 else BitVec.ofNat 64 (leNat m.data % 2 ^ (8 * n)))) ∧
      (∀ k : Nat, q.owner = .threadStore c t → x.stores.findIdx? (fun y => y.tag = some m.tag) = some k →
        (s.inMsg i opAck = some (l, m) → x.held = none → x.acc = none →
          ∃ u, exec (.fabAck i) s = .next u ∧ u.mem = s.mem ∧ u.thread c t = { x with stores := x.stores.eraseIdx k }) ∧
        (s.inMsg i opNack = some (l, m) → x.st ≠ .idle → x.st ≠ .frozen →
          ∃ u, exec (.nack i) s = .next u ∧ u.mem = s.mem ∧
            freezes { x with stores := x.stores.eraseIdx k } m.addr.toNat u)) ∧
      (∀ a, s.inMsg i opNack = some (l, m) → q.owner = .threadAcc c t → x.st = .waitMem → x.acc = some a →
        a.tag = some m.tag → ∃ u, exec (.nack i) s = .next u ∧ u.mem = s.mem ∧ freezes x (localPart a.addr.toNat) u)) ∧
   (∀ (i : Nat) (c : CoreId) (s : State) (o : Op) (l : LinkId) (m : Msg) (q : Req) (x : Xfer),
      s.fab.reqs.find? (fun r => r.tag = m.tag) = some q → q.tag = m.tag → q.owner = .op c o.ticket →
      s.findOp c o.ticket = some o → o.phase = .running → o.work = .none → dOpc o.desc = 0x02 → o.xfers = [x] →
      x.kind = .copy → x.len ≤ x.pos + s.chunkLen x →
      (s.inMsg i opAck = some (l, m) → ∃ u, exec (.fabAck i) s = .next u ∧ u.mem = s.mem ∧ u.Ended c o.ticket stDone 0) ∧
      (s.inMsg i opNack = some (l, m) → m.fn ≠ 0x40 → ∃ u, exec (.nack i) s = .next u ∧ u.mem = s.mem ∧
        u.Ended c o.ticket stRetired 0) ∧
      (s.inMsg i opRdata = some (l, m) → s.isLocal x.dst = true → s.memOk → m.data.length = s.chunkLen x →
        s.plainData (localPart x.dst + x.pos) m.data.length = true →
        ∃ u, exec (.rdata i) s = .next u ∧ u.Ended c o.ticket stDone 0 ∧
          SameOutside s u (localPart x.dst + x.pos) m.data.length ∧
          ∀ j, j < m.data.length → some (memGet u.mem (localPart x.dst + x.pos + j)) = m.data[j]?))

/-- R257, R278, R279, R386: a request of another module: READ is answered with the bytes, WRITE and BWRITE store theirs, BADD
adds into each element, an atomic's word takes its new value and its old one is answered; a request that fails a check
changes no memory and is answered NACK with its cause, and a violation freezes the pair of module and partition. -/
def Obligations.RequestsAreServed : Prop :=
  ∀ (i : Nat) (bad : BadSectors) (s : State) (l : LinkId) (m : Msg),
    let a := m.addr.toNat
    let n := m.data.length
    let answers (u : State) (op fn : Byte) (data : List Byte) : Prop := s.reaches m.src.toNat (s.dieOf a) →
      u.sent { cls := 2, vc := 0, op := op, part := m.part, fn := fn, dest := m.src, src := s.fab.moduleId, tag := m.tag,
               len := BitVec.ofNat 16 data.length, addr := m.addr, data := data }
    let rows : List (Instr × Byte × BadSectors × Nat × Bool × Bool × Bool) :=
      [(.fabRead i bad, opRead, bad, m.len.toNat, true, false, false), (.fabWrite i, opWrite, [], n, false, true, false),
       (.bwrite i, opBwrite, [], n, false, true, false), (.badd i bad, opBadd, bad, n, true, true, false),
       (.fabAmo i bad, opAmo, bad, amoSize m, true, true, true)]
    (∀ f ∈ rows,
      (s.inMsg i f.2.1 = none → exec f.1 s = .next s) ∧
      (∀ x, s.inMsg i f.2.1 = some (l, m) →
        s.requestFault m f.2.2.2.1 f.2.2.1 f.2.2.2.2.1 f.2.2.2.2.2.1 f.2.2.2.2.2.2 = some x →
        ∃ u, exec f.1 s = .next u ∧ u.mem = s.mem ∧ answers u opNack x [] ∧
          (x = 0x01 → s.fab.frozenPairs.length < 64 → ∀ p : PartId, m.part.toNat = p.val →
            (m.src, p) ∈ u.fab.frozenPairs))) ∧
    (s.inMsg i opRead = some (l, m) → s.requestFault m m.len.toNat bad true false false = none →
      ∃ u, exec (.fabRead i bad) s = .next u ∧ u.mem = s.mem ∧ answers u opRdata 0 (s.rd a m.len.toNat)) ∧
    (∀ f ∈ ([(.fabWrite i, opWrite), (.bwrite i, opBwrite)] : List (Instr × Byte)), s.inMsg i f.2 = some (l, m) →
      s.requestFault m n [] false true false = none → s.memOk → s.plainData a n = true →
      ∃ u, exec f.1 s = .next u ∧ SameOutside s u a n ∧ (∀ j, j < n → some (memGet u.mem (a + j)) = m.data[j]?) ∧
        answers u opAck 0 []) ∧
    (s.inMsg i opBadd = some (l, m) → s.requestFault m n bad true true false = none → s.memOk → s.plainData a n = true →
      let e := m.fn.toNat % 4
      let z := etypeBytes e
      n % z = 0 →
      ∃ u, exec (.badd i bad) s = .next u ∧ SameOutside s u a n ∧ answers u opAck 0 [] ∧
        ∀ j k, j < n / z → k < z → memGet u.mem (a + z * j + k) =
          byteOf (addElem e (m.fn.getLsbD 2) (s.rdN (a + z * j) z) (leNat ((m.data.drop (z * j)).take z))) k) ∧
    (s.inMsg i opAmo = some (l, m) → s.requestFault m (amoSize m) bad true true true = none → s.memOk →
      s.plainData a (amoSize m) = true → m.fn.toNat / 16 < 2 →
      let z := amoSize m
      ∃ u, exec (.fabAmo i bad) s = .next u ∧ answers u opRdata 0 (leBytes z (s.rdN a z)) ∧
        Stores s u a z (amoNew z (m.fn.toNat / 4 % 4) (s.rdN a z) (leNat (m.data.take z)) (leNat ((m.data.drop z).take z))))

/-- R265, R266, R268, R276: flits on an UP link with nothing queued: a bad one is dropped and RETRY asks for the expected SEQ,
one out of order is ignored; a DATA flit in order that completes one message for this module brings it in, or latches FAB_VIOL
where it is malformed, and is acknowledged; an acknowledgement frees the retry buffer up to it and credits are the sender's
again; a RETRY replays what is left, and the eighth replay of one SEQ retrains the link. A link that is not UP takes none of
them. -/
def Obligations.FlitsAreTaken : Prop :=
  ∀ (l : LinkId) (f : Flit) (s : State),
    let k := s.link l
    let rest (a : BitVec 12) := k.retry.filter fun x => !acked a x.seq
    (∀ i ∈ ([.dataFlitReceive l f, .idleFlitReceive l f, .retryFlitReceive l f] : List Instr),
      (k.st ≠ .up → exec i s = .next s) ∧
      (k.st = .up → f.good = false → ∃ u x, exec i s = .next u ∧ u.mem = s.mem ∧ u.fab.fabIn = s.fab.fabIn ∧
        u.fab.fabSent = s.fab.fabSent ++ [(l, x)] ∧ x.kind = 2 ∧ x.ackv = true ∧ x.ack = k.expSeq ∧ x.msgs = [] ∧
        (u.link l).expSeq = k.expSeq ∧ (u.link l).retry = k.retry ∧ (u.link l).outq = k.outq ∧
        (u.link l).fecUnc = if f.fec = .uncorrectable then k.fecUnc + 1 else k.fecUnc)) ∧
    (k.st = .up → f.good = true → k.outq = [] →
      (f.seq ≠ k.expSeq → exec (.dataFlitReceive l f) s = .next s) ∧
      (∀ b left, f.seq = k.expSeq →
        takeMsgs (k.partSlots ++ f.slots.take 13).length (k.partSlots ++ f.slots.take 13) = ([b], left) →
        let answers (u : State) : Prop := ∃ x, (l, x) ∈ u.fab.fabSent ∧ x.kind = 1 ∧ x.ackv = true ∧ x.ack = f.seq
        (msgGood b = true → (msgOf b).dest = s.fab.moduleId →
          ∃ u, exec (.dataFlitReceive l f) s = .next u ∧ u.mem = s.mem ∧ u.fab.fabIn = s.fab.fabIn ++ [(l, msgOf b)] ∧
            answers u ∧ (u.link l).expSeq = k.expSeq + 1 ∧ (u.link l).rx = k.rx + 1 ∧ (u.link l).partSlots = left) ∧
        (msgGood b = false → k.vValid = false →
          ∃ u, exec (.dataFlitReceive l f) s = .next u ∧ u.mem = s.mem ∧ u.fab.fabIn = s.fab.fabIn ∧ answers u ∧
            (u.link l).expSeq = k.expSeq + 1 ∧ (u.link l).vValid = true ∧ (u.link l).vCause = 0xF)) ∧
      (∃ u, exec (.idleFlitReceive l f) s = .next u ∧ u.mem = s.mem ∧ (u.link l).expSeq = k.expSeq ∧
        (u.link l).retry = (if f.ackv then rest f.ack else k.retry) ∧
        (u.link l).haspAvail = k.haspAvail + (if f.cv = true ∧ f.cvc.val < 2 then f.ccnt else 0) ∧
        ∀ (p : PartId) (v : Fin 8), vget (vget (u.link l).avail p) v =
          vget (vget k.avail p) v + (if f.cv = true ∧ 2 ≤ f.cvc.val ∧ p = f.cpart ∧ v = f.cvc then f.ccnt else 0)) ∧
      (rest (f.ack - 1) = [] → ∃ u, exec (.retryFlitReceive l f) s = .next u ∧ (u.link l).retry = [] ∧
        (u.link l).st = .up ∧ (u.link l).retries = k.retries) ∧
      (rest (f.ack - 1) ≠ [] → rest (f.ack - 1) ≠ k.retry → ∃ u, exec (.retryFlitReceive l f) s = .next u ∧
        (u.link l).retry = rest (f.ack - 1) ∧ (u.link l).st = .up ∧ (u.link l).retries = k.retries + 1 ∧
        (u.link l).replays = 1 ∧ ∀ x ∈ rest (f.ack - 1), (l, x) ∈ u.fab.fabSent) ∧
      (k.retry ≠ [] → rest (f.ack - 1) = k.retry → k.replays = 7 → ∃ u, exec (.retryFlitReceive l f) s = .next u ∧
        ((u.link l).st = .training ∨ (u.link l).st = .retired) ∧ (u.link l).retrains = k.retrains + 1))

/-- R269 to R273: training: a TRAIN flit on a TRAINING link leaves its peer's record, and on one that is UP means that it
retrains; training that is done brings the link UP with all its credits and sequence numbers at 0 when the peer checks pass and
both positions are known, REFUSED with the first failed check's cause when one fails, and holds while no image is applied; a
link of a dimension of size 1 goes DOWN; training that fails leads to FAILOVER or RETIRED; a link that is UP again takes new
messages once its pair has none of them left. -/
def Obligations.LinksTrain : Prop :=
  ∀ (l : LinkId) (i : TrainInfo) (s : State),
    let k := s.link l
    let done := exec (.linkTrainingDone l) s
    (k.st = .down ∨ k.st = .retired → exec (.trainFlitReceive l i) s = .next s) ∧
    (k.st = .training → s.imaged = false →
      exec (.trainFlitReceive l i) s = .next (s.modLink l fun x => { x with peerValid := true, peer := i, flitOk := true })) ∧
    (k.st = .refused → s.imaged = false → ∃ u, exec (.trainFlitReceive l i) s = .next u ∧ (u.link l).st = .training ∧
      (u.link l).peer = i ∧ (u.link l).rcause = 0) ∧
    (k.st = .up → s.imaged = false → ∃ u, exec (.trainFlitReceive l i) s = .next u ∧ (u.link l).peer = i ∧
      ((u.link l).st = .training ∨ (u.link l).st = .retired) ∧ (u.link l).retrains = k.retrains + 1) ∧
    ((k.st ≠ .training ∧ k.st ≠ .failover) ∨ k.flitOk = false → done = .next s) ∧
    ((k.st = .training ∨ k.st = .failover) → k.flitOk = true →
      (s.imaged = false → done = .next (s.modLink l fun x => { x with trained := true })) ∧
      (s.imaged = true → s.unused l = true → ∃ u, done = .next u ∧ u.mem = s.mem ∧ (u.link l).st = .down) ∧
      (s.imaged = true → s.unused l = false → s.fab.posValid = true → k.peer.posValid = true →
        (s.peerCheck l = none → k.outq = [] → (s.link (pairOf l)).outq = [] →
          ∃ u, done = .next u ∧ u.mem = s.mem ∧ (u.link l).st = .up ∧
          (u.link l).rcause = 0 ∧ (u.link l).avail = k.cred ∧ (u.link l).haspAvail = k.haspCred ∧
          (u.link l).nextSeq = 0 ∧ (u.link l).expSeq = 0 ∧ (u.link l).retry = []) ∧
        (∀ x, s.peerCheck l = some x → ∃ u, done = .next u ∧ u.mem = s.mem ∧ (u.link l).st = .refused ∧
          (u.link l).rcause = x))) ∧
    ((k.st ≠ .training ∧ k.st ≠ .failover) → exec (.linkTrainingFail l) s = .next s) ∧
    ((k.st = .training ∨ k.st = .failover) → ∃ u, exec (.linkTrainingFail l) s = .next u ∧
      ((u.link l).st = .failover ∨ (u.link l).st = .retired) ∧ (u.link l).failEvents = k.failEvents + 1) ∧
    (let back := k.st = .up ∧ k.failover = true ∧ k.onPair = [] ∧ (s.link (pairOf l)).outq = []
     (¬back → exec (.failoverReturn l) s = .next s) ∧
     (back → k.outq = [] → k.returned = [] → k.ackDue = false →
       exec (.failoverReturn l) s = .next (s.modLink l fun x => { x with failover := false })))

/-! ### Objects, their moves, and prefetch schedules (chapter 9) -/

/-- R229, R247 to R253: an object operation with illegal fields, of an unknown object, or of one not shared with the partition
completes BAD_DESCRIPTOR, one of a POISONED object WEIGHT_LOST, and one that cannot read the object table RESOURCE_RETIRED, with
memory unchanged. With no move of the object in progress CREATE makes its record resident and dirty, PROMOTE to a lower or equal
tier pins, PROMOTE and EVICT start a move, PIN counts pins, WRITEBACK cleans the extents, DELETE frees the record and QUERY
copies it. -/
def Obligations.ObjectOperations : Prop :=
  ∀ (c : CoreId) (bad : BadSectors) (s : State) (o : Op) (d : Desc) (p : PartId), s.begins c [] o d = true →
    s.begins c bad o d = true → s.owner c = some p → s.memOk → s.tablesApart = true → dOpc d = dOpc o.desc →
    let id := dN d 32 6
    let tier := dBits d 96 1 0
    let addr := d64 d 40
    let pin := decide (dBits d 96 2 2 = 1)
    let n := d32 d 16
    let quiet (i : Instr) (st : Status) (r : BitVec 128) : Prop :=
      ∃ u, exec i s = .next u ∧ u.mem = s.mem ∧ u.Ended c o.ticket st r
    (∀ f ∈ ([(.objCreate c, 0x60, []), (.objPromote c, 0x61, []), (.objEvict c bad, 0x62, bad), (.objPin c, 0x63, []),
              (.objWriteback c bad [], 0x64, bad), (.objDelete c, 0x65, []), (.objQuery c bad, 0x66, bad)] :
              List (Instr × Nat × BadSectors)), dOpc o.desc = f.2.1 →
      (objFields d = false → exec f.1 s = .next (s.endsAs c o.ticket d stBadDesc 0)) ∧
      (objFields d = true → f.2.1 ≠ 0x66 → (f.2.1 = 0x60 → tier ≠ 1) → s.tableLost f.2.2 ≠ none → quiet f.1 stRetired 0) ∧
      (s.tableLost f.2.2 = none → f.2.1 ≠ 0x60 → (∀ i, s.findObj id = some i → (s.obj i).share / 2 ^ p.val % 2 = 0) →
        quiet f.1 stBadDesc 0) ∧
      (∀ i, objFields d = true → s.tableLost f.2.2 = none → 0x61 ≤ f.2.1 → f.2.1 ≤ 0x64 → s.findObj id = some i →
        (s.obj i).share / 2 ^ p.val % 2 = 1 → (s.obj i).st = obPoisoned →
        (f.2.1 = 0x61 ∨ f.2.1 = 0x62 ∧ tier = 2 → s.placeOk (some i) tier addr ((s.obj i).extents * 65536) (s.obj i).share = true) →
        (f.2.1 = 0x63 → pin = true ∨ (s.obj i).pin p.val ≠ 0) →
        quiet f.1 stWeightLost (objResult i 0 (s.obj i).addr))) ∧
    (objFields d = true → s.tableLost bad = none →
      (∀ i, dOpc o.desc = 0x60 → tier ≠ 1 → s.findObj id = none → s.freeSlot = some i →
        let share := d16 d 98 ||| 2 ^ p.val
        s.placeOk (some i) tier addr (n * 65536) share = true → s.tier.slowLost = false →
        (n ≤ s.tier.slowFree.toNat ∧ s.chargeIn p.val tier + n ≤ s.budgetOf p tier →
          ∃ u, exec (.objCreate c) s = .next u ∧ OnlySlot s u i ∧ u.Ended c o.ticket stDone (objResult i 0 addr) ∧
            u.obj i = { id := id, st := tier, dest := 0, holder := p.val, owner := p.val, extents := n, share := share,
                        near := if tier = 3 then addr else noAddr, far := if tier = 2 then addr else noAddr, dirty := n,
                        pins := List.replicate 16 0 }) ∧
        (¬(n ≤ s.tier.slowFree.toNat ∧ s.chargeIn p.val tier + n ≤ s.budgetOf p tier) →
          quiet (.objCreate c) stAdmitRefused 0)) ∧
      ∀ i, s.findObj id = some i → (s.obj i).share / 2 ^ p.val % 2 = 1 → (s.obj i).st ≠ obPoisoned → s.findMove i = none →
        let r := s.obj i
        let cur := (r.copy.map Prod.fst).getD 1
        let placed := s.placeOk (some i) tier addr (r.extents * 65536) r.share
        let others : Prop := ∀ q, q < 16 → q ≠ p.val → r.pin q = 0
        let leaves (k : Instr) (st : Status) (w : Nat) (r' : ObjRec) : Prop :=
          ∃ u, exec k s = .next u ∧ OnlySlot s u i ∧ u.obj i = r' ∧ u.Ended c o.ticket st (objResult i w r'.addr)
        let moves (k : Instr) (r' : ObjRec) (wrote : List Nat) : Prop :=
          ∃ u m, exec k s = .next u ∧ OnlySlot s u i ∧ u.obj i = r' ∧ u.Works c o.ticket .object ∧
            u.tier.moves = s.tier.moves ++ [m] ∧ m.slot = i ∧ m.dest.toNat = tier ∧ m.extents = r.extents ∧ m.wrote = wrote
        (dOpc o.desc = 0x61 → placed = true →
          (tier ≤ cur → pin = false → quiet (.objPromote c) stDone (objResult i 0 r.addr)) ∧
          (tier ≤ cur → pin = true →
            leaves (.objPromote c) stDone 0 { r with pins := r.pins.set p.val ((r.pin p.val + 1) % 65536) }) ∧
          (cur < tier → pin = false → ¬(cur = 1 ∧ s.tier.slowLost = true) →
            (s.chargeIn p.val tier + { r with holder := p.val }.chargeOf p.val ≤ s.budgetOf p tier →
              moves (.objPromote c) { r with holder := p.val, st := obUp, dest := tier } []) ∧
            (s.budgetOf p tier < s.chargeIn p.val tier + { r with holder := p.val }.chargeOf p.val →
              quiet (.objPromote c) stAdmitRefused 0))) ∧
        (dOpc o.desc = 0x62 → (tier = 2 → placed = true) →
          let sent := (s.dirtyList i).filter fun e => s.copyReadable bad r.addr e
          (r.pinned = true → quiet (.objEvict c bad) stNotEvicted (objResult i 0 r.addr)) ∧
          (r.pinned = false → r.copy ≠ none → r.extents ≤ 16384 → (s.dirtyList i = [] ∨ s.slowWritable = true) →
            moves (.objEvict c bad)
              { r with st := obDown, dest := tier, dirty := (s.dirtyList i).length - sent.length } sent)) ∧
        (dOpc o.desc = 0x63 →
          (pin = true → r.pin p.val < 65535 → leaves (.objPin c) stDone (r.pin p.val + 1)
            { r with pins := r.pins.set p.val (r.pin p.val + 1) }) ∧
          (pin = false → r.pin p.val ≠ 0 → leaves (.objPin c) stDone (r.pin p.val - 1)
            { r with pins := r.pins.set p.val (r.pin p.val - 1) }) ∧
          (pin = false → r.pin p.val = 0 → quiet (.objPin c) stBadDesc 0)) ∧
        (∀ fails, dOpc o.desc = 0x64 →
          (r.copy = none → quiet (.objWriteback c bad fails) stDone (objResult i 0 noAddr)) ∧
          (r.copy ≠ none → s.dirtyList i ≠ [] → s.slowWritable = false → quiet (.objWriteback c bad fails) stRetired 0) ∧
          (r.copy ≠ none → s.slowWritable = true → (∀ e ∈ s.dirtyList i, s.copyReadable bad r.addr e = true) →
            ∃ u, exec (.objWriteback c bad fails) s = .next u ∧ OnlySlot s u i ∧ u.obj i = { r with dirty := 0 } ∧
              u.Ended c o.ticket stDone (objResult i 0 r.addr) ∧
              ∀ x, s.slowObj r.id = some x → Memory.wf x.data = true → ∀ e ∈ s.dirtyList i,
                u.readExtent r.id e = s.rd (r.addr + e * 65536) 65536)) ∧
        (dOpc o.desc = 0x65 → others →
          ∃ u, exec (.objDelete c) s = .next u ∧ OnlySlot s u i ∧ (u.obj i).st = obFree ∧
            u.tier.slowFree = s.tier.slowFree + BitVec.ofNat 32 r.extents ∧
            u.Ended c o.ticket stDone (objResult i 0 noAddr)) ∧
        (dOpc o.desc = 0x65 → ¬others → quiet (.objDelete c) stNotEvicted (objResult i 0 r.addr)) ∧
        (dOpc o.desc = 0x66 → d64 d 48 % 64 = 0 → s.herePart (d64 d 48) = true → byteSpace (localPart (d64 d 48)) 128 = true →
          s.writeTrouble c (localPart (d64 d 48)) 128 = none → s.plainData (localPart (d64 d 48)) 128 = true →
          ∃ u, exec (.objQuery c bad) s = .next u ∧ SameOutside s u (localPart (d64 d 48)) 128 ∧
            (∀ j, j < 128 → memGet u.mem (localPart (d64 d 48) + j) = memGet s.mem (s.objRec i + j)) ∧
            u.Ended c o.ticket stDone (objResult i 0 r.addr)))

/-- R229, R244 to R246, R253 to R256: the end of a move whose requests all joined it leaves the object in its destination with
its data there, or POISONED where data was lost, and a move down that flash can no longer take is undone; a patrol poisons the
objects of a lost page; a maintenance operation scrubs a block that is due and erases it, or moves a stripe where the erase
counts spread too far. A schedule checks its list at start, starts the entries its progress word allows, writes each entry's
readiness word, and completes with the lowest failed entry's status. -/
def Obligations.ObjectMovesAndSchedules : Prop :=
  ∀ (s : State), s.memOk → s.tablesApart = true → s.tableLost [] = none →
    (∀ id pages bad fails,
      (s.moveOf id true = none → exec (.moveUpDone id pages bad) s = .next s) ∧
      (s.moveOf id false = none → exec (.moveDownDone id pages bad fails) s = .next s)) ∧
    (∀ id pages bad m, s.moveOf id true = some m → m.slot < s.tier.objCount.toNat → s.slowWaits = false →
      let n := m.extents * 65536
      let dst := m.dstAddr.toNat
      let lost : Prop := anyLost (s.readsOf pages m.id (s.rereads m bad)) = true ∨ ∃ e, e < m.extents ∧ s.upExtent m bad e = none
      (lost → ∃ u, exec (.moveUpDone id pages bad) s = .next u ∧
        u.findMove m.slot = none ∧ (u.obj m.slot).st = obPoisoned) ∧
      (¬lost → (∀ w ∈ m.waiters, w.joined = true) → s.plainData dst n = true →
        ∃ u, exec (.moveUpDone id pages bad) s = .next u ∧ u.findMove m.slot = none ∧
          u.obj m.slot = { s.obj m.slot with
            st := m.dest.toNat
            dest := 0
            near := if m.dest = 3 then dst else noAddr
            far := if m.dest = 2 then dst else noAddr } ∧
          ∀ e bs j b, e < m.extents → s.upExtent m bad e = some bs → bs[j]? = some b →
            memGet u.mem (dst + e * 65536 + j) = b)) ∧
    (∀ id pages bad fails m, s.moveOf id false = some m → m.slot < s.tier.objCount.toNat → s.slowWaits = false →
      let i : Instr := .moveDownDone id pages bad fails
      let n := m.extents * 65536
      let dst := m.dstAddr.toNat
      let first := if m.create then List.range m.extents else (s.dirtyList m.slot).filter fun e => !m.wrote.contains e
      let again := (s.dirtyList m.slot).filter fun e => m.wrote.contains e
      let lost := first.any fun e => !s.copyReadable bad m.srcAddr.toNat e
      let leaves (r : ObjRec) (u : State) : Prop := exec i s = .next u ∧ u.findMove m.slot = none ∧ u.obj m.slot = r
      (lost = true → ∃ u, exec i s = .next u ∧ u.findMove m.slot = none ∧ (u.obj m.slot).st = obPoisoned) ∧
      (lost = false → (∀ w ∈ m.waiters, w.joined = true) →
        (first ≠ [] → s.slowWritable = false →
          (m.create = true → ∃ u, exec i s = .next u ∧ u.findMove m.slot = none ∧ (u.obj m.slot).st = obFree) ∧
          (m.create = false → ∃ u, leaves { s.obj m.slot with st := m.src.toNat, dest := 0 } u ∧ OnlySlot s u m.slot)) ∧
        ((first = [] ∨ s.slowWritable = true) →
          (m.create = true → ∃ u, leaves { s.obj m.slot with st := obSlow, dest := 0 } u) ∧
          (m.create = false → m.dest ≠ 2 →
            ∃ u, leaves { s.obj m.slot with st := obSlow, dest := 0, near := noAddr, far := noAddr, dirty := 0 } u ∧
              OnlySlot s u m.slot) ∧
          (m.create = false → m.dest = 2 → anyLost (s.readsOf pages m.id (again ++ s.rereads m bad)) = true →
            ∃ u, exec i s = .next u ∧ u.findMove m.slot = none ∧ (u.obj m.slot).st = obPoisoned) ∧
          (m.create = false → m.dest = 2 → anyLost (s.readsOf pages m.id (again ++ s.rereads m bad)) = false →
            s.plainData dst n = true →
            ∃ u, leaves { s.obj m.slot with st := obFar, dest := 0, near := noAddr, far := dst, dirty := 0 } u ∧
              ∀ e j b, e < m.extents → (s.downExtent m bad e)[j]? = some b → memGet u.mem (dst + e * 65536 + j) = b)))) ∧
    (∀ pages fails,
      ((s.tier.slowLost = true ∨ s.slowWaits = true) → exec (.patrolPass pages fails) s = .next s) ∧
      (s.tier.slowLost = false → s.slowWaits = false → ∃ u, exec (.patrolPass pages fails) s = .next u ∧
          ∀ r ∈ pages, r.out = .lost → ∀ id k i, s.readOf r = some (id, k) → s.findObj id.toNat = some i →
            (u.obj i).st = obPoisoned)) ∧
    (∀ ch fails,
      let x := vget s.tier.slow ch
      let i : Instr := .slowMaintenanceOperation ch fails
      let works := !s.tier.slowLost && x.up && s.maintOn && !s.slowWaitsAt ch
      let spread := decide (s.tier.spread.toNat < x.wearMax.toNat - x.wearMin.toNat)
      (works = false ∨ (s.scrubDue ch = none ∧ spread = false) → exec i s = .next s) ∧
      (works = true → ∃ u, exec i s = .next u ∧ u.mem = s.mem ∧ u.cores = s.cores ∧
        ∀ b, s.scrubDue ch = some b →
          let y := u.blockAt ch b.die b.num
          y.reads = 0 ∧ y.scrub = false ∧ ∃ k, y.erases = some (k + 1))) ∧
    (∀ (c : CoreId) (o : Op) (d : Desc), s.begins c [] o d = true → dOpc o.desc = 0x67 →
      let n := pfCount d
      (s.pfFields c d = false → exec (.prefetch c) s = .next (s.endsAs c o.ticket d stBadDesc 0)) ∧
      (s.pfFields c d = true → n = 0 → exec (.prefetch c) s = .next (s.endsAs c o.ticket d stDone
        (resultOf (leBytes 4 0 ++ leBytes 4 0 ++ leBytes 4 0xFFFFFFFF)))) ∧
      (s.pfFields c d = true → n ≠ 0 → s.readTrouble c [] (localPart (d64 d 32)) (32 * n) = none →
        s.writeTrouble c (localPart (d64 d 48)) (8 * n) = none → s.coreViolates c (localPart (d64 d 40)) 8 false = none →
        ((∀ i, i < n → s.pfOk d i = true) → ∃ u, exec (.prefetch c) s = .next u ∧ u.mem = s.mem ∧
          u.Works c o.ticket (.prefetch { next := 0, inflight := [], done := [] })) ∧
        (¬(∀ i, i < n → s.pfOk d i = true) → exec (.prefetch c) s = .next (s.endsAs c o.ticket d stBadDesc 0)))) ∧
    (∀ (c : CoreId) (o : Op) (w : PrefetchWork) (bad : BadSectors), s.runsWith c o (.prefetch w) →
      let a := localPart (d64 o.desc 40)
      let starts := decide (w.next < pfCount o.desc) && decide (w.inflight.length < d8 o.desc 96) &&
        decide ((s.pfEntry o.desc w.next).atValue ≤ s.rdN a 8)
      s.readTrouble c bad a 8 = none →
      (starts = false → exec (.prefetchProgressPoll c o.ticket bad) s = .next s) ∧
      (starts = true → s.tier.moves = [] → ∃ u w', exec (.prefetchProgressPoll c o.ticket bad) s = .next u ∧
        u.Works c o.ticket (.prefetch w') ∧ w.next < w'.next)) ∧
    (∀ (c : CoreId) (o : Op) (w : PrefetchWork) (i : Nat), s.runsWith c o (.prefetch w) →
      let a := localPart (d64 o.desc 48) + 8 * i
      let left := w.inflight.filter (· ≠ i)
      (i ∉ w.inflight → exec (.prefetchEntryDone c o.ticket i) s = .next s) ∧
      (∀ st, i ∈ w.inflight → w.done.find? (fun x => x.1 = i) = some (i, st) → s.plainData a 8 = true →
        ∃ u, exec (.prefetchEntryDone c o.ticket i) s = .next u ∧ SameOutside s u a 8 ∧
          (∀ j, j < 8 → memGet u.mem (a + j) = byteOf (2 ^ 63 + st.toNat) j) ∧
          (left ≠ [] ∨ w.next ≠ pfCount o.desc → u.Works c o.ticket (.prefetch { w with inflight := left })) ∧
          (left = [] → w.next = pfCount o.desc → u.Ended c o.ticket (pfResult w.done).1 (pfResult w.done).2)))

/-! ### Collectives, ALLTOALL and WAIT_WORD (chapter 10) -/

/-- R283 to R289: a collective with illegal fields, tables or buffers completes BAD_DESCRIPTOR. One that starts writes its own
two words as (RUN, COUNT 0); with one member the local copy alone runs and it completes DONE with no steps; a reduction waits
until its successor's RUN matches, then adds its segment to the successor's buffer, signals the successor's RS word and counts
a step. A waiting member that finds FAIL completes with the lowest status found, and one whose count is complete completes
DONE; a failed member passes FAIL on to its successor before it completes. WAIT_WORD completes once the word is at least
VALUE. -/
def Obligations.CollectivesGoRoundTheRing : Prop :=
  ∀ (c : CoreId) (bad : BadSectors) (s : State) (o : Op) (d : Desc),
    (∀ f ∈ ([(.allgather c bad, 0x70), (.reduceScatter c bad, 0x71), (.allreduce c bad, 0x72)] : List (Instr × Nat)),
      s.begins c bad o d = true → dOpc o.desc = f.2 → dOpc d = f.2 →
      let a := collOf d
      let me := s.member a a.me
      let nxt := s.member a a.succ
      let n := s.collBytes a
      let own := localPart me.ctl
      let inp := localPart me.inp
      let out := localPart me.out
      let reads (x m : Nat) : Prop := s.uncorrectable bad x m = none
      let free (x m : Nat) : Prop := s.plainData x m = true ∧ overlap x m a.gtab (32 * a.p) = false ∧
        overlap x m a.seg (4 * a.p) = false
      let legal := collFields d && s.collTables d
      (legal = false → exec f.1 s = .next (s.endsAs c o.ticket d stBadDesc 0)) ∧
      (legal = true → s.readTrouble c bad a.gtab (32 * a.p) = none → s.readTrouble c bad a.seg (4 * a.p) = none →
        (s.collOk a = false → exec f.1 s = .next (s.endsAs c o.ticket d stBadDesc 0)) ∧
        (s.collOk a = true → (∀ t ∈ s.collTroubles c a, t = none) → s.memOk → free own 16 → reads own 64 →
          overlap own 64 inp n = false →
          (a.p = 1 → reads inp n → overlap own 64 out n = false → free out n →
            ∃ u r, exec f.1 s = .next u ∧ u.Ended c o.ticket stDone r ∧ r.toNat % 2 ^ 32 = 0 ∧
              (∀ i, i < 8 → memGet u.mem (own + i) = byteOf (a.run * 2 ^ 48) i ∧
                memGet u.mem (own + 8 + i) = byteOf (a.run * 2 ^ 48) i) ∧
              (∀ i, i < n → memGet u.mem (out + i) = s.rdB (inp + i)) ∧
              ∀ x, (x < own ∨ own + 16 ≤ x) → (x < out ∨ out + n ≤ x) → memGet u.mem x = memGet s.mem x) ∧
          (2 ≤ a.p → f.2 ≠ 0x70 → s.isLocal nxt.ctl = true →
            let nctl := localPart nxt.ctl
            let j := (a.me + a.p - 1) % a.p
            let dst := localPart nxt.inp + s.segOff a j
            let src := inp + s.segOff a j
            let len := s.segBytes a j
            let e := etypeBytes a.etype
            overlap own 64 nctl 64 = false →
            (runMatches a.run (s.rd nctl 64) = false →
              ∃ u, exec f.1 s = .next u ∧ SameOutside s u own 16 ∧
                u.Works c o.ticket (.coll { ag := false, k := 1, sent := false, ready := false, steps := 0 })) ∧
            (runMatches a.run (s.rd nctl 64) = true → s.isLocal nxt.inp = true → free dst len → free nctl 8 →
              reads src len → reads dst len → reads nctl 8 →
              overlap dst len own 64 = false → overlap dst len nctl 64 = false →
              ∃ u, exec f.1 s = .next u ∧
                u.Works c o.ticket (.coll { ag := false, k := 2, sent := false, ready := true, steps := 1 }) ∧
                (∀ i, i < 8 → memGet u.mem (nctl + i) = byteOf ((s.rdN nctl 8 + 1) % 2 ^ 64) i) ∧
                ∀ i, i < s.segLen a j → ∀ b, b < e →
                  memGet u.mem (dst + e * i + b) =
                    byteOf (addElem a.etype a.mx (s.rdN (dst + e * i) e) (s.rdN (src + e * i) e)) b))))) ∧
    (∀ w, s.runsWith c o (.coll w) → o.xfers = [] → o.tags = [] →
      let a := collOf o.desc
      let own := localPart (s.member a a.me).ctl
      let rs := s.rdN own 8
      let ag := s.rdN (own + 8) 8
      let v := if w.ag then ag else rs
      let count := if bitsOf v 63 48 = a.run then bitsOf v 15 0 else 0
      let fails := match failIn a.run rs, failIn a.run ag with
        | some x, some y => some (if y < x then y else x)
        | some x, none => some x
        | none, y => y
      let ends (st : Status) : Prop := ∃ u r, exec (.collectiveWaitPoll c o.ticket bad) s = .next u ∧ u.mem = s.mem ∧
        u.Ended c o.ticket st r ∧ r.toNat % 2 ^ 32 = w.steps % 2 ^ 32
      (s.uncorrectable bad own 64 ≠ none → ends stRetired) ∧
      (s.uncorrectable bad own 64 = none →
        (∀ st, fails = some st → ends st) ∧
        (fails = none → count + 1 < w.k →
          ∃ u, exec (.collectiveWaitPoll c o.ticket bad) s = .next u ∧ u.mem = s.mem ∧ u.Works c o.ticket (.coll w)) ∧
        (fails = none → w.k ≤ count + 1 → a.p ≤ w.k → w.ag = true → ends stDone))) ∧
    (∀ st, s.mayComplete c o.ticket = some (o, st) → s.failDue c o st = true →
      s.isLocal (s.member (collOf o.desc) (collOf o.desc).succ).ctl = false →
      ∃ u x t₁ t₂, exec (.opComplete c o.ticket) s = .next u ∧ u.mem = s.mem ∧
        u.fab.reqs = s.fab.reqs ++ [{ tag := t₁, owner := .op c o.ticket }, { tag := t₂, owner := .op c o.ticket }] ∧
        u.findOp c o.ticket = some x ∧ x.phase = .finished st ∧ x.work = .failing) ∧
    (s.begins c [] o d = true → dOpc o.desc = 0x7E →
      let a := localPart (d64 d 32)
      (s.waitWordOk c d = false → exec (.waitWord c) s = .next (s.endsAs c o.ticket d stBadDesc 0)) ∧
      (s.waitWordOk c d = true → (s.coreViolates c a 8 false).isSome = true →
        ∃ u, exec (.waitWord c) s = .next u ∧ HeldByViolation s u c o) ∧
      (s.waitWordOk c d = true → s.coreViolates c a 8 false = none →
        ∃ u, exec (.waitWord c) s = .next u ∧ u.mem = s.mem ∧ u.Works c o.ticket .waitWord)) ∧
    (s.runsWith c o .waitWord →
      let a := localPart (d64 o.desc 32)
      ((s.uncorrectable bad a 8).isSome = true →
        ∃ u, exec (.waitWordPoll c o.ticket bad) s = .next u ∧ u.mem = s.mem ∧ u.Ended c o.ticket stRetired 0) ∧
      (s.uncorrectable bad a 8 = none → d64 o.desc 96 ≤ s.rdN a 8 →
        exec (.waitWordPoll c o.ticket bad) s = .next (s.ends c o.ticket stDone 0)) ∧
      (s.uncorrectable bad a 8 = none → s.rdN a 8 < d64 o.desc 96 → exec (.waitWordPoll c o.ticket bad) s = .next s))

/-- R291: ALLTOALL with illegal fields or an illegal table completes BAD_DESCRIPTOR, and with no rows DONE. DISPATCH counts a
row whose expert has no member as dropped; a row of a member of this module takes the cursor's next slot, which gets its bytes
and the origin word; RETURN writes a received row to its origin address. Both then raise each member's DONE word by one. -/
def Obligations.AlltoallMovesRows : Prop :=
  ∀ (c : CoreId) (bad : BadSectors) (s : State) (o : Op) (d : Desc), s.begins c bad o d = true → dOpc o.desc = 0x73 →
    ∀ f ∈ ([(.alltoallDispatch c bad, false), (.alltoallReturn c bad, true)] : List (Instr × Bool)),
      (a2aOf o.desc).ret = f.2 → (a2aOf d).ret = f.2 →
      let a := a2aOf d
      let x := s.a2aMember a 0
      let done := localPart x.done
      let ends (st : Status) (u : State) (counts : List Nat) : Prop :=
        exec f.1 s = .next u ∧ u.Ended c o.ticket st (a2aResult counts)
      let reads (p : Nat × Nat) : Prop := s.uncorrectable bad p.1 p.2 = none
      let bumped (u : State) : Prop := ∀ i, i < 8 → memGet u.mem (done + i) = byteOf ((s.rdN done 8 + 1) % 2 ^ 64) i
      (s.a2aFields d = false → exec f.1 s = .next (s.endsAs c o.ticket d stBadDesc 0)) ∧
      (s.a2aFields d = true → a.rows = 0 → exec f.1 s = .next (s.endsAs c o.ticket d stDone 0)) ∧
      (s.a2aFields d = true → a.rows ≠ 0 → s.readTrouble c bad a.gtab (32 * a.members) = none →
        (s.a2aTable a = false ∨ f.2 = true ∧ s.ownMember a = none → exec f.1 s = .next (s.endsAs c o.ticket d stBadDesc 0)) ∧
        (s.a2aTable a = true → s.memOk → s.sound → a.members = 1 → s.isLocal x.done = true → inNear done 8 = true →
          s.noCopy done 8 = true → reads (done, 8) →
          (f.2 = false → s.readTrouble c bad a.tag (2 * a.rows) = none → s.readTrouble c bad a.exp (2 * a.nexp) = none →
            s.readTrouble c [] (localPart a.src) ((a.rows - 1) * a.srcStride + a.rbytes) = none →
            (∀ t ∈ ((s.dispatchXfers a ++ s.a2aBumps a).flatMap Xfer.places).map
              (fun p => s.globalTrouble c [] p.1 p.2 true), t = none) →
            ((∀ r, r < a.rows → s.rowMember a r = none) → ∃ u, ends stDone u [0, a.rows, 0] ∧ bumped u ∧
              SameOutside s u done 8) ∧
            (a.rows = 1 → s.rowMember a 0 = some 0 → s.isLocal x.cur = true →
              let cur := localPart x.cur
              let k := s.rdN cur 8
              let slot := localPart (x.base + k * a.dstStride)
              let word := localPart (x.base + x.cap * a.dstStride + 8 * k)
              let src := localPart a.src
              k < x.cap → s.isLocal (x.base + k * a.dstStride) = true →
              s.isLocal (x.base + x.cap * a.dstStride + 8 * k) = true → inNear cur 8 = true →
              s.noCopy cur 8 = true → s.noCopy slot a.rbytes = true → s.noCopy word 8 = true →
              reads (cur, 8) → reads (src, a.rbytes) →
              List.Pairwise (fun p q : Nat × Nat => overlap p.1 p.2 q.1 q.2 = false)
                [(cur, 8), (slot, a.rbytes), (word, 8), (done, 8), (src, a.rbytes)] →
              ∃ u, ends stDone u [1, 0, 0] ∧ bumped u ∧
                (∀ i, i < 8 → memGet u.mem (cur + i) = byteOf (k + 1) i) ∧
                (∀ i, i < a.rbytes → memGet u.mem (slot + i) = s.rdB (src + i)) ∧
                ∀ i, i < 8 → memGet u.mem (word + i) = byteOf (s.globalOf a.res) i)) ∧
          (f.2 = true → s.ownMember a = some x → s.readTrouble c bad (localPart x.cur) 8 = none →
            let n := min (s.rdN (localPart x.cur) 8) x.cap
            let words := localPart x.base + x.cap * a.dstStride
            let row := localPart x.base
            let to' := s.rdN words 8
            let dst := localPart to'
            n = 1 → s.readTrouble c [] row a.rbytes = none → s.readTrouble c bad words 8 = none → reads (row, a.rbytes) →
            s.globalTrouble c [] to' a.rbytes true = none → s.globalTrouble c [] x.done 8 true = none →
            inNear words 8 = true → s.isLocal to' = true → s.noCopy dst a.rbytes = true →
            List.Pairwise (fun p q : Nat × Nat => overlap p.1 p.2 q.1 q.2 = false)
              [(dst, a.rbytes), (done, 8), (row, a.rbytes)] →
            ∃ u, ends stDone u [1, 0, 0] ∧ bumped u ∧ ∀ i, i < a.rbytes → memGet u.mem (dst + i) = s.rdB (row + i))))

/-! ### The near and far tiers (chapter 9) -/

/-- R228, R233 to R238, R241: a retrain is counted, and one that crosses the threshold starts the channel's evacuation, or loses
it when no more may be retired. A granule copied is served at its new place, poisoned there where it could not be read; the
last copy retires the channel, and the next queued retirement starts, or every waiting channel is LOST. Only the module
controller and maintenance sessions run a traffic generator, in the rows that hold no data; its run writes the pattern to them
and counts its checks. A far port that stays down is RETIRED: clean objects there become SLOW_ONLY, dirty ones POISONED, and
moves from it end. -/
def Obligations.ChannelsAndPortsRetire : Prop :=
  (∀ (ch : ChanId) (ok : Bool) (s : State),
    let x := s.chan ch
    (x.serves = false → exec (.channelRetrainEnd ch ok) s = .next s) ∧
    (x.serves = true → (vat s.esp.thresholds 0).getD 0xFFFFFFFF = 0xFFFFFFFF →
      ∃ u more, exec (.channelRetrainEnd ch ok) s = .next u ∧ u.mem = s.mem ∧ u.cores = s.cores ∧ 1 ≤ more ∧ more ≤ 4 ∧
        (ok = false → more = 4) ∧
        u.chan ch = { x with
          retrains := x.retrains + 1
          retries := x.retries + 4 + BitVec.ofNat 24 more
          retrainEvents := x.retrainEvents + 1 } ∧
        ∀ k, k ≠ ch → u.chan k = s.chan k) ∧
    (x.st = .serving → vat s.esp.thresholds 0 = some 1 → s.tier.evac = none →
      ∃ u, exec (.channelRetrainEnd ch ok) s = .next u ∧ u.mem = s.mem ∧
        (s.nret < s.tier.nretMax.toNat → (u.chan ch).st = .evacuating ∧ ∃ e, u.tier.evac = some e ∧ e.ch = ch ∧ e.copied = []) ∧
        (s.tier.nretMax.toNat ≤ s.nret → (u.chan ch).st = .lost ∧ u.rep.faultHeld = true))) ∧
  (∀ (g : Nat) (bad : BadSectors) (s : State),
    (s.tier.evac = none → exec (.granuleCopyPerformed g bad) s = .next s ∧ exec (.evacuationEnd bad) s = .next s) ∧
    (∀ e, s.tier.evac = some e →
      (g ∉ e.copied → g * 256 < s.nearTop → s.newPlace e.ch g ≠ s.placeOf (g * 256) → 1 < e.left →
        let lost := s.granuleLost bad g
        ∃ u, exec (.granuleCopyPerformed g bad) s = .next u ∧ u.mem = s.mem ∧
          u.tier.evac = some { e with left := e.left - 1, copied := g :: e.copied } ∧
          u.placeOf (g * 256) = s.newPlace e.ch g ∧
          (∀ x, x ∉ sectorsOf g → (x ∈ u.poisoned ↔ x ∈ s.poisoned)) ∧
          (lost = [] → ∀ x, x ∈ u.poisoned ↔ x ∈ s.poisoned) ∧
          (lost ≠ [] → (∀ ch, (s.chan ch).poison.length + 4 ≤ 1024) →
            (∀ x ∈ lost, x ∈ u.poisoned) ∧
            ((s.placeOf (g * 256)).1 = e.ch.val → ∀ x ∈ sectorsOf g, x ∈ u.poisoned))) ∧
      (∃ u, exec (.evacuationEnd bad) s = .next u ∧ u.mem = s.mem ∧ u.tier.nretPos = s.tier.nretPos ++ [e.ch] ∧
        (u.chan e.ch).st = .retired ∧ u.rep.lrValid = true ∧
        ((∀ ch, (s.chan ch).poison = []) → s.poison = [] →
          (bad.length * 4 ≤ 1024 → ∀ x ∈ bad, s.toCopy e (x / 4) = true →
            x ∈ u.poisoned ∧ ((s.placeOf (x / 4 * 256)).1 = e.ch.val → ∀ y ∈ sectorsOf (x / 4), y ∈ u.poisoned)) ∧
          ((∀ x ∈ bad, s.toCopy e (x / 4) = false) →
            (s.tier.retireQueue = [] → u.tier.evac = none ∧ ∀ k, k ≠ e.ch → u.chan k = s.chan k) ∧
            (∀ q rest, s.tier.retireQueue = q :: rest → s.nret + 1 < s.tier.nretMax.toNat → (s.chan q.1).st = .serving →
              q.1 ≠ e.ch → u.tier.evac.map Evac.ch = some q.1 ∧ u.tier.retireQueue = rest) ∧
            (s.tier.nretMax.toNat ≤ s.nret + 1 →
              u.tier.evac = none ∧ u.tier.retireQueue = [] ∧
              ∀ q ∈ s.tier.retireQueue, q.1 ≠ e.ch → (s.chan q.1).st = .serving → (u.chan q.1).st = .lost)))))) ∧
  (∀ (m : Master) (ch : ChanId) (s : State),
    let x := s.chan ch
    ((s.maintains m = false ∨ x.tgBusy = true) → exec (.nearTgCtlStart m ch) s = .next s) ∧
    (s.maintains m = true → x.tgBusy = false →
      ∃ u, exec (.nearTgCtlStart m ch) s = .next u ∧ u.mem = s.mem ∧ (∀ k, k ≠ ch → u.chan k = s.chan k) ∧
        (s.tgRangeOk ch = false → u.chan ch = { x with tgRefused := true }) ∧
        (s.tgRangeOk ch = true → u.chan ch = { x with
          tgBusy := true, tgStop := false, tgRefused := false, tgErrors := 0, tgChecked := 0, tgFValid := false, tgFRow := 0,
          tgFSector := 0 })) ∧
    ((s.maintains m = false ∨ x.tgBusy = false) → exec (.nearTgCtlStop m ch) s = .next s) ∧
    (s.maintains m = true → x.tgBusy = true →
      ∃ u, exec (.nearTgCtlStop m ch) s = .next u ∧ u.mem = s.mem ∧ (∀ k, k ≠ ch → u.chan k = s.chan k) ∧
        u.chan ch = { x with tgStop := true })) ∧
  (∀ (ch : ChanId) (checked : BitVec 32) (failing : List (BitVec 23 × BitVec 2)) (s : State),
    let x := s.chan ch
    let row (i : Nat) := s.rowAddr ch (x.tgFirst.toNat + i)
    let seen := failing.filter fun f => decide (x.tgFirst.toNat ≤ f.1.toNat ∧ f.1.toNat < x.tgFirst.toNat + x.tgRows.toNat)
    ((x.tgBusy = false ∨ x.tgPasses = 0 ∧ x.tgStop = false) → exec (.tgRunEnd ch checked failing) s = .next s) ∧
    (x.tgBusy = true → (x.tgPasses ≠ 0 ∨ x.tgStop = true) →
      ∃ u n, exec (.tgRunEnd ch checked failing) s = .next u ∧ n ≤ x.tgRows.toNat ∧ (x.tgStop = false → n = x.tgRows.toNat) ∧
        (u.chan ch).tgBusy = false ∧ (u.chan ch).tgStop = false ∧
        (u.chan ch).tgChecked = (if x.tgStop = true then checked
          else BitVec.ofNat 32 (4 * x.tgRows.toNat * x.tgReads.toNat * x.tgPasses.toNat)) ∧
        (u.chan ch).tgErrors = BitVec.ofNat 32 seen.length ∧ ((u.chan ch).tgFValid = true ↔ seen ≠ []) ∧
        (∀ f, seen.head? = some f → (u.chan ch).tgFRow = f.1 ∧ (u.chan ch).tgFSector = f.2) ∧
        ((∀ i, i < x.tgRows.toNat → row i = none) → u.mem = s.mem ∧ ∀ k, k ≠ ch → u.chan k = s.chan k) ∧
        (s.memOk →
          (∀ y, (∀ i a, i < n → row i = some a → y < a ∨ a + 256 ≤ y) → memGet u.mem y = memGet s.mem y) ∧
          (s.allSound = true → ∀ i a k, i < n → row i = some a → k < 256 →
            memGet u.mem (a + k) = Config.tgPattern x.tgPattern ch.val (x.tgFirst.toNat + i) k)))) ∧
  (∀ (p : PortId) (s : State),
    let f := vget s.tier.far p
    let lies (i : Nat) : Prop := i < s.tier.objCount.toNat ∧ s.farOn p (s.obj i) = true
    let isMoving (i : Nat) : Prop := (s.obj i).st = obUp ∨ (s.obj i).st = obDown
    (f.st ≠ .up → f.st ≠ .training → exec (.farPortRetire p) s = .next s) ∧
    (f.st = .up ∨ f.st = .training →
      ∃ u, exec (.farPortRetire p) s = .next u ∧ (vget u.tier.far p).st = .retired ∧
        (s.memOk → s.tablesApart = true → s.tableLost [] = none →
          ((∀ i, lies i → s.findMove i = none) →
            (∀ q, q ≠ p → vget u.tier.far q = vget s.tier.far q) ∧
            ∀ i, lies i → (s.obj i).st = obFar →
              ((s.obj i).dirty = 0 → u.obj i = { s.obj i with st := obSlow, dest := 0, far := noAddr }) ∧
              ((s.obj i).dirty ≠ 0 → (u.obj i).st = obPoisoned)) ∧
          (∀ i m, lies i → isMoving i → s.findMove i = some m → (∀ j, lies j → j ≠ i → s.findMove j = none) →
            ((s.obj i).dirty ≠ 0 → u.findMove i = none ∧ (u.obj i).st = obPoisoned) ∧
            ((s.obj i).dirty = 0 → (m.up = true → m.waiters = []) → (∀ w ∈ m.waiters, w.joined = true) →
              u.findMove i = none ∧ u.obj i = { s.obj i with st := obSlow, dest := 0, far := noAddr })))) ∧
    (∀ retrains : Bool,
      (f.st ≠ .up → exec (.farLinkLoss p retrains) s = .next s) ∧
      (f.st = .up → ∃ u, exec (.farLinkLoss p retrains) s = .next u ∧ u.mem = s.mem ∧
        (vget u.tier.far p).st = (if retrains = true then .up else .training) ∧
        (vget u.tier.far p).replays = f.replays + 1 ∧ ∀ q, q ≠ p → vget u.tier.far q = vget s.tier.far q)))

/-! ### The image and the partitions (chapters 11 and 12) -/

/-- R310 to R316, R441: a load waits behind every one that arrived earlier and starts in its turn; one that arrived while another
was not complete ends DONE_DEFERRED. An image that fails validation completes BAD_IMAGE
with its cause and section and changes no structure; a FULL image in state NONE is applied, and its partitions open their first
step; one of another layout is staged; one of the same layout, or a PARTIAL one, holds its partitions. Held partitions that do
not drain have their operations ended; once drained the load is refused and they resume, waits for their leases, or commits. -/
def Obligations.ImagesAreLoaded : Prop :=
  ∀ (h : BitVec 32) (s : State) (c : HCmd), s.accepted h c →
    let img := c.data
    let front := decide (c.opc = 0x30) && c.full
    (s.esp.loadsWaiting = [] → exec .waitingLoadStart s = .next s) ∧
    (c.deferred = false → s.cmdReady h 0x30 = none → exec (.imageLoad h) s = .next s) ∧
    (s.cmdReady h 0x30 = some c → c.full = true → (s.loadBusy = true ∨ s.loadAhead h = true) →
      ∃ u, exec (.imageLoad h) s = .next u ∧ u.mem = s.mem ∧ u.esp.loadsWaiting = s.esp.loadsWaiting ++ [h] ∧
        u.findCmd h = some { c with deferred := true }) ∧
    (∀ (i : Instr) (late : Bool), front = true → s.loadBusy = false → s.loadAhead h = false →
      ((i = .imageLoad h ∧ late = false ∧ s.cmdReady h 0x30 = some c) ∨
       (i = .waitingLoadStart ∧ late = true ∧ c.deferred = true ∧ s.ready = true ∧
          (s.fct.cmds.find? fun x => s.esp.loadsWaiting.contains x.handle) = some c)) →
      let done := if late = true ∨ c.behind = true then stDeferred else stDone
      (∀ r, s.validate img false = some r → ∃ u w, exec i s = .next u ∧ u.mem = s.mem ∧ u.parts = s.parts ∧
        u.esp.sections = s.esp.sections ∧ u.reports c stBadImage w ∧ u.esp.espErrValid = true ∧
        w.toNat % 65536 = r.cause % 256 + 256 * (r.sec % 256) ∧
        (s.esp.espErrValid = false → u.esp.espErrCause = BitVec.ofNat 8 r.cause)) ∧
      (s.validate img false = none →
        (s.esp.espSt = .none → s.unheld → ∃ u, exec i s = .next u ∧ u.esp.espSt = .loaded ∧ u.esp.imgCurrent = some img ∧
          u.esp.sections = (secTable img).map SecEntry.applied ∧ u.esp.espLoads = s.esp.espLoads + 1 ∧
          (∀ p : PartId, (imgPmask img).getLsbD p.val = true → (u.part p).st = .step) ∧ u.reports c done 0) ∧
        (s.esp.espSt ≠ .none → (imgPartial img = true ∨ s.sameLayout img = true) → ∃ u l, exec i s = .next u ∧
          u.mem = s.mem ∧ u.esp.espSt = .holding ∧ u.esp.load = some l ∧ l.handle = h ∧ l.img = img ∧
          l.pmask = imgPmask img ∧ (∀ p ∈ s.existing, (l.pmask ||| l.rmask).getLsbD p.val = true → (u.part p).holdReq = true)) ∧
        (s.esp.espSt ≠ .none → imgPartial img = false → s.sameLayout img = false → ∃ u, exec i s = .next u ∧
          u.mem = s.mem ∧ u.parts = s.parts ∧ u.esp.sections = s.esp.sections ∧ u.esp.imgStaged = some img ∧
          u.reports c done 0))) ∧
    (∀ p, s.esp.load = none → exec (.loadDrainTimeout p) s = .next s ∧ exec .partialLoadApply s = .next s) ∧
    (∀ l, s.esp.load = some l → l.handle = h → c.atHold = false →
      let named := s.namedParts (l.pmask ||| l.rmask)
      (∀ p, s.esp.espSt = .holding → (s.part p).st = .held → (l.pmask ||| l.rmask).getLsbD p.val = true →
        (∀ k ∈ s.coresOf p, ∀ o ∈ (s.core k).ops, ∀ w, o.work ≠ .ctl w) →
        ∃ u, exec (.loadDrainTimeout p) s = .next u ∧ ∀ k ∈ s.coresOf p, ∀ o ∈ (u.core k).ops, ∃ st, o.phase = .finished st) ∧
      ((∃ p ∈ named, s.drained p = false) → exec .partialLoadApply s = .next s) ∧
      ((∀ p ∈ named, s.drained p = true) → s.esp.espSt ≠ .applying → ∀ r, s.recheck l.img = some r →
        ∃ u w, exec .partialLoadApply s = .next u ∧ u.mem = s.mem ∧ u.esp.espSt = .loaded ∧ u.esp.load = none ∧
          u.esp.sections = s.esp.sections ∧ u.reports c stBadImage w ∧
          ∀ p ∈ named, (u.part p).st = .step ∧ (u.part p).holdReq = false ∧ (u.part p).hinges = (s.part p).hinges + 1) ∧
      ((∀ p ∈ named, s.drained p = true) → (s.esp.espSt = .applying ∨ s.recheck l.img = none) →
        ((∃ p ∈ named, (s.part p).leasesHeld ≠ 0) → ∃ u, exec .partialLoadApply s = .next u ∧ u.mem = s.mem ∧
          u.esp.espSt = .applying ∧ u.esp.load = some l ∧ ∀ p ∈ named, (s.part p).leasesHeld ≠ 0 → (u.part p).waitLease = true) ∧
        ((∀ p ∈ named, (s.part p).leasesHeld = 0) → s.unheld → ∃ u, exec .partialLoadApply s = .next u ∧
          u.esp.espSt = .loaded ∧ u.esp.load = none ∧ u.esp.espLoads = s.esp.espLoads + 1 ∧ u.reports c c.loadDone 0 ∧
          (∀ p : PartId, l.pmask.getLsbD p.val = true → (u.part p).st = .step) ∧
          ∀ p : PartId, l.rmask.getLsbD p.val = true → l.pmask.getLsbD p.val = false → (u.part p).st = .absent)))

/-- R320 to R326, R329, R330: PART_END by a master of the partition, or by a session with the right, ends the step: its cores
are fenced at their next ticket and the boundary list is kept; one written later is marked. Once the step's operations are
complete the boundary list is read and the stages run in turn, to a hinge point or to the next step; the hinge actions end in
the next step, or in the hold that a load has asked for. A step past its budget is ended, its operations with it. -/
def Obligations.StepsEndAtBoundaries : Prop :=
  ∀ (p : PartId) (s : State),
    let x := s.part p
    let stays (i : Instr) : Prop := exec i s = .next s
    (∀ (m : Master) (v : Word),
      ((s.mayEndStep m p = false ∨ x.st = .absent) → stays (.partEnd m p v)) ∧
      (s.mayEndStep m p = true → x.st = .step → ∃ u, exec (.partEnd m p v) s = .next u ∧ u.mem = s.mem ∧
        (u.part p).st = .quiesce ∧ (u.part p).bd.list = v.setWidth 46 ∧ (u.part p).bd.count = v.extractLsb' 48 16 ∧
        (∀ q, q ≠ p → u.part q = s.part q) ∧
        ∀ c, u.core c = if c ∈ s.coresOf p then { s.core c with fenced := true, latch := (s.core c).next } else s.core c) ∧
      (s.mayEndStep m p = true → x.st ≠ .step → x.st ≠ .absent → ∃ u, exec (.partEnd m p v) s = .next u ∧
        u.cores = s.cores ∧ u.mem = s.mem ∧ u.part p = { x with bd := { x.bd with late := true } })) ∧
    (∀ bad, ((x.st ≠ .quiesce ∨ s.quiesced p = false) → stays (.quiesceDone p bad)) ∧
      (x.st = .quiesce → s.quiesced p = true → ∃ u, exec (.quiesceDone p bad) s = .next u ∧ (u.part p).st = .boundary ∧
        (u.part p).bd.stage = 1 ∧ (u.part p).stLast.toNat ≤ (u.part p).stMax.toNat ∧
        (s.listPlaceOk p = false → (u.part p).bd.listErr = true ∧ (u.part p).bd.entries = [] ∧ u.mem = s.mem) ∧
        (x.bd.count = 0 → (u.part p).bd.entries = [] ∧ u.mem = s.mem))) ∧
    (∀ bad, x.st = .boundary → (∀ e ∈ x.bd.entries, stageTakes x.bd.stage.toNat x.bd.bundle e = false) →
      (s.boundaryOps p = true → stays (.boundaryStage p bad)) ∧
      (s.boundaryOps p = false → x.bd.bundle = none →
        (x.bd.stage.toNat < 5 → x.bd.entries = [] → ∃ u, exec (.boundaryStage p bad) s = .next u ∧ u.mem = s.mem ∧
          (u.part p).bd.stage = x.bd.stage + 1 ∧ (u.part p).st = .boundary) ∧
        (x.bd.stage = 5 → s.atHinge p = false → ∃ u, exec (.boundaryStage p bad) s = .next u ∧ u.mem = s.mem ∧
          (u.part p).st = .step ∧ (u.part p).steps = x.steps + 1 ∧ (u.part p).overrun = false ∧
          ∀ c ∈ s.coresOf p, (u.core c).fenced = false) ∧
        (x.bd.stage = 5 → s.atHinge p = true → ∃ u, exec (.boundaryStage p bad) s = .next u ∧
          (u.part p).st = .hinge ∧ (u.part p).steps = x.steps))) ∧
    (x.st = .hinge → (∀ c, (s.core c).reg.retiring = false) → (∀ c ∈ s.coresOf p, (s.core c).arr.failCols = 0) →
      x.cfg.yields = false → s.rep.lent = [] → x.bd.genDue = false → x.cfg.seqCount = 0 → s.rep.fwLoad = none →
      let opens (u : State) : Prop := (u.part p).waitLease = false ∧ u.mem = s.mem ∧
        if x.holdReq = true then (u.part p).st = .held
        else (u.part p).st = .step ∧ (u.part p).steps = x.steps + 1 ∧ (u.part p).hinges = x.hinges + 1
      (∀ bad, (x.waitLease = true → stays (.boundaryStage p bad)) ∧
        (x.waitLease = false → ∃ u, exec (.boundaryStage p bad) s = .next u ∧ opens u)) ∧
      (x.waitLease = true → ∃ u, exec (.leaseWaitEnd p) s = .next u ∧ opens u)) ∧
    (x.waitLease = false → stays (.leaseWaitEnd p)) ∧
    (x.waitLease = true → x.st = .held → (x.leasesHeld ≠ 0 → stays (.leaseWaitEnd p)) ∧
      (x.leasesHeld = 0 → ∃ u, exec (.leaseWaitEnd p) s = .next u ∧ u.mem = s.mem ∧ u.part p = { x with waitLease := false })) ∧
    ((x.st ≠ .step ∧ x.st ≠ .quiesce ∨ x.overrun = true) → stays (.watchdogOverrun p)) ∧
    ((x.st = .step ∨ x.st = .quiesce) → x.overrun = false →
      (∀ c ∈ s.coresOf p, ∀ o ∈ (s.core c).ops, ∀ w, o.work ≠ .ctl w) →
      ∃ u, exec (.watchdogOverrun p) s = .next u ∧ (u.part p).st = .quiesce ∧ (u.part p).overrun = true ∧
        (u.part p).wdogCount = x.wdogCount + 1 ∧ (x.wdogValid = false → (u.part p).wdogStep = x.steps) ∧
        Told s u { code := nOverrun, part := BitVec.ofNat 8 p.val, unit := 0, id := x.steps.setWidth 64, detail := 0 } ∧
        ∀ c ∈ s.coresOf p, ∀ o ∈ (u.core c).ops, o.boundary = false → (u.core c).behindFence o = false →
          ∃ st, o.phase = .finished st) ∧
    (∀ slot : Fin 64,
      let l := vget x.leases slot
      let a := localPart l.addr.toNat
      let w := expireWord (s.rdN a 8) slot.val (l.gen - 1).toNat l.n.toNat
      ((l.used = false ∨ l.expired = true) → stays (.leaseExpiry p slot)) ∧
      (l.used = true → l.expired = false → s.isLocal l.addr.toNat = true → s.memOk → s.plainData a 8 = true →
        (w = none → ∃ u, exec (.leaseExpiry p slot) s = .next u ∧ u.mem = s.mem ∧
          vget (u.part p).leases slot = { l with used := false, expired := false }) ∧
        (∀ v, w = some v → ∃ u, exec (.leaseExpiry p slot) s = .next u ∧ Stores s u a 8 v ∧
          vget (u.part p).leases slot = { l with expired := true } ∧ (u.part p).leExpired = x.leExpired + 1)))

/-! ### Ports, packets and sessions (chapter 13) -/

/-- R338 to R344, R361, R379, R438: a frame that a port's configuration answers is counted and answered with the port's address,
another is counted as dropped, and a module or port that is not up takes none. PFC pauses the BULK class alone, and its end
lets what waited go. A lost link trains again, or its port is retired once class 8 is crossed; one that trains again sends
what waited. -/
def Obligations.EthernetPortsAnswer : Prop :=
  ∀ (port : PortId) (s : State),
    let e := s.eth port
    (∀ (mac : BitVec 48) (ip4 : BitVec 32) (ip6 : BitVec 128) (src dst : IpAddr) (data : List Byte),
      let own : IpAddr → Prop
        | .v4 a => e.ip4Valid = true ∧ e.ip4 = a
        | .v6 a => a = linkLocal e.mac ∨ (e.ip6Hi ++ e.ip6Lo ≠ (0 : BitVec 128) ∧ a = e.ip6Hi ++ e.ip6Lo)
      ∀ f ∈ ([(.arpRequest port mac ip4, own (.v4 ip4), .arpReply port mac ip4 e.mac),
              (.neighbourSolicitation port mac ip6, own (.v6 ip6), .neighbourAdvert port mac ip6 e.mac),
              (.echoRequest port mac src dst data, e.echo = true ∧ own dst, .echoReply port mac dst src data),
              (.otherFrame port, False, .pfc port false)] : List (Instr × Prop × EthFrame)),
        (s.portTakes port = false → exec f.1 s = .next s) ∧
        (s.portTakes port = true → f.2.1 → exec f.1 s = .next
          ((s.modEth port fun e => { e with rx := e.rx + 1, tx := e.tx + 1 }).modFct fun u =>
            { u with otherFrames := u.otherFrames ++ [f.2.2] })) ∧
        (s.portTakes port = true → ¬f.2.1 →
          exec f.1 s = .next (s.modEth port fun e => { e with dropOther := e.dropOther + 1 }))) ∧
    (∀ bulk pause : Bool,
      (s.portTakes port = false → exec (.pfcFrame port bulk pause) s = .next s) ∧
      (s.portTakes port = true →
        let paused := if bulk then pause else e.paused
        ∃ u, exec (.pfcFrame port bulk pause) s = .next u ∧ u.mem = s.mem ∧ (u.eth port).paused = paused ∧
          (u.eth port).pfcReceived = e.pfcReceived + 1 ∧ (u.eth port).rx = e.rx + 1 ∧
          (paused = true → u.fct.frames = s.fct.frames ∧ u.fct.sessions = s.fct.sessions))) ∧
    (e.paused = false → exec (.pfcPauseExpiry port) s = .next s) ∧
    (e.paused = true → ∃ u, exec (.pfcPauseExpiry port) s = .next u ∧ u.mem = s.mem ∧ (u.eth port).paused = false ∧
      ∀ i h payload, e.st = .up → (s.sess i).isOpen = true → (s.sess i).port = port → (s.sess i).bulkOut = [] →
        (s.sess i).bulkWait = [(h, payload)] → (u.sess i).bulkWait = [] ∧
          (u.sess i).bulkOut = [((s.sess i).bulkNext, payload)] ∧
          ∃ f ∈ u.fct.frames, f.port = port ∧ f.type = 0x12 ∧ f.payload = payload ∧ f.seq = (s.sess i).bulkNext) ∧
    (∀ cr2, (e.st ≠ .training → exec (.ethLinkUp port cr2) s = .next s) ∧
      (e.st = .training → ∃ u, exec (.ethLinkUp port cr2) s = .next u ∧ u.mem = s.mem ∧ (u.eth port).st = .up ∧
        (u.eth port).fecLock = true ∧ (u.eth port).phy = if cr2 = true then 1 else 0)) ∧
    (e.st ≠ .up → exec (.ethLinkLoss port) s = .next s) ∧
    (e.st = .up → (vat s.esp.thresholds 8).getD 0xFFFFFFFF = 0xFFFFFFFF → exec (.ethLinkLoss port) s = .next
      (s.modEth port fun e =>
        { e with st := .training, fecLock := false, paused := false, pausing := false, events := e.events + 1 })) ∧
    (e.st = .up → vat s.esp.thresholds 8 = some 1 → ∃ u, exec (.ethLinkLoss port) s = .next u ∧ u.mem = s.mem ∧
      (u.eth port).st = .retired ∧ (vget u.rep.fns (ethFn port)).st = .retired ∧ u.rep.lrValid = true)

/-- R345 to R354, R362, R417, R418: a packet whose port does not take it in does nothing, one that the port does not accept, or
of the wrong class, is dropped, and one whose port's pair is being taken over waits in its class buffer or finds it full; the
module pauses BULK past 75 % of that buffer. Of an open session the tag must verify, and 64 failures in a row close it.
HELLO, FINISH and their timeout open or end a set-up; a CONTROL packet in order has its commands accepted under a handle, and a
malformed one freezes the session; ACK frees handles; DATA in order joins its command or is written; what is not acknowledged
is sent again; an idle session closes. -/
def Obligations.PacketsServeSessions : Prop :=
  ∀ (p : Pkt) (s : State),
    let t := s.countRx p.port
    (∀ f ∈ ([(.setupHello p, 0x01), (.setupFinish p, 0x03), (.control p, 0x10), (.ack p, 0x11), (.data p, 0x12)] :
        List (Instr × Byte)),
      let seen : Prop := (p.type = f.2 ∨ p.type ∉ hostTypes) ∧ s.portTakes p.port = true
      (p.type ≠ f.2 ∧ p.type ∈ hostTypes ∨ s.portTakes p.port = false → exec f.1 s = .next s) ∧
      (seen → s.accepts p = false →
        exec f.1 s = .next (s.modEth p.port fun e => { e with dropOther := e.dropOther + 1 })) ∧
      (seen → s.accepts p = true → s.classOk p = false → exec f.1 s = .next (s.countClass p)) ∧
      (p.type ∉ hostTypes → s.classOk p = false) ∧
      (seen → s.accepts p = true → s.rep.takeover = some p.port → ∀ k, s.frameClass p = some k → s.classOk p = true →
        let load := bufferLoad k (p :: s.buffered p.port k)
        (k.capacity < load → exec f.1 s = .next (s.countClass p)) ∧
        (load ≤ k.capacity → ∃ u, exec f.1 s = .next u ∧ u.mem = s.mem ∧ u.rep.waitPkts = s.rep.waitPkts ++ [p] ∧
          (k ≠ .bulk → (s.eth p.port).pausing = false → 4 * bufferLoad .bulk (s.buffered p.port .bulk) ≤ 3 * 0x400000 →
            u.fct = s.fct) ∧
          (k = .bulk → (s.eth p.port).pausing = false → (u.eth p.port).pausing = decide (3 * k.capacity < 4 * load) ∧
            (3 * k.capacity < 4 * load → (u.eth p.port).pfcSent = (s.eth p.port).pfcSent + 1 ∧
              u.fct.otherFrames = s.fct.otherFrames ++ [.pfc p.port true])))) ∧
      (s.takesIn p f.2 → 0x10 ≤ f.2.toNat →
        (s.findSess p.sid true = none → exec f.1 s = .next t) ∧
        (∀ i, s.findSess p.sid true = some i → ¬ s.speaks p i →
          ∃ u, exec f.1 s = .next u ∧ u.mem = s.mem ∧ u.fct.authTagFail = s.fct.authTagFail + 1 ∧
            ((s.sess i).tagFails < 63 → (u.sess i).tagFails = (s.sess i).tagFails + 1 ∧ (u.sess i).st = (s.sess i).st) ∧
            (63 ≤ (s.sess i).tagFails → (u.sess i).st = .free)))) ∧
    (∀ i, s.takesIn p 0x01 → (s.sess i).st = .setup → (s.sess i).hello.take 32 = p.payload.take 32 →
      (∀ j, j < i → (s.sess j).st = .setup → (s.sess j).hello.take 32 ≠ p.payload.take 32) →
      ∃ u, exec (.setupHello p) s = .next u ∧ u.mem = s.mem ∧ (u.sess i).port = p.port ∧ (u.sess i).mac = p.mac ∧
        (u.sess i).peer = p.src ∧
        ∃ f ∈ u.fct.frames, f.type = 0x02 ∧ f.port = p.port ∧ f.mac = p.mac ∧ f.payload = (s.sess i).reply) ∧
    (s.takesIn p 0x01 → (∀ i, (s.sess i).st = .setup → (s.sess i).hello.take 32 ≠ p.payload.take 32) → s.setups p.port < 8 →
      let h := helloOf p.payload
      let legal := decide (p.sid = 0) && helloGood p.payload
      let rejects (st : Status) : Prop := ∃ u, exec (.setupHello p) s = .next u ∧ u.mem = s.mem ∧
        u.fct.sessions = s.fct.sessions ∧ ∃ f ∈ u.fct.frames, f.type = 0x05 ∧ f.payload = leBytes 2 st.toNat ∧ f.mac = p.mac
      (legal = false → rejects stBadDesc) ∧ (legal = true → s.sessionKey h = none → rejects stAuthFailed) ∧
      (legal = true → s.sessionKey h ≠ none → min h.quota (16384 - s.fct.granted) ≠ 0 → (∃ i, (s.sess i).st = .free) →
        ∃ u i, exec (.setupHello p) s = .next u ∧ u.mem = s.mem ∧ (s.sess i).st = .free ∧ (u.sess i).st = .setup ∧
          (u.sess i).pmask = h.pmask ∧ (u.sess i).quota = min h.quota (16384 - s.fct.granted) ∧
          ∃ f ∈ u.fct.frames, f.type = 0x02 ∧ f.sid = (u.sess i).sid ∧ f.payload = (u.sess i).reply)) ∧
    (∀ i, s.findSess p.sid false = some i → (s.sess i).st = .setup →
      let x := s.sess i
      let msg := hashBytes (Config.sha3 x.hello) ++ leBytes 4 x.sid.toNat ++ hashBytes (Config.sha3 x.reply)
      let good := decide (p.payload.length = 2420) && Config.mldsaVerify (helloOf x.hello).pk "FLQ8-SESS-H" msg p.payload
      (s.takesIn p 0x03 → good = true → ∃ u, exec (.setupFinish p) s = .next u ∧ u.mem = s.mem ∧ (u.sess i).st = .openS ∧
        (u.sess i).sid = x.sid ∧ ∃ f ∈ u.fct.frames, f.type = 0x04 ∧ f.sid = x.sid) ∧
      (s.takesIn p 0x03 → good = false → ∃ u, exec (.setupFinish p) s = .next u ∧ u.mem = s.mem ∧ (u.sess i).st = .free ∧
        ∃ f ∈ u.fct.frames, f.type = 0x05 ∧ f.payload = leBytes 2 stAuthFailed.toNat) ∧
      exec (.setupTimeout p.sid) s = .next (s.dropSetup i) ∧ ((s.dropSetup i).sess i).st = .free) ∧
    (s.findSess p.sid false = none → exec (.setupTimeout p.sid) s = .next s) ∧
    (s.findSess p.sid true = none → ∀ bulk, exec (.sessionIdleTimeout p.sid) s = .next s ∧
      exec (.retransmitTimeout p.sid bulk) s = .next s) ∧
    (∀ i, s.findSess p.sid true = some i →
      let x := s.sess i
      (∃ u, exec (.sessionIdleTimeout p.sid) s = .next u ∧ u.mem = s.mem ∧ (u.sess i).st = .free) ∧
      (∀ bulk, s.ready = true → (s.eth x.port).st = .up → (s.eth x.port).paused = false → x.shasp = false → s.unheld →
        s.pwr.shutting = false → s.rep.failed = false →
        ∃ u, exec (.retransmitTimeout p.sid bulk) s = .next u ∧ u.mem = s.mem ∧ u.cores = s.cores ∧
          u.fct.sessions = s.fct.sessions ∧ u.fct.frames.length = s.fct.frames.length +
            if bulk then x.bulkOut.length else min 256 x.ctlOut.length) ∧
      (s.speaks p i → x.isOpen = true → x.bulkWait = [] → x.bulkOut = [] → x.closeAck = none →
        (∀ c ∈ s.fct.cmds, c.sentAll = false) →
        (s.takesIn p 0x11 → ∃ u, exec (.ack p) s = .next u ∧ u.mem = s.mem ∧ u.cores = s.cores ∧
          u.fct.handles = s.fct.handles.map (fun y =>
            if y.sess = i && y.st == .reported && y.seq.toNat < p.ackc.toNat then
              { y with st := .free, gen := nextGen y.gen } else y)) ∧
        (s.takesIn p 0x10 → p.ackc = 0 → p.ackb = 0 → p.seq = x.ctlIn →
          (splitEntries p.payload.length p.payload = none → x.st = .openS →
            ∃ u, exec (.control p) s = .next u ∧ u.mem = s.mem ∧ (u.sess i).st = .frozen ∧ (u.sess i).ctlIn = x.ctlIn + 1) ∧
          (∀ tag : BitVec 32, let b : List Byte := [1, 0, 12, 0, 1, 0, 0xFF, 0] ++ leBytes 4 tag.toNat
            p.payload = b → x.st = .openS → x.maint = true → s.pwr.safe = false → (∀ c ∈ s.fct.cmds, c.wants ≤ c.xfer) →
            s.quotaUsed i < x.quota → (∃ y ∈ s.fct.handles, y.st = .free) →
            ∃ u c, exec (.control p) s = .next u ∧ u.mem = s.mem ∧ u.fct.cmds = s.fct.cmds ++ [c] ∧ c.sess = i ∧ c.opc = 1 ∧
              c.htag = tag ∧ c.args = b ∧ (u.sess i).ctlIn = x.ctlIn + 1 ∧
              (∃ y, u.findSlot c.handle = some y ∧ y.st = .issued) ∧
              ∃ q, (q, [2, 0] ++ leBytes 2 16 ++ leBytes 4 tag.toNat ++ leBytes 4 c.handle.toNat ++ [0, 0, 0, 0]) ∈
                (u.sess i).ctlOut)) ∧
        (s.takesIn p 0x12 → p.ackc = 0 → p.ackb = 0 → p.seq = x.bulkIn → ∀ h c, s.accepted h c → c.sess = i →
          c.htag = BitVec.ofNat 32 (entryN p.payload 0 4) → c.xfer < c.wants →
          (∀ y ∈ s.fct.cmds, y.sess = i → y.htag = c.htag → y.xfer < y.wants → y = c) →
          let off := entryN p.payload 8 8
          let bs := p.payload.drop 16
          let good := decide (off = c.xfer) && !bs.isEmpty && decide (bs.length ≤ 8192) && decide (off + bs.length ≤ c.wants) &&
            (decide (bs.length % 64 = 0) || decide (off + bs.length = c.wants))
          (good = false → ∃ u, exec (.data p) s = .next u ∧ u.mem = s.mem ∧ u.reports c stBadDesc 0) ∧
          (good = true → c.running = false → ∃ u, exec (.data p) s = .next u ∧ u.mem = s.mem ∧
            u.findCmd h = some { c with xfer := off + bs.length, data := c.data ++ bs }) ∧
          (good = true → c.running = true → s.memOk →
            let a := entryN c.args 16 8 + off
            s.plainData a bs.length = true → ∃ u, exec (.data p) s = .next u ∧ SameOutside s u a bs.length ∧
              (∀ j b, bs[j]? = some b → memGet u.mem (a + j) = b) ∧
              (off + bs.length = c.wants → u.reports { c with xfer := c.wants } stDone (resultOf (leBytes 8 c.wants)))))))

/-! ### Hasps (chapters 10 and 13) -/

/-- R364 to R370: a HASP message of the fabric that is new sets or clears the FABRIC bit of the partitions it names, one already
seen changes none, and either is acknowledged on its link. A HASP packet of an open session with a higher SEQ stops or releases
the partitions it names if the session has the right, else it is refused; the last one is only answered again. A HOLD_N pin
sets or clears the HOLD bit of the partitions whose controller is on its die. No other source bit changes. A HASP packet that
comes while its port's pair is taken over waits in a cell of its buffer, or finds the buffer full and is counted. -/
def Obligations.HaspsStopPartitions : Prop :=
  (∀ (i : Nat) (s : State) (l : LinkId) (m : Msg), s.inMsg i opHasp = some (l, m) → m.data.length = 32 →
    let b (j : Nat) : Nat := (m.data.getD j 0).toNat
    let hid := BitVec.ofNat 32 (leNat ((m.data.drop 4).take 4))
    (b 3 % 2 = 1 → exec (.fabHasp i) s = .next s ∧ exec (.fabHaspAck i) s = .next (s.takeMsg i l m)) ∧
    (b 3 % 2 = 0 → exec (.fabHaspAck i) s = .next s ∧
      ∃ u, exec (.fabHasp i) s = .next u ∧ hid ∈ u.fab.hidsSeen ∧
        (hid ∈ s.fab.hidsSeen → u.parts = s.parts ∧ u.fct = s.fct) ∧
        (hid ∉ s.fab.hidsSeen → u.fct.haspFabric = s.fct.haspFabric + 1 ∧
          ∀ p : PartId, (s.part p).st ≠ .absent → (b 1 = 0xFF ∨ b 1 = p.val) →
            (u.part p).src.getLsbD 1 = decide (b 0 = 0)))) ∧
  (∀ (p : Pkt) (stop : Bool) (s : State),
    let i : Instr := if stop then .haspStop p else .haspRelease p
    let b := p.payload
    let n (j : Nat) : Nat := entryN b j 1
    (decide (n 0 = 1) = stop → exec i s = .next s) ∧
    (p.type ≠ 0x20 ∧ p.type ∈ hostTypes ∨ s.portTakes p.port = false → exec i s = .next s) ∧
    (decide (n 0 = 1) = !stop → p.type = 0x20 → s.portTakes p.port = true → s.accepts p = true →
      (s.classOk p = false → exec i s = .next (s.countClass p)) ∧
      (s.classOk p = true → s.rep.takeover = some p.port →
        let load := 256 * (s.buffered p.port .hasp).length + 256
        (0x10000 < load → ∃ u, exec i s = .next u ∧ u.parts = s.parts ∧ u.rep = s.rep ∧
          u.fct.haspDropped = s.fct.haspDropped + 1 ∧ (u.eth p.port).dropHasp = (s.eth p.port).dropHasp + 1) ∧
        (load ≤ 0x10000 → ∃ u, exec i s = .next u ∧ u.parts = s.parts ∧ u.rep.waitPkts = s.rep.waitPkts ++ [p] ∧
          u.fct.haspDropped = s.fct.haspDropped))) ∧
    (∀ k, decide (n 0 = 1) = !stop → s.takesIn p 0x20 → s.speaks p k →
      let x := s.sess k
      let answered (u : State) (result : Byte) : Prop := ∃ f ∈ u.fct.frames, f.type = 0x21 ∧ f.pcp = 7 ∧ f.seq = p.seq ∧
        f.payload.getD 4 0 = result
      (p.seq.toNat < x.haspSeq.toNat → ∃ u, exec i s = .next u ∧ u.parts = s.parts ∧ u.fct.frames = s.fct.frames) ∧
      (p.seq = x.haspSeq → p.seq ≠ 0 → ∃ u, exec i s = .next u ∧ u.parts = s.parts ∧ u.cores = s.cores ∧ answered u 2) ∧
      (x.haspSeq.toNat < p.seq.toNat →
        (s.haspTargets x b = none → ∃ u, exec i s = .next u ∧ u.parts = s.parts ∧ u.cores = s.cores ∧ answered u 1 ∧
          (u.sess k).haspSeq = p.seq ∧ u.fct.haspRefused = s.fct.haspRefused + 1) ∧
        (∀ ps, s.haspTargets x b = some ps → ((∃ q ∈ ps, x.holds q = false) ∨ stop = false ∧ x.st = .frozen) →
          ∃ u, exec i s = .next u ∧ u.parts = s.parts ∧ u.cores = s.cores ∧ answered u 1 ∧
            u.fct.haspRefused = s.fct.haspRefused + 1) ∧
        (∀ ps, s.haspTargets x b = some ps → (∀ q ∈ ps, x.holds q = true) → (stop = true ∨ x.st ≠ .frozen) →
          ∃ u, exec i s = .next u ∧ answered u 0 ∧ u.fct.haspApplied = s.fct.haspApplied + 1 ∧
            (n 1 = 0 → u.parts = s.parts ∧ (u.sess k).shasp = stop) ∧
            (n 1 ≠ 0 → ∀ q : PartId, (u.part q).src = if q ∈ ps ∧ (s.part q).st ≠ .absent then
                (if stop then (s.part q).src ||| 1 else (s.part q).src &&& 14)
              else (s.part q).src))))) ∧
  (∀ (pin : PortId) (high : Bool) (s : State),
    ∃ u, exec (if high then .holdNDeassert pin else .holdNAssert pin) s = .next u ∧
      u.pwr.holdN = vset s.pwr.holdN pin high ∧
      ∀ q : PartId, (s.part q).st ≠ .absent → s.ctrlOn q pin = true → s.rep.takeover ≠ some pin →
        (u.part q).src.getLsbD (2 + pin.val) = !high ∧ (u.part q).src.getLsbD 0 = (s.part q).src.getLsbD 0 ∧
        (u.part q).src.getLsbD 1 = (s.part q).src.getLsbD 1)

/-! ### Host commands (chapter 13) -/

/-- R349, R352 to R363: a host command that may not start yet leaves all as it is. NOP and QUERY complete DONE, the latter with
the state of a handle; CLOSE closes its session once what it waits for is complete; ISSUE puts its descriptor on a core of the
partition under the handle, waits at sixteen, and is refused elsewhere; WRITE performs the data that came and READ returns the
range; REG_READ returns a register and REG_WRITE writes one. A session that may not is refused and frozen. -/
def Obligations.HostCommandsComplete : Prop :=
  ∀ (h : BitVec 32) (s : State) (c : HCmd), s.accepted h c →
    let a := entryN c.args 16 8
    let n := entryN c.args 24 8
    let quiet (i : Instr) (st : Status) (r : BitVec 128) : Prop :=
      ∃ u, exec i s = .next u ∧ u.mem = s.mem ∧ u.cores = s.cores ∧ u.reports c st r
    let violates (i : Instr) : Prop := ∃ u, exec i s = .next u ∧ u.mem = s.mem ∧ u.reports c stViolation 0 ∧
      ((s.sess c.sess).st = .openS → (u.sess c.sess).st = .frozen)
    let misplaced : Prop := a % 64 ≠ 0 ∨ n = 0 ∨ 2 ^ 40 < n
    (∀ f ∈ ([(.fctNop h, 0x01), (.query h, 0x02), (.issue h, 0x10), (.fctWrite h, 0x20), (.fctRead h [], 0x21),
              (.regRead h, 0x40), (.regWrite h, 0x41)] : List (Instr × Nat)),
      s.cmdReady h f.2 = none → exec f.1 s = .next s) ∧
    (s.cmdReady h 0x01 = some c → quiet (.fctNop h) stDone 0) ∧
    (s.cmdReady h 0x02 = some c → quiet (.query h) stDone (s.queryResult (BitVec.ofNat 32 (entryN c.args 12 4)))) ∧
    (∀ sid,
      (s.findSess sid true = none → exec (.fctClose sid) s = .next s) ∧
      (∀ i, s.findSess sid true = some i →
        ((s.ready = false ∨ (s.sess i).closeDue = false ∨ ∃ k ∈ (s.sess i).closeAfter, s.findCmd k ≠ none) →
          exec (.fctClose sid) s = .next s) ∧
        (s.ready = true → (s.sess i).closeDue = true → (∀ k ∈ (s.sess i).closeAfter, s.findCmd k = none) →
          ∃ u, exec (.fctClose sid) s = .next u ∧ u.mem = s.mem ∧ (u.sess i).st = .free))) ∧
    (s.cmdReady h 0x10 = some c →
      let d := descOf ((c.args.drop 24).take 128)
      let after := BitVec.ofNat 32 (entryN c.args 16 4)
      (c.partition = none → quiet (.issue h) stBadDesc 0) ∧
      (∀ p, c.partition = some p → (s.part p).st ≠ .held →
        ((∃ x ∈ (s.part p).shortCores, x.val = c.issueCore) → quiet (.issue h) stRetired 0) ∧
        ((∀ x ∈ (s.part p).shortCores, x.val ≠ c.issueCore) →
          (s.entryCore p c.issueCore = none → quiet (.issue h) stBadDesc 0) ∧
          (∀ k, s.entryCore p c.issueCore = some k →
            let x := s.core k
            (dSigV d = true → quiet (.issue h) stBadDesc 0) ∧
            (dSigV d = false → after = 0 → s.issueBehind c = false → s.afterOf c after ≠ none →
              (16 ≤ x.hostOps → exec (.issue h) s = .next (s.modCmd h fun c => { c with waited := true })) ∧
              (∀ t, x.hostOps < 16 → x.ops.length < 64 → x.hostToken = some t →
                ∃ u o, exec (.issue h) s = .next u ∧ u.mem = s.mem ∧ u.parts = s.parts ∧ (u.core k).ops = x.ops ++ [o] ∧
                  o.ticket = x.next ∧ o.desc = d ∧ o.host = some h ∧ o.phase = .queued ∧ (u.core k).next = x.next + 1 ∧
                  (∀ j, j ≠ k → u.core j = s.core j) ∧
                  u.findCmd h = some { c with running := true, issued := some (k, x.next) })))))) ∧
    (s.cmdReady h 0x20 = some c →
      (misplaced → quiet (.fctWrite h) stBadDesc 0) ∧
      (¬misplaced → s.xferViolates c a n true = true → violates (.fctWrite h)) ∧
      (¬misplaced → s.xferViolates c a n true = false → s.memOk → s.plainData a c.data.length = true →
        ∃ u, exec (.fctWrite h) s = .next u ∧ SameOutside s u a c.data.length ∧
          (∀ i b, c.data[i]? = some b → memGet u.mem (a + i) = b) ∧
          (c.wants ≤ c.data.length → u.reports c stDone (resultOf (leBytes 8 c.data.length))) ∧
          (c.data.length < c.wants → u.findCmd h = some { c with running := true, data := [] }))) ∧
    (s.cmdReady h 0x21 = some c → ∀ bad,
      (misplaced → quiet (.fctRead h bad) stBadDesc 0) ∧
      (¬misplaced → s.xferViolates c a n false = true → violates (.fctRead h bad)) ∧
      (¬misplaced → s.xferViolates c a n false = false → (s.uncorrectable bad a n).isSome = true →
        ∃ u, exec (.fctRead h bad) s = .next u ∧ u.mem = s.mem ∧ u.reports c stRetired 0) ∧
      (¬misplaced → s.xferViolates c a n false = false → s.uncorrectable bad a n = none →
        ∃ u, exec (.fctRead h bad) s = .next u ∧ s.returns u h c (s.rd a n))) ∧
    (s.cmdReady h 0x40 = some c →
      ((s.sampleReg a).regAt a = none → violates (.regRead h)) ∧
      (∀ v, (s.sampleReg a).regAt a = some v → ∃ u, exec (.regRead h) s = .next u ∧ u.mem = s.mem ∧
        u.reports c stDone (resultOf (leBytes 8 v)))) ∧
    (s.cmdReady h 0x41 = some c →
      let v := BitVec.ofNat 64 n
      ((s.regAt a = none ∨ s.sessWrites c.sess a = false) → violates (.regWrite h)) ∧
      (s.regAt a ≠ none → s.sessWrites c.sess a = true → endsLater a v = false →
        ∃ u, exec (.regWrite h) s = .next u ∧ u.reports c stDone 0))

/-! ### Firmware, keys and debug (chapters 14 and 15) -/

/-- R388 to R391, R400 to R407, R410 to R421: the security commands and FIRMWARE_LOAD. GET_IDENTITY, ATTEST and GET_KEYRING
return their bytes; OWNER_FUSE and KEYRING_INSTALL work in PROVISIONING alone, before and after the owner's lock; a rotation
raises RING_VER and installs the new keyring; DEBUG_UNLOCK needs the last challenge signed. Each is refused with the cause of
the first check that fails, and a failing fuse leaves keyring and lock as they were. New firmware needs its checks, its
self-test and every bound controller. A provisioning command that has completed is followed by a restart. -/
def Obligations.SecurityCommandsComplete : Prop :=
  ∀ (h : BitVec 32) (s : State) (c : HCmd), s.accepted h c →
    let b := c.data
    let hash := Config.sha3 (b.take 10768)
    let refuses (i : Instr) (cause : Nat) : Prop := ∃ u, exec i s = .next u ∧ u.mem = s.mem ∧ u.refusedFor c cause ∧
      u.sec.keyring = s.sec.keyring ∧ u.sec.ownerLock = s.sec.ownerLock ∧ u.sec.ringVer = s.sec.ringVer ∧
      u.sec.debug = s.sec.debug
    let front : Prop := s.loadBusy = false ∧ s.loadAhead h = false
    let loaded := if c.behind = true then stDeferred else stDone
    (∀ f ∈ ([(.getIdentity h, 0x60), (.attest h, 0x61), (.getKeyring h, 0x62), (.ownerFuse h true, 0x63),
              (.keyringInstall h, 0x64), (.keyringRotate h true, 0x65), (.debugChallenge h, 0x66), (.debugUnlock h, 0x67),
              (.debugDisable h true, 0x68), (.firmwareLoad h true, 0x31)] : List (Instr × Nat)),
      s.cmdReady h f.2 = none → c.deferred = false → exec f.1 s = .next s) ∧
    (s.cmdReady h 0x60 = some c → ∃ u, exec (.getIdentity h) s = .next u ∧ s.returns u h c s.certificate) ∧
    (s.cmdReady h 0x61 = some c →
      let r := s.report ((c.args.drop 16).take 32)
      ∃ u, exec (.attest h) s = .next u ∧ s.returns u h c (r ++ identitySign "FLQ8-ATT" r) ∧
        u.sec.attests = s.sec.attests + 1) ∧
    (s.cmdReady h 0x62 = some c → (s.sec.keyring = none → refuses (.getKeyring h) 0x02) ∧
      (∀ k, s.sec.keyring = some k →
        ∃ u, exec (.getKeyring h) s = .next u ∧ s.returns u h c (k.bytes ++ ringSeal k.bytes))) ∧
    (∀ ok, s.cmdReady h 0x63 = some c →
      let i : Instr := .ownerFuse h ok
      (c.wants ≠ 10768 → refuses i 0x01) ∧
      (c.wants = 10768 → c.full = true →
        ((s.sec.provisioning = false ∨ s.sec.ownerLock = true) → refuses i 0x02) ∧
        (s.sec.provisioning = true → s.sec.ownerLock = false → (ringOf b = none → refuses i 0x01) ∧
          (∀ k, ringOf b = some k → (k.version ≠ 0 → refuses i 0x04) ∧
            (k.version = 0 → s.fusesFit (Config.sha3 k.bytes) = false → refuses i 0x09) ∧
            (k.version = 0 → s.fusesFit (Config.sha3 k.bytes) = true →
              (ok = false → refuses i 0x06) ∧
              (ok = true → ∃ u, exec i s = .next u ∧ u.mem = s.mem ∧ u.reports c stDone 0 ∧ u.sec.ownerLock = true ∧
                u.sec.ownerHash = Config.sha3 k.bytes ∧ u.sec.keyring = some k ∧ u.sec.restartDue = some h)))))) ∧
    (s.cmdReady h 0x64 = some c →
      let i : Instr := .keyringInstall h
      (c.wants ≠ 10768 → c.wants ≠ 10800 → refuses i 0x01) ∧
      ((c.wants = 10768 ∨ c.wants = 10800) → c.full = true →
        ((s.sec.provisioning = false ∨ s.sec.ownerLock = false) → refuses i 0x02) ∧
        (s.sec.provisioning = true → s.sec.ownerLock = true → (ringOf (b.take 10768) = none → refuses i 0x01) ∧
          (∀ k, ringOf (b.take 10768) = some k →
            let fits := k.version.toNat = s.sec.ringVer.toNat ∧ (b.length = 10768 → s.sec.ringVer.toNat = 0)
            let sealed := if b.length = 10768 then hash = s.sec.ownerHash else b.drop 10768 = ringSeal (b.take 10768)
            (¬fits → refuses i 0x04) ∧ (fits → ¬sealed → refuses i 0x09) ∧
            (fits → sealed → ∃ u, exec i s = .next u ∧ u.mem = s.mem ∧ u.reports c stDone 0 ∧ u.sec.keyring = some k ∧
              u.sec.restartDue = some h))))) ∧
    (∀ ok, s.cmdReady h 0x65 = some c →
      let i : Instr := .keyringRotate h ok
      (c.wants ≠ 13236 → refuses i 0x01) ∧
      (c.wants = 13236 → c.full = true → front →
        (∀ x, s.rotation b = .error x → refuses i x ∧ ∀ u, exec i s = .next u → u.sec.rotFail = s.sec.rotFail + 1) ∧
        (∀ k, s.rotation b = .ok k → (ok = false → refuses i 0x06) ∧
          (ok = true → ∃ u, exec i s = .next u ∧ u.mem = s.mem ∧ u.sec.keyring = some k ∧ u.sec.keyPending = none ∧
            u.sec.ringVer = s.sec.ringVer + 1 ∧
            u.reports c loaded (resultOf (leBytes 4 0 ++ leBytes 4 k.version.toNat)))))) ∧
    (s.cmdReady h 0x66 = some c → ∃ u x, exec (.debugChallenge h) s = .next u ∧ u.mem = s.mem ∧
      u.sec.challenge = some x ∧ u.reports c stDone x) ∧
    (s.cmdReady h 0x67 = some c →
      let i : Instr := .debugUnlock h
      (c.wants ≠ 2420 → refuses i 0x01) ∧
      (c.wants = 2420 → c.full = true → (s.sec.dbgDisable = true → refuses i 0x08) ∧
        (s.sec.dbgDisable = false → (s.sec.challenge = none → refuses i 0x02) ∧
          (∀ x, s.sec.challenge = some x → (s.debugSigned x b = false → refuses i 0x03) ∧
            (s.debugSigned x b = true → ∃ u, exec i s = .next u ∧ u.mem = s.mem ∧ u.sec.debug = true ∧
              u.sec.challenge = none ∧ u.reports c stDone 0))))) ∧
    (∀ ok, s.cmdReady h 0x68 = some c →
      (ok = false → s.sec.dbgDisable = false → refuses (.debugDisable h ok) 0x06) ∧
      (ok = true ∨ s.sec.dbgDisable = true → ∃ u, exec (.debugDisable h ok) s = .next u ∧ u.mem = s.mem ∧
        u.sec.dbgDisable = true ∧ u.reports c stDone 0)) ∧
    (∀ ok, s.cmdReady h 0x31 = some c → c.full = true → front →
      let i : Instr := .firmwareLoad h ok
      let new := otherSlot s.rep.fwCurrent
      let v := BitVec.ofNat 32 (fwVersionOf b)
      (∀ x, s.fwRefused b = some x → refuses i x) ∧
      (s.fwRefused b = none →
        (s.sec.provisioning = true → ∃ u, exec i s = .next u ∧ u.mem = s.mem ∧ u.rep.fwCurrent = new ∧
          vget u.rep.fwSlots new = { version := v, img := b } ∧ u.sec.restartDue = some h ∧
          u.reports c loaded (resultOf (leBytes 4 0 ++ leBytes 4 v.toNat))) ∧
        (s.sec.provisioning = false → (ok = false → refuses i 0x0E) ∧
          (ok = true → s.boundCtrls = [] → ∃ u, exec i s = .next u ∧ u.mem = s.mem ∧ u.rep.fwCurrent = new ∧
            u.rep.fwVersion = v ∧ u.rep.fwFloor = v ∧ u.reports c loaded (resultOf (leBytes 4 0 ++ leBytes 4 v.toNat))) ∧
          (ok = true → s.boundCtrls ≠ [] → ∃ u, exec i s = .next u ∧ u.mem = s.mem ∧ u.rep.fwCurrent = s.rep.fwCurrent ∧
            u.rep.fwVersion = v ∧ u.rep.fwLoad = some h ∧ u.rep.fwCtrls = s.boundCtrls)))) ∧
    (s.sec.restartDue = none ∨ s.sec.restartDue = some h → exec .provisioningRestart s = .next s) ∧
    (∀ k, s.sec.restartDue = some k → s.findCmd k = none → exec .provisioningRestart s = .next (s.cold .starting))

/-! ### Availability and repair (chapter 14) -/

/-- R260, R375 to R387, R393, R395: a core whose retirement is due is frozen with its threads and loses its operations; one whose
operation's descriptor cannot be read is frozen until it is released. Ledger writes that a takeover held back are made at its end. A
lockstep mismatch stops its pair: the other takes over, and with the last one the module has failed. ENABLE and DISABLE of a
maintenance session move a function by its state, and the end of its start or stop goes on to a queued request. A release of a
session with the right resets a frozen thread, frees a frozen list, core, session or remote module. A ledger slot is written in
one bank with the next SEQ; the fourth mismatch fails the bank. -/
def Obligations.RepairKeepsServing : Prop :=
  ∀ (s : State),
    let stays (i : Instr) : Prop := exec i s = .next s
    (∀ c : CoreId,
      let due := s.usable c && !(s.core c).reg.retiring && s.coreDue c
      (due = false → stays (.coreRetire c none)) ∧
      (∀ k, (s.usable c = false ∨ (s.core c).reg.frzCore = true ∨ s.findOp c k = none → stays (.coreRetire c (some k))) ∧
        (s.usable c = true → (s.core c).reg.frzCore = false → s.findOp c k ≠ none →
          ∃ u, exec (.coreRetire c (some k)) s = .next u ∧ u.mem = s.mem ∧ (u.core c).ops = (s.core c).ops ∧
            (u.core c).reg = { (s.core c).reg with frzCore := true, frzCause := cUncorrectable, frzTicket := k } ∧
            (∀ j, j ≠ c → u.core j = s.core j) ∧
            ∀ t, (s.thread c t).st = .ready → u.thread c t = { s.thread c t with st := .frozen, coreHeld := true })) ∧
      (due = true → (∀ o ∈ (s.core c).ops, ∀ w, o.work ≠ .ctl w) → ∃ u, exec (.coreRetire c none) s = .next u ∧
        (u.core c).reg.frzCore = true ∧ (u.core c).reg.retiring = true ∧ (u.core c).reg.frzCause = 0x09 ∧
        (∀ t, (s.thread c t).st = .ready → u.thread c t = { s.thread c t with st := .frozen, coreHeld := true }) ∧
        ∀ o ∈ (u.core c).ops, dOpc o.desc ≠ 0x6A → ∃ st, o.phase = .finished st)) ∧
    (∀ pair : PortId,
      let runs := s.pwr.run = .ready ∨ s.pwr.run = .starting
      ((vget s.rep.pairStopped pair = true ∨ ¬runs) → stays (.lockstepMismatch pair)) ∧
      (vget s.rep.pairStopped pair = false → runs → ∃ u, exec (.lockstepMismatch pair) s = .next u ∧
        u.rep.pairStopped = vset s.rep.pairStopped pair true ∧
        (vget s.rep.pairStopped (otherPair pair) = false → u.rep.takeover = some pair ∧ u.rep.lrValid = true ∧ u.mem = s.mem) ∧
        (vget s.rep.pairStopped (otherPair pair) = true → u.rep.failed = true ∧ u.rep.takeover = none ∧
          u.rep.faultHeld = true))) ∧
    (s.rep.takeover = none → stays .takeoverEnd) ∧
    (∀ pair, s.rep.takeover = some pair → s.rep.waitPkts = [] → s.unheld →
      ∃ u, exec .takeoverEnd s = .next u ∧ u.mem = s.mem ∧ u.cores = s.cores ∧ u.parts = s.parts ∧ u.rep.takeover = none ∧
        u.rep.waitPkts = [] ∧ u.rep.ledgerDue = [] ∧
        ∀ n ∈ s.rep.ledgerDue, ∀ b, s.bankFor n = some b →
          (vget (vget u.rep.banks b).slots n).valid = true ∧ (vget (vget u.rep.banks b).slots n).body = s.slotBody n.val) ∧
    (∀ (m : Master) (fn : BitVec 6),
      let k := fnKind fn.toNat
      (s.hostMaint m = false ∨ k = .reserved → stays (.enable m fn) ∧ stays (.disable m fn)) ∧
      (∀ i, s.hostMaint m = true → k ≠ .reserved → toFin? 32 fn.toNat = some i →
        let f := vget s.rep.fns i
        let after (j : Instr) (g : Fn) : Prop := ∃ u, exec j s = .next u ∧ u.mem = s.mem ∧ vget u.rep.fns i = g ∧
          ∀ x, x ≠ i → vget u.rep.fns x = vget s.rep.fns x
        (f.st = .retired → stays (.enable m fn) ∧ stays (.disable m fn)) ∧
        (f.st ≠ .retired → s.fnKept k = true → stays (.disable m fn)) ∧
        (f.st = .off → f.pend = [] → f.qreqs = [] → f.queued = false →
          after (.enable m fn) { f with pref := true, st := if k = .maint then .on else .starting }) ∧
        (f.st = .on → after (.enable m fn) { f with pref := true }) ∧
        (f.st = .starting → f.queued = false → after (.enable m fn) { f with pref := true }) ∧
        (f.st = .stopping → after (.enable m fn) { f with pref := true, queued := true }) ∧
        (s.fnKept k = false →
          (f.st = .off → after (.disable m fn) { f with pref := false }) ∧
          (f.st = .on → f.pend = [] → after (.disable m fn) { f with pref := false, st := .stopping }) ∧
          (f.st = .starting → after (.disable m fn) { f with pref := false, queued := true }) ∧
          (f.st = .stopping → f.queued = false → after (.disable m fn) { f with pref := false }))) ∧
      (∀ i, toFin? 32 fn.toNat = some i →
        let f := vget s.rep.fns i
        (∀ up cap,
          (f.st ≠ .starting ∨ s.fnStartOver k = false → stays (.fnStartFinished fn up cap)) ∧
          (f.st = .starting → s.fnStartOver k = true → ∃ u, exec (.fnStartFinished fn up cap) s = .next u ∧ u.mem = s.mem ∧
            (f.queued = false → vget u.rep.fns i = { f with st := .on, pend := [] }) ∧
            (f.queued = true → vget u.rep.fns i = { f with st := .stopping, queued := false, pend := f.qreqs, qreqs := [] }) ∧
            (∀ p, k = .eth p → up = true → (u.eth p).st = .up) ∧
            (∀ p, k = .far p → (vget u.tier.far p).st =
              if up = true ∧ (vget s.tier.far p).cap.toNat ≤ cap.toNat then .up else .down) ∧
            (∀ h c, s.accepted h c → c.xfer ≥ c.wants → f.pend = [h] → u.reports c stDone 0))) ∧
        (f.st ≠ .stopping → stays (.fnStopFinished fn)) ∧
        (f.st = .stopping → ∃ u, exec (.fnStopFinished fn) s = .next u ∧ u.mem = s.mem ∧
          (f.queued = false → vget u.rep.fns i = { f with st := .off, pend := [] } ∧
            (∀ p, k = .eth p → (u.eth p).st = .down) ∧ (∀ p, k = .far p → (vget u.tier.far p).st = .down) ∧
            ∀ l, k = .link l → (u.link l).st = .down) ∧
          (f.queued = true → k ≠ .maint →
            vget u.rep.fns i = { f with st := .starting, queued := false, pend := f.qreqs, qreqs := [] })))) ∧
    (∀ (m : Master) (p : PartId) (c : CoreId),
      let k := s.core c
      (∀ t : ThreadId,
        (s.mayRelease m p c = false ∨ (s.thread c t).st ≠ .frozen → stays (.partReleaseThread m p c t)) ∧
        (s.mayRelease m p c = true → (s.thread c t).st = .frozen → ∃ u, exec (.partReleaseThread m p c t) s = .next u ∧
          u.mem = s.mem ∧ (u.thread c t).st = .idle ∧ (u.thread c t).fault.valid = false ∧
          (u.thread c t).g = (s.thread c t).g ∧ ∀ x, x ≠ t → u.thread c x = s.thread c x)) ∧
      (∀ f ∈ ([(.partReleaseComputeList m p c, false, k.reg.frzClist), (.partReleaseMoveList m p c, true, k.reg.frzMlist)] :
          List (Instr × Bool × Bool)),
        (s.mayRelease m p c = false ∨ f.2.2 = false → stays f.1) ∧
        (s.mayRelease m p c = true → f.2.2 = true → ∃ u, exec f.1 s = .next u ∧ u.mem = s.mem ∧
          (if f.2.1 then (u.core c).reg.frzMlist else (u.core c).reg.frzClist) = false ∧
          (∀ o, s.findOp c o.ticket = some o → o.phase = .heldBy → o.move = f.2.1 → u.Ended c o.ticket stViolation 0) ∧
          ∀ o ∈ (u.core c).ops, o.phase = .heldBy → o.move ≠ f.2.1)) ∧
      ((s.mayRelease m p c && k.reg.frzCore && !k.reg.retiring) = false → stays (.partReleaseCore m p c)) ∧
      ((s.mayRelease m p c && k.reg.frzCore && !k.reg.retiring) = true →
        ∃ u, exec (.partReleaseCore m p c) s = .next u ∧ u.mem = s.mem ∧ (u.core c).reg.frzCore = false ∧
          ∀ t, (s.thread c t).st = .frozen → (s.thread c t).coreHeld = true →
            u.thread c t = { s.thread c t with st := .ready, coreHeld := false })) ∧
    (∀ (m : Master) (sid : BitVec 32) (module : BitVec 18) (p : PartId),
      (s.hostMaint m = false → stays (.modReleaseSession m sid) ∧ stays (.modReleaseRemoteModule m module p)) ∧
      (s.hostMaint m = true →
        (s.findSess sid true = none → stays (.modReleaseSession m sid)) ∧
        (∀ i, s.findSess sid true = some i → exec (.modReleaseSession m sid) s = .next (s.modSess i fun x =>
          if x.st = .frozen then { x with st := .openS } else x)) ∧
        ∃ u, exec (.modReleaseRemoteModule m module p) s = .next u ∧ u.mem = s.mem ∧ (module, p) ∉ u.fab.frozenPairs ∧
          ∀ x, x ≠ (module, p) → (x ∈ u.fab.frozenPairs ↔ x ∈ s.fab.frozenPairs))) ∧
    (∀ (slot : Fin 202) (mismatches : Nat),
      let runs := s.rep.takeover = none ∧ (s.pwr.run = .ready ∨ s.pwr.run = .starting)
      (¬runs ∨ s.bankFor slot = none → stays (.ledgerSlotWrite slot mismatches)) ∧
      (∀ b, runs → s.bankFor slot = some b → ∃ u, exec (.ledgerSlotWrite slot mismatches) s = .next u ∧ u.mem = s.mem ∧
        u.rep.ledgerSeq = s.rep.ledgerSeq + 1 ∧
        (mismatches < 4 → vget (vget u.rep.banks b).slots slot =
          { seq := s.rep.ledgerSeq + 1, valid := true, body := s.slotBody slot.val }) ∧
        (4 ≤ mismatches → (vget u.rep.banks b).failed = true ∧ u.rep.faultHeld = true ∧ u.rep.lrValid = true)))

/-! ### Power and start-up (chapter 16) -/

/-- R427 to R431, R434, R437 to R441: a power-loss stop or RESET_N leaves the module without its memory, keeps fuses, slow tier
and firmware, and records the cause in the ledger; a latched stop waits for its release. Start-up makes the module ready, in
PROVISIONING when no keyring is valid. A governor window lowers the first item above its floor while the input exceeds the cap
and raises the last one after 16 low windows; a thermal warning holds every item at its floor. PWR_CAP and SHUTDOWN are the
maintenance session's, and an orderly shut-down completes once loads and slow-tier writes have ended. -/
def Obligations.PowerGovernsAndStops : Prop :=
  ∀ (s : State),
    let stays (i : Instr) : Prop := exec i s = .next s
    let keeps (u : State) : Prop := u.sec.ownerHash = s.sec.ownerHash ∧ u.sec.ownerLock = s.sec.ownerLock ∧
      u.sec.ringVer = s.sec.ringVer ∧ u.sec.dbgDisable = s.sec.dbgDisable ∧ u.tier.slowObjs = s.tier.slowObjs ∧ u.tier.stripes = s.tier.stripes ∧
      u.rep.fwSlots = s.rep.fwSlots ∧ u.pending = s.pending ∧ u.mem = [] ∧ (∀ p, (u.part p).st = .absent)
    let records (u : State) (cause : BitVec 4) : Prop :=
      if s.powered = true ∧ s.pwr.safe = false then
        ∀ b, s.bankFor 7 = some b → vget (vget u.rep.banks b).slots 7 =
          { seq := s.rep.ledgerSeq + 1, valid := true, body := .counters cause s.lifetime s.wear }
      else u.rep.banks = s.rep.banks
    (∀ f ∈ ([(.undervoltage, 1, false), (.overcurrent, 2, true), (.overvoltage, 3, true), (.thermalShutdown, 4, true)] :
        List (Instr × BitVec 4 × Bool)),
      (s.pwr.run = .off ∨ s.pwr.run = .latched → stays f.1) ∧
      (s.pwr.run ≠ .off → s.pwr.run ≠ .latched → ∃ u, exec f.1 s = .next u ∧ keeps u ∧ records u f.2.1 ∧
        u.pwr.pwrGood = false ∧ u.pwr.run = (if f.2.2 then .latched else .off) ∧
        u.pwr.latchedCause = if f.2.2 then some f.2.1 else none)) ∧
    (exec .latchedStopClear s = .next (if s.pwr.run = .latched then
        s.modPwr fun u => { u with run := .off, latchedCause := none } else s)) ∧
    (if s.pwr.run = .off ∨ (s.powered = true ∧ s.pwr.pwrGood = false) then
      ∃ u, exec .inputPowerGood s = .next u ∧ keeps u ∧ u.rep.banks = s.rep.banks ∧ u.pwr.pwrGood = true ∧
        u.pwr.run = if s.pwr.resetN then .starting else .inReset
     else exec .inputPowerGood s = .next (s.modPwr fun u => { u with pwrGood := u.pwrGood || u.run == .inReset })) ∧
    (exec .railOutOfRange s = .next (s.modPwr fun u => { u with pwrGood := false })) ∧
    (s.powered = false → exec .resetNLow s = .next (s.modPwr fun u => { u with resetN := false })) ∧
    (s.powered = true → ∃ u, exec .resetNLow s = .next u ∧ keeps u ∧ records u 5 ∧ u.pwr.pwrGood = s.pwr.pwrGood ∧
      u.pwr.run = .inReset ∧ u.pwr.resetN = false) ∧
    (exec .resetNHigh s = .next (s.modPwr fun u =>
      { u with resetN := true, run := if u.run == .inReset && u.pwrGood then .starting else u.run })) ∧
    (exec .nearRateStepEnd s = .next (s.modPwr fun u => { u with nearStepping := false })) ∧
    (∀ e : StartEnv,
      (s.pwr.run ≠ .starting → stays (.startUp e)) ∧
      (s.pwr.run = .starting → e.romOk = true → ∃ u, exec (.startUp e) s = .next u ∧ u.pwr.run = .ready ∧
        u.pwr.startStep = 7 ∧ u.pwr.startTime = e.time ∧ FusesKept s u ∧
        (s.sec.keyring = none → s.sec.ownerLock = false → u.sec.provisioning = true ∧ u.sec.pcause = 1 ∧
          u.rep.fwVersion = Config.factoryVersion) ∧
        ∀ k pending, s.readSlot e.badLedger 6 = some (.security (some k) pending) → s.ringOk k = true →
          u.sec.keyring = some k) ∧
      (s.pwr.run = .starting → e.romOk = false → s.sec.keyring = none → s.sec.ownerLock = false →
        ∃ u, exec (.startUp e) s = .next u ∧ u.pwr.run = .halted ∧ u.pwr.startStep = 1 ∧ u.rep.faultHeld = true)) ∧
    (∀ pin vin : BitVec 16,
      let i : Instr := .governorWindow pin vin
      let cap := s.pwr.cap.toNat
      let rate := s.pwr.nearRate.toNat
      let access := s.pwr.nearAccess.toNat
      let low := 20 * pin.toNat < 19 * (10 * cap)
      let windows := if low then s.pwr.lowWindows + 1 else 0
      let counted := s.modPwr fun u =>
        { u with pin := pin, vin := vin, lowWindows := windows, sinceRaise := u.sinceRaise + 1 }
      let above := 10 * cap < pin.toNat
      let lower (k : Core) : Core :=
        if k.floorAt cap < k.reg.freqMhz.toNat then k.setFreq (max (k.floorAt cap) (k.reg.freqMhz.toNat - 50)) else k
      (s.powered = false → stays i) ∧
      (s.powered = true → s.pwr.thermal = true ∨ (¬above ∧ windows < 16) → exec i s = .next counted) ∧
      (s.powered = true → s.pwr.thermal = false → above →
        (s.coresHigh = true → exec i s = .next (({ counted with cores := s.cores.map lower }).modPwr fun u =>
          { u with govDown := u.govDown + 1 })) ∧
        (s.coresHigh = false → min s.pwr.nearImgRate.toNat (rateFloor cap) < rate →
          ∃ u, exec i s = .next u ∧ u.cores = s.cores ∧ u.pwr.nearRate.toNat = rate - 4 ∧ u.pwr.nearAccess = s.pwr.nearAccess ∧
            u.pwr.govDown = s.pwr.govDown + 1 ∧ ∀ c, (s.chan c).st = .serving → (u.chan c).rate.toNat = rate - 4) ∧
        (s.coresHigh = false → rate ≤ min s.pwr.nearImgRate.toNat (rateFloor cap) →
          exec i s = .next (if accessFloor cap rate < access then
            counted.modPwr fun u => { u with nearAccess := u.nearAccess - 1, govDown := u.govDown + 1 } else counted))) ∧
      (s.powered = true → s.pwr.thermal = false → ¬above → 16 ≤ windows →
        (access < 16 → exec i s = .next (counted.modPwr fun u =>
          { u with nearAccess := u.nearAccess + 1, govUp := u.govUp + 1 })) ∧
        (16 ≤ access → rate < s.pwr.nearImgRate.toNat → ∃ u, exec i s = .next u ∧ u.cores = s.cores ∧
          u.pwr.nearAccess = s.pwr.nearAccess ∧ u.pwr.nearRate = if s.pwr.sinceRaise < 15 then s.pwr.nearRate else s.pwr.nearRate + 4) ∧
        (16 ≤ access → s.pwr.nearImgRate.toNat ≤ rate → ∃ u, exec i s = .next u ∧ u.pwr.nearRate = s.pwr.nearRate ∧
          u.pwr.nearAccess = s.pwr.nearAccess ∧
          ∀ c, (u.core c).reg.freqMhz.toNat = max (s.core c).reg.freqMhz.toNat
            (min (s.core c).reg.imgMhz.toNat ((s.core c).reg.freqMhz.toNat + 50))))) ∧
    (∀ (die : PortId) (temp : BitVec 16),
      let hot (u : State) : Prop := (if die = 0 then u.pwr.die0 else u.pwr.die1) = temp
      (s.powered = false → stays (.thermalWarning die temp) ∧ stays (.thermalClear die temp)) ∧
      (temp.toInt < 1680 → stays (.thermalWarning die temp)) ∧ (1600 ≤ temp.toInt → stays (.thermalClear die temp)) ∧
      (s.powered = true → 1680 ≤ temp.toInt → ∃ u, exec (.thermalWarning die temp) s = .next u ∧ u.mem = s.mem ∧ hot u ∧
        u.pwr.thermN = false ∧ u.pwr.thermal = true ∧
        (∀ c, (u.core c).reg.freqMhz.toNat = (s.core c).floorAt s.pwr.cap.toNat) ∧
        u.pwr.nearRate.toNat = min s.pwr.nearImgRate.toNat (rateFloor s.pwr.cap.toNat)) ∧
      (s.powered = true → temp.toInt < 1600 → ∃ u, exec (.thermalClear die temp) s = .next u ∧ u.cores = s.cores ∧ hot u ∧
        (u.hotspot < 1600 → u.pwr.thermN = true ∧ u.pwr.thermal = false) ∧
        (1600 ≤ u.hotspot → u.pwr.thermN = s.pwr.thermN ∧ u.pwr.thermal = s.pwr.thermal))) ∧
    (∀ (m : Master) (v : Word),
      let cap := v.toNat % 256
      let refused := s.pwr.capRefused && !v.getLsbD 8
      (s.hostMaint m = false → stays (.pwrCap m v)) ∧
      (s.hostMaint m = true → (cap < 30 ∨ 75 < cap) →
        exec (.pwrCap m v) s = .next (s.modPwr fun u => { u with capRefused := true })) ∧
      (s.hostMaint m = true → 30 ≤ cap → cap ≤ 75 → ∃ u, exec (.pwrCap m v) s = .next u ∧ u.pwr.cap.toNat = cap ∧
        u.pwr.capRefused = refused ∧ u.mem = s.mem ∧
        (s.pwr.thermal = false → u.cores = s.cores) ∧
        (s.pwr.thermal = true → ∀ c, (u.core c).reg.freqMhz.toNat = (s.core c).floorAt cap)) ∧
      (s.hostMaint m = false ∨ s.ready = false ∨ s.pwr.safe = true → stays (.shutdown m)) ∧
      (s.hostMaint m = true → s.ready = true → s.pwr.safe = false → ∃ u, exec (.shutdown m) s = .next u ∧
        u.pwr.shutting = true ∧ u.pwr.safe = false ∧ u.pwr.shutReqs = s.pwr.shutReqs ∧ ∀ p, u.stopped p = true)) ∧
    (s.pwr.shutting = false ∨ s.pwr.safe = true ∨ s.loadBusy = true ∨ s.rep.takeover ≠ none ∨ (∃ m ∈ s.tier.moves, m.dest = 1) →
      stays .shutdownComplete) ∧
    (s.pwr.shutting = true → s.pwr.safe = false → s.loadBusy = false → s.rep.takeover = none →
      (∀ m ∈ s.tier.moves, m.dest ≠ 1) →
      ∃ u, exec .shutdownComplete s = .next u ∧ u.mem = s.mem ∧ u.pwr.safe = true ∧ u.pwr.shutReqs = [] ∧
        (∀ b, s.bankFor 7 = some b → vget (vget u.rep.banks b).slots 7 =
          { seq := if s.bankFor 8 = none then s.rep.ledgerSeq + 1 else s.rep.ledgerSeq + 2, valid := true,
            body := .counters 0 s.lifetime s.wear }) ∧
        (∀ b, s.bankFor 8 = some b → (vget (vget u.rep.banks b).slots 8).body = s.slotBody 8) ∧
        ∀ h c, s.pwr.shutReqs = [h] → s.accepted h c → u.reports c stDone 0)

/-! ### What every step keeps -/

/-- R6, DESIGN CHOICE (notes/assumptions/1.md): every step keeps the memory in its canonical form, so that equal memories are
equal data and a byte reads as one value. -/
def Obligations.MemoryStaysCanonical : Prop := ∀ s u : State, s.memOk → step s = .next u → u.memOk

/-- R400, R410, R413, R421: no step undoes a fuse: OWNER_LOCK and DBG_DISABLE stay set, OWNER_HASH is final once it is
locked, and RING_VER never counts down. -/
def Obligations.FusesStayProgrammed : Prop := ∀ s u : State, step s = .next u → FusesKept s u

/-- R10, DESIGN CHOICE (notes/assumptions/3.md): a step takes the command at the front of the queue and leaves the rest as they
stand; an empty queue leaves the whole state as it is. -/
def Obligations.QueueIsLeftAlone : Prop :=
  ∀ s u : State, step s = .next u → u.pending = s.pending.tail ∧ (s.pending = [] → u = s)
end

