-- ==== Sys2Proof/Laws/State.lean ====
section
/-! SUPPORT. The fields of State after each update: one lemma a field and an update, so that no proof unfolds one. -/

namespace Sys2Proof.Machine

/-! ### Vectors -/

@[simp] theorem vget_vset_self {α : Type} {n : Nat} (v : Vector α n) (i : Fin n) (x : α) : vget (vset v i x) i = x := by
  simp [vget, vset]

theorem vget_vset_ne {α : Type} {n : Nat} (v : Vector α n) {i j : Fin n} (x : α) (h : i ≠ j) :
    vget (vset v i x) j = vget v j := by
  have h' : i.val ≠ j.val := fun e => h (Fin.ext e)
  simp [vget, vset, h']

theorem vget_vset {α : Type} {n : Nat} (v : Vector α n) (i j : Fin n) (x : α) :
    vget (vset v i x) j = if i = j then x else vget v j := by
  by_cases h : i = j
  · subst h; simp
  · simp [h, vget_vset_ne v x h]

@[simp] theorem vset_vset {α : Type} {n : Nat} (v : Vector α n) (i : Fin n) (x y : α) :
    vset (vset v i x) i y = vset v i y := by
  simp [vset]

@[simp] theorem vset_vget {α : Type} {n : Nat} (v : Vector α n) (i : Fin n) : vset v i (vget v i) = v := by
  simp [vset, vget]

theorem vget_vmod {α : Type} {n : Nat} (v : Vector α n) (i j : Fin n) (f : α → α) :
    vget (vmod v i f) j = if i = j then f (vget v i) else vget v j := by
  simp [vmod, vget_vset]

@[simp] theorem vget_vmod_self {α : Type} {n : Nat} (v : Vector α n) (i : Fin n) (f : α → α) :
    vget (vmod v i f) i = f (vget v i) := by
  simp [vmod]

/-! ### Cores and threads -/

@[simp] theorem State.core_setCore (s : State) (c : CoreId) (x : Core) : (s.setCore c x).core c = x := by
  simp [State.core, State.setCore]

theorem State.core_setCore_ne (s : State) {c d : CoreId} (x : Core) (h : c ≠ d) : (s.setCore c x).core d = s.core d := by
  simp [State.core, State.setCore, vget_vset_ne _ _ h]

@[simp] theorem State.setCore_setCore (s : State) (c : CoreId) (x y : Core) : (s.setCore c x).setCore c y = s.setCore c y := by
  simp [State.setCore]

@[simp] theorem State.setCore_core (s : State) (c : CoreId) : s.setCore c (s.core c) = s := by
  simp [State.setCore, State.core]

@[simp] theorem State.core_modCore (s : State) (c : CoreId) (f : Core → Core) : (s.modCore c f).core c = f (s.core c) := by
  simp [State.modCore]

theorem State.core_modCore_ne (s : State) {c d : CoreId} (f : Core → Core) (h : c ≠ d) : (s.modCore c f).core d = s.core d :=
  s.core_setCore_ne _ h

@[simp] theorem State.modCore_modCore (s : State) (c : CoreId) (f g : Core → Core) :
    (s.modCore c f).modCore c g = s.modCore c fun k => g (f k) := by
  simp [State.modCore]

@[simp] theorem State.thread_setThread (s : State) (c : CoreId) (t : ThreadId) (x : Thread) :
    (s.setThread c t x).thread c t = x := by
  simp [State.thread, State.setThread]

theorem State.thread_setThread_ne (s : State) (c : CoreId) {t u : ThreadId} (x : Thread) (h : t ≠ u) :
    (s.setThread c t x).thread c u = s.thread c u := by
  simp [State.thread, State.setThread, vget_vset_ne _ _ h]

@[simp] theorem State.setThread_setThread (s : State) (c : CoreId) (t : ThreadId) (x y : Thread) :
    (s.setThread c t x).setThread c t y = s.setThread c t y := by
  simp [State.setThread]

@[simp] theorem State.thread_modThread (s : State) (c : CoreId) (t : ThreadId) (f : Thread → Thread) :
    (s.modThread c t f).thread c t = f (s.thread c t) := by
  simp [State.modThread]

@[simp] theorem State.modThread_modThread (s : State) (c : CoreId) (t : ThreadId) (f g : Thread → Thread) :
    (s.modThread c t f).modThread c t g = s.modThread c t fun x => g (f x) := by
  simp [State.modThread]

/-! ### Tables -/

@[simp] theorem vget_vtab {α : Type} {n : Nat} (f : Fin n → α) (i : Fin n) : vget (vtab f) i = f i := by
  simp [vget, vtab]

/-! ### Units of other kinds -/

@[simp] theorem State.part_modPart (s : State) (p : PartId) (f : Part → Part) : (s.modPart p f).part p = f (s.part p) := by
  simp [State.part, State.modPart]

@[simp] theorem State.chan_modChan (s : State) (c : ChanId) (f : Chan → Chan) : (s.modChan c f).chan c = f (s.chan c) := by
  simp [State.chan, State.modChan]

@[simp] theorem State.link_modLink (s : State) (l : LinkId) (f : Link → Link) : (s.modLink l f).link l = f (s.link l) := by
  simp [State.link, State.modLink, State.modFab]

@[simp] theorem State.sess_modSess (s : State) (i : Fin 64) (f : Session → Session) :
    (s.modSess i f).sess i = f (s.sess i) := by
  simp [State.sess, State.modSess, State.modFct]

@[simp] theorem State.eth_modEth (s : State) (p : PortId) (f : Eth → Eth) : (s.modEth p f).eth p = f (s.eth p) := by
  simp [State.eth, State.modEth, State.modFct]

/-! ### Other fields -/

/-! `State.setCore` -/

@[simp] theorem State.setCore_pending (s : State) (c : CoreId) (x : Core) : (s.setCore c x).pending = s.pending := rfl
@[simp] theorem State.setCore_free (s : State) (c : CoreId) (x : Core) : (s.setCore c x).free = s.free := rfl
@[simp] theorem State.setCore_mem (s : State) (c : CoreId) (x : Core) : (s.setCore c x).mem = s.mem := rfl
@[simp] theorem State.setCore_poison (s : State) (c : CoreId) (x : Core) : (s.setCore c x).poison = s.poison := rfl
@[simp] theorem State.setCore_cores (s : State) (c : CoreId) (x : Core) : (s.setCore c x).cores = vset s.cores c x := rfl
@[simp] theorem State.setCore_act (s : State) (c : CoreId) (x : Core) : (s.setCore c x).act = s.act := rfl
@[simp] theorem State.setCore_ret (s : State) (c : CoreId) (x : Core) : (s.setCore c x).ret = s.ret := rfl
@[simp] theorem State.setCore_subst (s : State) (c : CoreId) (x : Core) : (s.setCore c x).subst = s.subst := rfl
@[simp] theorem State.setCore_coreGen (s : State) (c : CoreId) (x : Core) : (s.setCore c x).coreGen = s.coreGen := rfl
@[simp] theorem State.setCore_parts (s : State) (c : CoreId) (x : Core) : (s.setCore c x).parts = s.parts := rfl
@[simp] theorem State.setCore_chans (s : State) (c : CoreId) (x : Core) : (s.setCore c x).chans = s.chans := rfl
@[simp] theorem State.setCore_tier (s : State) (c : CoreId) (x : Core) : (s.setCore c x).tier = s.tier := rfl
@[simp] theorem State.setCore_fab (s : State) (c : CoreId) (x : Core) : (s.setCore c x).fab = s.fab := rfl
@[simp] theorem State.setCore_esp (s : State) (c : CoreId) (x : Core) : (s.setCore c x).esp = s.esp := rfl
@[simp] theorem State.setCore_fct (s : State) (c : CoreId) (x : Core) : (s.setCore c x).fct = s.fct := rfl
@[simp] theorem State.setCore_rep (s : State) (c : CoreId) (x : Core) : (s.setCore c x).rep = s.rep := rfl
@[simp] theorem State.setCore_sec (s : State) (c : CoreId) (x : Core) : (s.setCore c x).sec = s.sec := rfl
@[simp] theorem State.setCore_pwr (s : State) (c : CoreId) (x : Core) : (s.setCore c x).pwr = s.pwr := rfl

/-! `State.modCore` -/

@[simp] theorem State.modCore_pending (s : State) (c : CoreId) (f : Core → Core) : (s.modCore c f).pending = s.pending := rfl
@[simp] theorem State.modCore_free (s : State) (c : CoreId) (f : Core → Core) : (s.modCore c f).free = s.free := rfl
@[simp] theorem State.modCore_mem (s : State) (c : CoreId) (f : Core → Core) : (s.modCore c f).mem = s.mem := rfl
@[simp] theorem State.modCore_poison (s : State) (c : CoreId) (f : Core → Core) : (s.modCore c f).poison = s.poison := rfl
@[simp] theorem State.modCore_cores (s : State) (c : CoreId) (f : Core → Core) : (s.modCore c f).cores = vset s.cores c (f (vget s.cores c)) := rfl
@[simp] theorem State.modCore_act (s : State) (c : CoreId) (f : Core → Core) : (s.modCore c f).act = s.act := rfl
@[simp] theorem State.modCore_ret (s : State) (c : CoreId) (f : Core → Core) : (s.modCore c f).ret = s.ret := rfl
@[simp] theorem State.modCore_subst (s : State) (c : CoreId) (f : Core → Core) : (s.modCore c f).subst = s.subst := rfl
@[simp] theorem State.modCore_coreGen (s : State) (c : CoreId) (f : Core → Core) : (s.modCore c f).coreGen = s.coreGen := rfl
@[simp] theorem State.modCore_parts (s : State) (c : CoreId) (f : Core → Core) : (s.modCore c f).parts = s.parts := rfl
@[simp] theorem State.modCore_chans (s : State) (c : CoreId) (f : Core → Core) : (s.modCore c f).chans = s.chans := rfl
@[simp] theorem State.modCore_tier (s : State) (c : CoreId) (f : Core → Core) : (s.modCore c f).tier = s.tier := rfl
@[simp] theorem State.modCore_fab (s : State) (c : CoreId) (f : Core → Core) : (s.modCore c f).fab = s.fab := rfl
@[simp] theorem State.modCore_esp (s : State) (c : CoreId) (f : Core → Core) : (s.modCore c f).esp = s.esp := rfl
@[simp] theorem State.modCore_fct (s : State) (c : CoreId) (f : Core → Core) : (s.modCore c f).fct = s.fct := rfl
@[simp] theorem State.modCore_rep (s : State) (c : CoreId) (f : Core → Core) : (s.modCore c f).rep = s.rep := rfl
@[simp] theorem State.modCore_sec (s : State) (c : CoreId) (f : Core → Core) : (s.modCore c f).sec = s.sec := rfl
@[simp] theorem State.modCore_pwr (s : State) (c : CoreId) (f : Core → Core) : (s.modCore c f).pwr = s.pwr := rfl

/-! `State.setThread` -/

@[simp] theorem State.setThread_pending (s : State) (c : CoreId) (t : ThreadId) (x : Thread) : (s.setThread c t x).pending = s.pending := rfl
@[simp] theorem State.setThread_free (s : State) (c : CoreId) (t : ThreadId) (x : Thread) : (s.setThread c t x).free = s.free := rfl
@[simp] theorem State.setThread_mem (s : State) (c : CoreId) (t : ThreadId) (x : Thread) : (s.setThread c t x).mem = s.mem := rfl
@[simp] theorem State.setThread_poison (s : State) (c : CoreId) (t : ThreadId) (x : Thread) : (s.setThread c t x).poison = s.poison := rfl
@[simp] theorem State.setThread_act (s : State) (c : CoreId) (t : ThreadId) (x : Thread) : (s.setThread c t x).act = s.act := rfl
@[simp] theorem State.setThread_ret (s : State) (c : CoreId) (t : ThreadId) (x : Thread) : (s.setThread c t x).ret = s.ret := rfl
@[simp] theorem State.setThread_subst (s : State) (c : CoreId) (t : ThreadId) (x : Thread) : (s.setThread c t x).subst = s.subst := rfl
@[simp] theorem State.setThread_coreGen (s : State) (c : CoreId) (t : ThreadId) (x : Thread) : (s.setThread c t x).coreGen = s.coreGen := rfl
@[simp] theorem State.setThread_parts (s : State) (c : CoreId) (t : ThreadId) (x : Thread) : (s.setThread c t x).parts = s.parts := rfl
@[simp] theorem State.setThread_chans (s : State) (c : CoreId) (t : ThreadId) (x : Thread) : (s.setThread c t x).chans = s.chans := rfl
@[simp] theorem State.setThread_tier (s : State) (c : CoreId) (t : ThreadId) (x : Thread) : (s.setThread c t x).tier = s.tier := rfl
@[simp] theorem State.setThread_fab (s : State) (c : CoreId) (t : ThreadId) (x : Thread) : (s.setThread c t x).fab = s.fab := rfl
@[simp] theorem State.setThread_esp (s : State) (c : CoreId) (t : ThreadId) (x : Thread) : (s.setThread c t x).esp = s.esp := rfl
@[simp] theorem State.setThread_fct (s : State) (c : CoreId) (t : ThreadId) (x : Thread) : (s.setThread c t x).fct = s.fct := rfl
@[simp] theorem State.setThread_rep (s : State) (c : CoreId) (t : ThreadId) (x : Thread) : (s.setThread c t x).rep = s.rep := rfl
@[simp] theorem State.setThread_sec (s : State) (c : CoreId) (t : ThreadId) (x : Thread) : (s.setThread c t x).sec = s.sec := rfl
@[simp] theorem State.setThread_pwr (s : State) (c : CoreId) (t : ThreadId) (x : Thread) : (s.setThread c t x).pwr = s.pwr := rfl

/-! `State.modThread` -/

@[simp] theorem State.modThread_pending (s : State) (c : CoreId) (t : ThreadId) (f : Thread → Thread) : (s.modThread c t f).pending = s.pending := rfl
@[simp] theorem State.modThread_free (s : State) (c : CoreId) (t : ThreadId) (f : Thread → Thread) : (s.modThread c t f).free = s.free := rfl
@[simp] theorem State.modThread_mem (s : State) (c : CoreId) (t : ThreadId) (f : Thread → Thread) : (s.modThread c t f).mem = s.mem := rfl
@[simp] theorem State.modThread_poison (s : State) (c : CoreId) (t : ThreadId) (f : Thread → Thread) : (s.modThread c t f).poison = s.poison := rfl
@[simp] theorem State.modThread_act (s : State) (c : CoreId) (t : ThreadId) (f : Thread → Thread) : (s.modThread c t f).act = s.act := rfl
@[simp] theorem State.modThread_ret (s : State) (c : CoreId) (t : ThreadId) (f : Thread → Thread) : (s.modThread c t f).ret = s.ret := rfl
@[simp] theorem State.modThread_subst (s : State) (c : CoreId) (t : ThreadId) (f : Thread → Thread) : (s.modThread c t f).subst = s.subst := rfl
@[simp] theorem State.modThread_coreGen (s : State) (c : CoreId) (t : ThreadId) (f : Thread → Thread) : (s.modThread c t f).coreGen = s.coreGen := rfl
@[simp] theorem State.modThread_parts (s : State) (c : CoreId) (t : ThreadId) (f : Thread → Thread) : (s.modThread c t f).parts = s.parts := rfl
@[simp] theorem State.modThread_chans (s : State) (c : CoreId) (t : ThreadId) (f : Thread → Thread) : (s.modThread c t f).chans = s.chans := rfl
@[simp] theorem State.modThread_tier (s : State) (c : CoreId) (t : ThreadId) (f : Thread → Thread) : (s.modThread c t f).tier = s.tier := rfl
@[simp] theorem State.modThread_fab (s : State) (c : CoreId) (t : ThreadId) (f : Thread → Thread) : (s.modThread c t f).fab = s.fab := rfl
@[simp] theorem State.modThread_esp (s : State) (c : CoreId) (t : ThreadId) (f : Thread → Thread) : (s.modThread c t f).esp = s.esp := rfl
@[simp] theorem State.modThread_fct (s : State) (c : CoreId) (t : ThreadId) (f : Thread → Thread) : (s.modThread c t f).fct = s.fct := rfl
@[simp] theorem State.modThread_rep (s : State) (c : CoreId) (t : ThreadId) (f : Thread → Thread) : (s.modThread c t f).rep = s.rep := rfl
@[simp] theorem State.modThread_sec (s : State) (c : CoreId) (t : ThreadId) (f : Thread → Thread) : (s.modThread c t f).sec = s.sec := rfl
@[simp] theorem State.modThread_pwr (s : State) (c : CoreId) (t : ThreadId) (f : Thread → Thread) : (s.modThread c t f).pwr = s.pwr := rfl

/-! `State.modReg` -/

@[simp] theorem State.modReg_pending (s : State) (c : CoreId) (f : CoreRegs → CoreRegs) : (s.modReg c f).pending = s.pending := rfl
@[simp] theorem State.modReg_free (s : State) (c : CoreId) (f : CoreRegs → CoreRegs) : (s.modReg c f).free = s.free := rfl
@[simp] theorem State.modReg_mem (s : State) (c : CoreId) (f : CoreRegs → CoreRegs) : (s.modReg c f).mem = s.mem := rfl
@[simp] theorem State.modReg_poison (s : State) (c : CoreId) (f : CoreRegs → CoreRegs) : (s.modReg c f).poison = s.poison := rfl
@[simp] theorem State.modReg_act (s : State) (c : CoreId) (f : CoreRegs → CoreRegs) : (s.modReg c f).act = s.act := rfl
@[simp] theorem State.modReg_ret (s : State) (c : CoreId) (f : CoreRegs → CoreRegs) : (s.modReg c f).ret = s.ret := rfl
@[simp] theorem State.modReg_subst (s : State) (c : CoreId) (f : CoreRegs → CoreRegs) : (s.modReg c f).subst = s.subst := rfl
@[simp] theorem State.modReg_coreGen (s : State) (c : CoreId) (f : CoreRegs → CoreRegs) : (s.modReg c f).coreGen = s.coreGen := rfl
@[simp] theorem State.modReg_parts (s : State) (c : CoreId) (f : CoreRegs → CoreRegs) : (s.modReg c f).parts = s.parts := rfl
@[simp] theorem State.modReg_chans (s : State) (c : CoreId) (f : CoreRegs → CoreRegs) : (s.modReg c f).chans = s.chans := rfl
@[simp] theorem State.modReg_tier (s : State) (c : CoreId) (f : CoreRegs → CoreRegs) : (s.modReg c f).tier = s.tier := rfl
@[simp] theorem State.modReg_fab (s : State) (c : CoreId) (f : CoreRegs → CoreRegs) : (s.modReg c f).fab = s.fab := rfl
@[simp] theorem State.modReg_esp (s : State) (c : CoreId) (f : CoreRegs → CoreRegs) : (s.modReg c f).esp = s.esp := rfl
@[simp] theorem State.modReg_fct (s : State) (c : CoreId) (f : CoreRegs → CoreRegs) : (s.modReg c f).fct = s.fct := rfl
@[simp] theorem State.modReg_rep (s : State) (c : CoreId) (f : CoreRegs → CoreRegs) : (s.modReg c f).rep = s.rep := rfl
@[simp] theorem State.modReg_sec (s : State) (c : CoreId) (f : CoreRegs → CoreRegs) : (s.modReg c f).sec = s.sec := rfl
@[simp] theorem State.modReg_pwr (s : State) (c : CoreId) (f : CoreRegs → CoreRegs) : (s.modReg c f).pwr = s.pwr := rfl

/-! `State.modArr` -/

@[simp] theorem State.modArr_pending (s : State) (c : CoreId) (f : ArrUnit → ArrUnit) : (s.modArr c f).pending = s.pending := rfl
@[simp] theorem State.modArr_free (s : State) (c : CoreId) (f : ArrUnit → ArrUnit) : (s.modArr c f).free = s.free := rfl
@[simp] theorem State.modArr_mem (s : State) (c : CoreId) (f : ArrUnit → ArrUnit) : (s.modArr c f).mem = s.mem := rfl
@[simp] theorem State.modArr_poison (s : State) (c : CoreId) (f : ArrUnit → ArrUnit) : (s.modArr c f).poison = s.poison := rfl
@[simp] theorem State.modArr_act (s : State) (c : CoreId) (f : ArrUnit → ArrUnit) : (s.modArr c f).act = s.act := rfl
@[simp] theorem State.modArr_ret (s : State) (c : CoreId) (f : ArrUnit → ArrUnit) : (s.modArr c f).ret = s.ret := rfl
@[simp] theorem State.modArr_subst (s : State) (c : CoreId) (f : ArrUnit → ArrUnit) : (s.modArr c f).subst = s.subst := rfl
@[simp] theorem State.modArr_coreGen (s : State) (c : CoreId) (f : ArrUnit → ArrUnit) : (s.modArr c f).coreGen = s.coreGen := rfl
@[simp] theorem State.modArr_parts (s : State) (c : CoreId) (f : ArrUnit → ArrUnit) : (s.modArr c f).parts = s.parts := rfl
@[simp] theorem State.modArr_chans (s : State) (c : CoreId) (f : ArrUnit → ArrUnit) : (s.modArr c f).chans = s.chans := rfl
@[simp] theorem State.modArr_tier (s : State) (c : CoreId) (f : ArrUnit → ArrUnit) : (s.modArr c f).tier = s.tier := rfl
@[simp] theorem State.modArr_fab (s : State) (c : CoreId) (f : ArrUnit → ArrUnit) : (s.modArr c f).fab = s.fab := rfl
@[simp] theorem State.modArr_esp (s : State) (c : CoreId) (f : ArrUnit → ArrUnit) : (s.modArr c f).esp = s.esp := rfl
@[simp] theorem State.modArr_fct (s : State) (c : CoreId) (f : ArrUnit → ArrUnit) : (s.modArr c f).fct = s.fct := rfl
@[simp] theorem State.modArr_rep (s : State) (c : CoreId) (f : ArrUnit → ArrUnit) : (s.modArr c f).rep = s.rep := rfl
@[simp] theorem State.modArr_sec (s : State) (c : CoreId) (f : ArrUnit → ArrUnit) : (s.modArr c f).sec = s.sec := rfl
@[simp] theorem State.modArr_pwr (s : State) (c : CoreId) (f : ArrUnit → ArrUnit) : (s.modArr c f).pwr = s.pwr := rfl

/-! `State.modSts` -/

@[simp] theorem State.modSts_pending (s : State) (c : CoreId) (f : StsUnit → StsUnit) : (s.modSts c f).pending = s.pending := rfl
@[simp] theorem State.modSts_free (s : State) (c : CoreId) (f : StsUnit → StsUnit) : (s.modSts c f).free = s.free := rfl
@[simp] theorem State.modSts_mem (s : State) (c : CoreId) (f : StsUnit → StsUnit) : (s.modSts c f).mem = s.mem := rfl
@[simp] theorem State.modSts_poison (s : State) (c : CoreId) (f : StsUnit → StsUnit) : (s.modSts c f).poison = s.poison := rfl
@[simp] theorem State.modSts_act (s : State) (c : CoreId) (f : StsUnit → StsUnit) : (s.modSts c f).act = s.act := rfl
@[simp] theorem State.modSts_ret (s : State) (c : CoreId) (f : StsUnit → StsUnit) : (s.modSts c f).ret = s.ret := rfl
@[simp] theorem State.modSts_subst (s : State) (c : CoreId) (f : StsUnit → StsUnit) : (s.modSts c f).subst = s.subst := rfl
@[simp] theorem State.modSts_coreGen (s : State) (c : CoreId) (f : StsUnit → StsUnit) : (s.modSts c f).coreGen = s.coreGen := rfl
@[simp] theorem State.modSts_parts (s : State) (c : CoreId) (f : StsUnit → StsUnit) : (s.modSts c f).parts = s.parts := rfl
@[simp] theorem State.modSts_chans (s : State) (c : CoreId) (f : StsUnit → StsUnit) : (s.modSts c f).chans = s.chans := rfl
@[simp] theorem State.modSts_tier (s : State) (c : CoreId) (f : StsUnit → StsUnit) : (s.modSts c f).tier = s.tier := rfl
@[simp] theorem State.modSts_fab (s : State) (c : CoreId) (f : StsUnit → StsUnit) : (s.modSts c f).fab = s.fab := rfl
@[simp] theorem State.modSts_esp (s : State) (c : CoreId) (f : StsUnit → StsUnit) : (s.modSts c f).esp = s.esp := rfl
@[simp] theorem State.modSts_fct (s : State) (c : CoreId) (f : StsUnit → StsUnit) : (s.modSts c f).fct = s.fct := rfl
@[simp] theorem State.modSts_rep (s : State) (c : CoreId) (f : StsUnit → StsUnit) : (s.modSts c f).rep = s.rep := rfl
@[simp] theorem State.modSts_sec (s : State) (c : CoreId) (f : StsUnit → StsUnit) : (s.modSts c f).sec = s.sec := rfl
@[simp] theorem State.modSts_pwr (s : State) (c : CoreId) (f : StsUnit → StsUnit) : (s.modSts c f).pwr = s.pwr := rfl

/-! `State.modKvc` -/

@[simp] theorem State.modKvc_pending (s : State) (c : CoreId) (f : KvcUnit → KvcUnit) : (s.modKvc c f).pending = s.pending := rfl
@[simp] theorem State.modKvc_free (s : State) (c : CoreId) (f : KvcUnit → KvcUnit) : (s.modKvc c f).free = s.free := rfl
@[simp] theorem State.modKvc_mem (s : State) (c : CoreId) (f : KvcUnit → KvcUnit) : (s.modKvc c f).mem = s.mem := rfl
@[simp] theorem State.modKvc_poison (s : State) (c : CoreId) (f : KvcUnit → KvcUnit) : (s.modKvc c f).poison = s.poison := rfl
@[simp] theorem State.modKvc_act (s : State) (c : CoreId) (f : KvcUnit → KvcUnit) : (s.modKvc c f).act = s.act := rfl
@[simp] theorem State.modKvc_ret (s : State) (c : CoreId) (f : KvcUnit → KvcUnit) : (s.modKvc c f).ret = s.ret := rfl
@[simp] theorem State.modKvc_subst (s : State) (c : CoreId) (f : KvcUnit → KvcUnit) : (s.modKvc c f).subst = s.subst := rfl
@[simp] theorem State.modKvc_coreGen (s : State) (c : CoreId) (f : KvcUnit → KvcUnit) : (s.modKvc c f).coreGen = s.coreGen := rfl
@[simp] theorem State.modKvc_parts (s : State) (c : CoreId) (f : KvcUnit → KvcUnit) : (s.modKvc c f).parts = s.parts := rfl
@[simp] theorem State.modKvc_chans (s : State) (c : CoreId) (f : KvcUnit → KvcUnit) : (s.modKvc c f).chans = s.chans := rfl
@[simp] theorem State.modKvc_tier (s : State) (c : CoreId) (f : KvcUnit → KvcUnit) : (s.modKvc c f).tier = s.tier := rfl
@[simp] theorem State.modKvc_fab (s : State) (c : CoreId) (f : KvcUnit → KvcUnit) : (s.modKvc c f).fab = s.fab := rfl
@[simp] theorem State.modKvc_esp (s : State) (c : CoreId) (f : KvcUnit → KvcUnit) : (s.modKvc c f).esp = s.esp := rfl
@[simp] theorem State.modKvc_fct (s : State) (c : CoreId) (f : KvcUnit → KvcUnit) : (s.modKvc c f).fct = s.fct := rfl
@[simp] theorem State.modKvc_rep (s : State) (c : CoreId) (f : KvcUnit → KvcUnit) : (s.modKvc c f).rep = s.rep := rfl
@[simp] theorem State.modKvc_sec (s : State) (c : CoreId) (f : KvcUnit → KvcUnit) : (s.modKvc c f).sec = s.sec := rfl
@[simp] theorem State.modKvc_pwr (s : State) (c : CoreId) (f : KvcUnit → KvcUnit) : (s.modKvc c f).pwr = s.pwr := rfl

/-! `State.modCnv` -/

@[simp] theorem State.modCnv_pending (s : State) (c : CoreId) (f : CnvUnit → CnvUnit) : (s.modCnv c f).pending = s.pending := rfl
@[simp] theorem State.modCnv_free (s : State) (c : CoreId) (f : CnvUnit → CnvUnit) : (s.modCnv c f).free = s.free := rfl
@[simp] theorem State.modCnv_mem (s : State) (c : CoreId) (f : CnvUnit → CnvUnit) : (s.modCnv c f).mem = s.mem := rfl
@[simp] theorem State.modCnv_poison (s : State) (c : CoreId) (f : CnvUnit → CnvUnit) : (s.modCnv c f).poison = s.poison := rfl
@[simp] theorem State.modCnv_act (s : State) (c : CoreId) (f : CnvUnit → CnvUnit) : (s.modCnv c f).act = s.act := rfl
@[simp] theorem State.modCnv_ret (s : State) (c : CoreId) (f : CnvUnit → CnvUnit) : (s.modCnv c f).ret = s.ret := rfl
@[simp] theorem State.modCnv_subst (s : State) (c : CoreId) (f : CnvUnit → CnvUnit) : (s.modCnv c f).subst = s.subst := rfl
@[simp] theorem State.modCnv_coreGen (s : State) (c : CoreId) (f : CnvUnit → CnvUnit) : (s.modCnv c f).coreGen = s.coreGen := rfl
@[simp] theorem State.modCnv_parts (s : State) (c : CoreId) (f : CnvUnit → CnvUnit) : (s.modCnv c f).parts = s.parts := rfl
@[simp] theorem State.modCnv_chans (s : State) (c : CoreId) (f : CnvUnit → CnvUnit) : (s.modCnv c f).chans = s.chans := rfl
@[simp] theorem State.modCnv_tier (s : State) (c : CoreId) (f : CnvUnit → CnvUnit) : (s.modCnv c f).tier = s.tier := rfl
@[simp] theorem State.modCnv_fab (s : State) (c : CoreId) (f : CnvUnit → CnvUnit) : (s.modCnv c f).fab = s.fab := rfl
@[simp] theorem State.modCnv_esp (s : State) (c : CoreId) (f : CnvUnit → CnvUnit) : (s.modCnv c f).esp = s.esp := rfl
@[simp] theorem State.modCnv_fct (s : State) (c : CoreId) (f : CnvUnit → CnvUnit) : (s.modCnv c f).fct = s.fct := rfl
@[simp] theorem State.modCnv_rep (s : State) (c : CoreId) (f : CnvUnit → CnvUnit) : (s.modCnv c f).rep = s.rep := rfl
@[simp] theorem State.modCnv_sec (s : State) (c : CoreId) (f : CnvUnit → CnvUnit) : (s.modCnv c f).sec = s.sec := rfl
@[simp] theorem State.modCnv_pwr (s : State) (c : CoreId) (f : CnvUnit → CnvUnit) : (s.modCnv c f).pwr = s.pwr := rfl

/-! `State.modOp` -/

@[simp] theorem State.modOp_pending (s : State) (c : CoreId) (k : BitVec 32) (f : Op → Op) : (s.modOp c k f).pending = s.pending := rfl
@[simp] theorem State.modOp_free (s : State) (c : CoreId) (k : BitVec 32) (f : Op → Op) : (s.modOp c k f).free = s.free := rfl
@[simp] theorem State.modOp_mem (s : State) (c : CoreId) (k : BitVec 32) (f : Op → Op) : (s.modOp c k f).mem = s.mem := rfl
@[simp] theorem State.modOp_poison (s : State) (c : CoreId) (k : BitVec 32) (f : Op → Op) : (s.modOp c k f).poison = s.poison := rfl
@[simp] theorem State.modOp_act (s : State) (c : CoreId) (k : BitVec 32) (f : Op → Op) : (s.modOp c k f).act = s.act := rfl
@[simp] theorem State.modOp_ret (s : State) (c : CoreId) (k : BitVec 32) (f : Op → Op) : (s.modOp c k f).ret = s.ret := rfl
@[simp] theorem State.modOp_subst (s : State) (c : CoreId) (k : BitVec 32) (f : Op → Op) : (s.modOp c k f).subst = s.subst := rfl
@[simp] theorem State.modOp_coreGen (s : State) (c : CoreId) (k : BitVec 32) (f : Op → Op) : (s.modOp c k f).coreGen = s.coreGen := rfl
@[simp] theorem State.modOp_parts (s : State) (c : CoreId) (k : BitVec 32) (f : Op → Op) : (s.modOp c k f).parts = s.parts := rfl
@[simp] theorem State.modOp_chans (s : State) (c : CoreId) (k : BitVec 32) (f : Op → Op) : (s.modOp c k f).chans = s.chans := rfl
@[simp] theorem State.modOp_tier (s : State) (c : CoreId) (k : BitVec 32) (f : Op → Op) : (s.modOp c k f).tier = s.tier := rfl
@[simp] theorem State.modOp_fab (s : State) (c : CoreId) (k : BitVec 32) (f : Op → Op) : (s.modOp c k f).fab = s.fab := rfl
@[simp] theorem State.modOp_esp (s : State) (c : CoreId) (k : BitVec 32) (f : Op → Op) : (s.modOp c k f).esp = s.esp := rfl
@[simp] theorem State.modOp_fct (s : State) (c : CoreId) (k : BitVec 32) (f : Op → Op) : (s.modOp c k f).fct = s.fct := rfl
@[simp] theorem State.modOp_rep (s : State) (c : CoreId) (k : BitVec 32) (f : Op → Op) : (s.modOp c k f).rep = s.rep := rfl
@[simp] theorem State.modOp_sec (s : State) (c : CoreId) (k : BitVec 32) (f : Op → Op) : (s.modOp c k f).sec = s.sec := rfl
@[simp] theorem State.modOp_pwr (s : State) (c : CoreId) (k : BitVec 32) (f : Op → Op) : (s.modOp c k f).pwr = s.pwr := rfl

/-! `State.modPart` -/

@[simp] theorem State.modPart_pending (s : State) (p : PartId) (f : Part → Part) : (s.modPart p f).pending = s.pending := rfl
@[simp] theorem State.modPart_free (s : State) (p : PartId) (f : Part → Part) : (s.modPart p f).free = s.free := rfl
@[simp] theorem State.modPart_mem (s : State) (p : PartId) (f : Part → Part) : (s.modPart p f).mem = s.mem := rfl
@[simp] theorem State.modPart_poison (s : State) (p : PartId) (f : Part → Part) : (s.modPart p f).poison = s.poison := rfl
@[simp] theorem State.modPart_cores (s : State) (p : PartId) (f : Part → Part) : (s.modPart p f).cores = s.cores := rfl
@[simp] theorem State.modPart_act (s : State) (p : PartId) (f : Part → Part) : (s.modPart p f).act = s.act := rfl
@[simp] theorem State.modPart_ret (s : State) (p : PartId) (f : Part → Part) : (s.modPart p f).ret = s.ret := rfl
@[simp] theorem State.modPart_subst (s : State) (p : PartId) (f : Part → Part) : (s.modPart p f).subst = s.subst := rfl
@[simp] theorem State.modPart_coreGen (s : State) (p : PartId) (f : Part → Part) : (s.modPart p f).coreGen = s.coreGen := rfl
@[simp] theorem State.modPart_parts (s : State) (p : PartId) (f : Part → Part) : (s.modPart p f).parts = vmod s.parts p f := rfl
@[simp] theorem State.modPart_chans (s : State) (p : PartId) (f : Part → Part) : (s.modPart p f).chans = s.chans := rfl
@[simp] theorem State.modPart_tier (s : State) (p : PartId) (f : Part → Part) : (s.modPart p f).tier = s.tier := rfl
@[simp] theorem State.modPart_fab (s : State) (p : PartId) (f : Part → Part) : (s.modPart p f).fab = s.fab := rfl
@[simp] theorem State.modPart_esp (s : State) (p : PartId) (f : Part → Part) : (s.modPart p f).esp = s.esp := rfl
@[simp] theorem State.modPart_fct (s : State) (p : PartId) (f : Part → Part) : (s.modPart p f).fct = s.fct := rfl
@[simp] theorem State.modPart_rep (s : State) (p : PartId) (f : Part → Part) : (s.modPart p f).rep = s.rep := rfl
@[simp] theorem State.modPart_sec (s : State) (p : PartId) (f : Part → Part) : (s.modPart p f).sec = s.sec := rfl
@[simp] theorem State.modPart_pwr (s : State) (p : PartId) (f : Part → Part) : (s.modPart p f).pwr = s.pwr := rfl

/-! `State.modBound` -/

@[simp] theorem State.modBound_pending (s : State) (p : PartId) (f : PartBound → PartBound) : (s.modBound p f).pending = s.pending := rfl
@[simp] theorem State.modBound_free (s : State) (p : PartId) (f : PartBound → PartBound) : (s.modBound p f).free = s.free := rfl
@[simp] theorem State.modBound_mem (s : State) (p : PartId) (f : PartBound → PartBound) : (s.modBound p f).mem = s.mem := rfl
@[simp] theorem State.modBound_poison (s : State) (p : PartId) (f : PartBound → PartBound) : (s.modBound p f).poison = s.poison := rfl
@[simp] theorem State.modBound_cores (s : State) (p : PartId) (f : PartBound → PartBound) : (s.modBound p f).cores = s.cores := rfl
@[simp] theorem State.modBound_act (s : State) (p : PartId) (f : PartBound → PartBound) : (s.modBound p f).act = s.act := rfl
@[simp] theorem State.modBound_ret (s : State) (p : PartId) (f : PartBound → PartBound) : (s.modBound p f).ret = s.ret := rfl
@[simp] theorem State.modBound_subst (s : State) (p : PartId) (f : PartBound → PartBound) : (s.modBound p f).subst = s.subst := rfl
@[simp] theorem State.modBound_coreGen (s : State) (p : PartId) (f : PartBound → PartBound) : (s.modBound p f).coreGen = s.coreGen := rfl
@[simp] theorem State.modBound_chans (s : State) (p : PartId) (f : PartBound → PartBound) : (s.modBound p f).chans = s.chans := rfl
@[simp] theorem State.modBound_tier (s : State) (p : PartId) (f : PartBound → PartBound) : (s.modBound p f).tier = s.tier := rfl
@[simp] theorem State.modBound_fab (s : State) (p : PartId) (f : PartBound → PartBound) : (s.modBound p f).fab = s.fab := rfl
@[simp] theorem State.modBound_esp (s : State) (p : PartId) (f : PartBound → PartBound) : (s.modBound p f).esp = s.esp := rfl
@[simp] theorem State.modBound_fct (s : State) (p : PartId) (f : PartBound → PartBound) : (s.modBound p f).fct = s.fct := rfl
@[simp] theorem State.modBound_rep (s : State) (p : PartId) (f : PartBound → PartBound) : (s.modBound p f).rep = s.rep := rfl
@[simp] theorem State.modBound_sec (s : State) (p : PartId) (f : PartBound → PartBound) : (s.modBound p f).sec = s.sec := rfl
@[simp] theorem State.modBound_pwr (s : State) (p : PartId) (f : PartBound → PartBound) : (s.modBound p f).pwr = s.pwr := rfl

/-! `State.modChan` -/

@[simp] theorem State.modChan_pending (s : State) (c : ChanId) (f : Chan → Chan) : (s.modChan c f).pending = s.pending := rfl
@[simp] theorem State.modChan_free (s : State) (c : ChanId) (f : Chan → Chan) : (s.modChan c f).free = s.free := rfl
@[simp] theorem State.modChan_mem (s : State) (c : ChanId) (f : Chan → Chan) : (s.modChan c f).mem = s.mem := rfl
@[simp] theorem State.modChan_poison (s : State) (c : ChanId) (f : Chan → Chan) : (s.modChan c f).poison = s.poison := rfl
@[simp] theorem State.modChan_cores (s : State) (c : ChanId) (f : Chan → Chan) : (s.modChan c f).cores = s.cores := rfl
@[simp] theorem State.modChan_act (s : State) (c : ChanId) (f : Chan → Chan) : (s.modChan c f).act = s.act := rfl
@[simp] theorem State.modChan_ret (s : State) (c : ChanId) (f : Chan → Chan) : (s.modChan c f).ret = s.ret := rfl
@[simp] theorem State.modChan_subst (s : State) (c : ChanId) (f : Chan → Chan) : (s.modChan c f).subst = s.subst := rfl
@[simp] theorem State.modChan_coreGen (s : State) (c : ChanId) (f : Chan → Chan) : (s.modChan c f).coreGen = s.coreGen := rfl
@[simp] theorem State.modChan_parts (s : State) (c : ChanId) (f : Chan → Chan) : (s.modChan c f).parts = s.parts := rfl
@[simp] theorem State.modChan_chans (s : State) (c : ChanId) (f : Chan → Chan) : (s.modChan c f).chans = vmod s.chans c f := rfl
@[simp] theorem State.modChan_tier (s : State) (c : ChanId) (f : Chan → Chan) : (s.modChan c f).tier = s.tier := rfl
@[simp] theorem State.modChan_fab (s : State) (c : ChanId) (f : Chan → Chan) : (s.modChan c f).fab = s.fab := rfl
@[simp] theorem State.modChan_esp (s : State) (c : ChanId) (f : Chan → Chan) : (s.modChan c f).esp = s.esp := rfl
@[simp] theorem State.modChan_fct (s : State) (c : ChanId) (f : Chan → Chan) : (s.modChan c f).fct = s.fct := rfl
@[simp] theorem State.modChan_rep (s : State) (c : ChanId) (f : Chan → Chan) : (s.modChan c f).rep = s.rep := rfl
@[simp] theorem State.modChan_sec (s : State) (c : ChanId) (f : Chan → Chan) : (s.modChan c f).sec = s.sec := rfl
@[simp] theorem State.modChan_pwr (s : State) (c : ChanId) (f : Chan → Chan) : (s.modChan c f).pwr = s.pwr := rfl

/-! `State.modTier` -/

@[simp] theorem State.modTier_pending (s : State) (f : TierUnit → TierUnit) : (s.modTier f).pending = s.pending := rfl
@[simp] theorem State.modTier_free (s : State) (f : TierUnit → TierUnit) : (s.modTier f).free = s.free := rfl
@[simp] theorem State.modTier_mem (s : State) (f : TierUnit → TierUnit) : (s.modTier f).mem = s.mem := rfl
@[simp] theorem State.modTier_poison (s : State) (f : TierUnit → TierUnit) : (s.modTier f).poison = s.poison := rfl
@[simp] theorem State.modTier_cores (s : State) (f : TierUnit → TierUnit) : (s.modTier f).cores = s.cores := rfl
@[simp] theorem State.modTier_act (s : State) (f : TierUnit → TierUnit) : (s.modTier f).act = s.act := rfl
@[simp] theorem State.modTier_ret (s : State) (f : TierUnit → TierUnit) : (s.modTier f).ret = s.ret := rfl
@[simp] theorem State.modTier_subst (s : State) (f : TierUnit → TierUnit) : (s.modTier f).subst = s.subst := rfl
@[simp] theorem State.modTier_coreGen (s : State) (f : TierUnit → TierUnit) : (s.modTier f).coreGen = s.coreGen := rfl
@[simp] theorem State.modTier_parts (s : State) (f : TierUnit → TierUnit) : (s.modTier f).parts = s.parts := rfl
@[simp] theorem State.modTier_chans (s : State) (f : TierUnit → TierUnit) : (s.modTier f).chans = s.chans := rfl
@[simp] theorem State.modTier_tier (s : State) (f : TierUnit → TierUnit) : (s.modTier f).tier = f s.tier := rfl
@[simp] theorem State.modTier_fab (s : State) (f : TierUnit → TierUnit) : (s.modTier f).fab = s.fab := rfl
@[simp] theorem State.modTier_esp (s : State) (f : TierUnit → TierUnit) : (s.modTier f).esp = s.esp := rfl
@[simp] theorem State.modTier_fct (s : State) (f : TierUnit → TierUnit) : (s.modTier f).fct = s.fct := rfl
@[simp] theorem State.modTier_rep (s : State) (f : TierUnit → TierUnit) : (s.modTier f).rep = s.rep := rfl
@[simp] theorem State.modTier_sec (s : State) (f : TierUnit → TierUnit) : (s.modTier f).sec = s.sec := rfl
@[simp] theorem State.modTier_pwr (s : State) (f : TierUnit → TierUnit) : (s.modTier f).pwr = s.pwr := rfl

/-! `State.modFar` -/

@[simp] theorem State.modFar_pending (s : State) (p : PortId) (f : FarPort → FarPort) : (s.modFar p f).pending = s.pending := rfl
@[simp] theorem State.modFar_free (s : State) (p : PortId) (f : FarPort → FarPort) : (s.modFar p f).free = s.free := rfl
@[simp] theorem State.modFar_mem (s : State) (p : PortId) (f : FarPort → FarPort) : (s.modFar p f).mem = s.mem := rfl
@[simp] theorem State.modFar_poison (s : State) (p : PortId) (f : FarPort → FarPort) : (s.modFar p f).poison = s.poison := rfl
@[simp] theorem State.modFar_cores (s : State) (p : PortId) (f : FarPort → FarPort) : (s.modFar p f).cores = s.cores := rfl
@[simp] theorem State.modFar_act (s : State) (p : PortId) (f : FarPort → FarPort) : (s.modFar p f).act = s.act := rfl
@[simp] theorem State.modFar_ret (s : State) (p : PortId) (f : FarPort → FarPort) : (s.modFar p f).ret = s.ret := rfl
@[simp] theorem State.modFar_subst (s : State) (p : PortId) (f : FarPort → FarPort) : (s.modFar p f).subst = s.subst := rfl
@[simp] theorem State.modFar_coreGen (s : State) (p : PortId) (f : FarPort → FarPort) : (s.modFar p f).coreGen = s.coreGen := rfl
@[simp] theorem State.modFar_parts (s : State) (p : PortId) (f : FarPort → FarPort) : (s.modFar p f).parts = s.parts := rfl
@[simp] theorem State.modFar_chans (s : State) (p : PortId) (f : FarPort → FarPort) : (s.modFar p f).chans = s.chans := rfl
@[simp] theorem State.modFar_fab (s : State) (p : PortId) (f : FarPort → FarPort) : (s.modFar p f).fab = s.fab := rfl
@[simp] theorem State.modFar_esp (s : State) (p : PortId) (f : FarPort → FarPort) : (s.modFar p f).esp = s.esp := rfl
@[simp] theorem State.modFar_fct (s : State) (p : PortId) (f : FarPort → FarPort) : (s.modFar p f).fct = s.fct := rfl
@[simp] theorem State.modFar_rep (s : State) (p : PortId) (f : FarPort → FarPort) : (s.modFar p f).rep = s.rep := rfl
@[simp] theorem State.modFar_sec (s : State) (p : PortId) (f : FarPort → FarPort) : (s.modFar p f).sec = s.sec := rfl
@[simp] theorem State.modFar_pwr (s : State) (p : PortId) (f : FarPort → FarPort) : (s.modFar p f).pwr = s.pwr := rfl

/-! `State.modFab` -/

@[simp] theorem State.modFab_pending (s : State) (f : FabUnit → FabUnit) : (s.modFab f).pending = s.pending := rfl
@[simp] theorem State.modFab_free (s : State) (f : FabUnit → FabUnit) : (s.modFab f).free = s.free := rfl
@[simp] theorem State.modFab_mem (s : State) (f : FabUnit → FabUnit) : (s.modFab f).mem = s.mem := rfl
@[simp] theorem State.modFab_poison (s : State) (f : FabUnit → FabUnit) : (s.modFab f).poison = s.poison := rfl
@[simp] theorem State.modFab_cores (s : State) (f : FabUnit → FabUnit) : (s.modFab f).cores = s.cores := rfl
@[simp] theorem State.modFab_act (s : State) (f : FabUnit → FabUnit) : (s.modFab f).act = s.act := rfl
@[simp] theorem State.modFab_ret (s : State) (f : FabUnit → FabUnit) : (s.modFab f).ret = s.ret := rfl
@[simp] theorem State.modFab_subst (s : State) (f : FabUnit → FabUnit) : (s.modFab f).subst = s.subst := rfl
@[simp] theorem State.modFab_coreGen (s : State) (f : FabUnit → FabUnit) : (s.modFab f).coreGen = s.coreGen := rfl
@[simp] theorem State.modFab_parts (s : State) (f : FabUnit → FabUnit) : (s.modFab f).parts = s.parts := rfl
@[simp] theorem State.modFab_chans (s : State) (f : FabUnit → FabUnit) : (s.modFab f).chans = s.chans := rfl
@[simp] theorem State.modFab_tier (s : State) (f : FabUnit → FabUnit) : (s.modFab f).tier = s.tier := rfl
@[simp] theorem State.modFab_fab (s : State) (f : FabUnit → FabUnit) : (s.modFab f).fab = f s.fab := rfl
@[simp] theorem State.modFab_esp (s : State) (f : FabUnit → FabUnit) : (s.modFab f).esp = s.esp := rfl
@[simp] theorem State.modFab_fct (s : State) (f : FabUnit → FabUnit) : (s.modFab f).fct = s.fct := rfl
@[simp] theorem State.modFab_rep (s : State) (f : FabUnit → FabUnit) : (s.modFab f).rep = s.rep := rfl
@[simp] theorem State.modFab_sec (s : State) (f : FabUnit → FabUnit) : (s.modFab f).sec = s.sec := rfl
@[simp] theorem State.modFab_pwr (s : State) (f : FabUnit → FabUnit) : (s.modFab f).pwr = s.pwr := rfl

/-! `State.modLink` -/

@[simp] theorem State.modLink_pending (s : State) (l : LinkId) (f : Link → Link) : (s.modLink l f).pending = s.pending := rfl
@[simp] theorem State.modLink_free (s : State) (l : LinkId) (f : Link → Link) : (s.modLink l f).free = s.free := rfl
@[simp] theorem State.modLink_mem (s : State) (l : LinkId) (f : Link → Link) : (s.modLink l f).mem = s.mem := rfl
@[simp] theorem State.modLink_poison (s : State) (l : LinkId) (f : Link → Link) : (s.modLink l f).poison = s.poison := rfl
@[simp] theorem State.modLink_cores (s : State) (l : LinkId) (f : Link → Link) : (s.modLink l f).cores = s.cores := rfl
@[simp] theorem State.modLink_act (s : State) (l : LinkId) (f : Link → Link) : (s.modLink l f).act = s.act := rfl
@[simp] theorem State.modLink_ret (s : State) (l : LinkId) (f : Link → Link) : (s.modLink l f).ret = s.ret := rfl
@[simp] theorem State.modLink_subst (s : State) (l : LinkId) (f : Link → Link) : (s.modLink l f).subst = s.subst := rfl
@[simp] theorem State.modLink_coreGen (s : State) (l : LinkId) (f : Link → Link) : (s.modLink l f).coreGen = s.coreGen := rfl
@[simp] theorem State.modLink_parts (s : State) (l : LinkId) (f : Link → Link) : (s.modLink l f).parts = s.parts := rfl
@[simp] theorem State.modLink_chans (s : State) (l : LinkId) (f : Link → Link) : (s.modLink l f).chans = s.chans := rfl
@[simp] theorem State.modLink_tier (s : State) (l : LinkId) (f : Link → Link) : (s.modLink l f).tier = s.tier := rfl
@[simp] theorem State.modLink_esp (s : State) (l : LinkId) (f : Link → Link) : (s.modLink l f).esp = s.esp := rfl
@[simp] theorem State.modLink_fct (s : State) (l : LinkId) (f : Link → Link) : (s.modLink l f).fct = s.fct := rfl
@[simp] theorem State.modLink_rep (s : State) (l : LinkId) (f : Link → Link) : (s.modLink l f).rep = s.rep := rfl
@[simp] theorem State.modLink_sec (s : State) (l : LinkId) (f : Link → Link) : (s.modLink l f).sec = s.sec := rfl
@[simp] theorem State.modLink_pwr (s : State) (l : LinkId) (f : Link → Link) : (s.modLink l f).pwr = s.pwr := rfl

/-! `State.modEsp` -/

@[simp] theorem State.modEsp_pending (s : State) (f : EspUnit → EspUnit) : (s.modEsp f).pending = s.pending := rfl
@[simp] theorem State.modEsp_free (s : State) (f : EspUnit → EspUnit) : (s.modEsp f).free = s.free := rfl
@[simp] theorem State.modEsp_mem (s : State) (f : EspUnit → EspUnit) : (s.modEsp f).mem = s.mem := rfl
@[simp] theorem State.modEsp_poison (s : State) (f : EspUnit → EspUnit) : (s.modEsp f).poison = s.poison := rfl
@[simp] theorem State.modEsp_cores (s : State) (f : EspUnit → EspUnit) : (s.modEsp f).cores = s.cores := rfl
@[simp] theorem State.modEsp_act (s : State) (f : EspUnit → EspUnit) : (s.modEsp f).act = s.act := rfl
@[simp] theorem State.modEsp_ret (s : State) (f : EspUnit → EspUnit) : (s.modEsp f).ret = s.ret := rfl
@[simp] theorem State.modEsp_subst (s : State) (f : EspUnit → EspUnit) : (s.modEsp f).subst = s.subst := rfl
@[simp] theorem State.modEsp_coreGen (s : State) (f : EspUnit → EspUnit) : (s.modEsp f).coreGen = s.coreGen := rfl
@[simp] theorem State.modEsp_parts (s : State) (f : EspUnit → EspUnit) : (s.modEsp f).parts = s.parts := rfl
@[simp] theorem State.modEsp_chans (s : State) (f : EspUnit → EspUnit) : (s.modEsp f).chans = s.chans := rfl
@[simp] theorem State.modEsp_tier (s : State) (f : EspUnit → EspUnit) : (s.modEsp f).tier = s.tier := rfl
@[simp] theorem State.modEsp_fab (s : State) (f : EspUnit → EspUnit) : (s.modEsp f).fab = s.fab := rfl
@[simp] theorem State.modEsp_esp (s : State) (f : EspUnit → EspUnit) : (s.modEsp f).esp = f s.esp := rfl
@[simp] theorem State.modEsp_fct (s : State) (f : EspUnit → EspUnit) : (s.modEsp f).fct = s.fct := rfl
@[simp] theorem State.modEsp_rep (s : State) (f : EspUnit → EspUnit) : (s.modEsp f).rep = s.rep := rfl
@[simp] theorem State.modEsp_sec (s : State) (f : EspUnit → EspUnit) : (s.modEsp f).sec = s.sec := rfl
@[simp] theorem State.modEsp_pwr (s : State) (f : EspUnit → EspUnit) : (s.modEsp f).pwr = s.pwr := rfl

/-! `State.modFct` -/

@[simp] theorem State.modFct_pending (s : State) (f : FctUnit → FctUnit) : (s.modFct f).pending = s.pending := rfl
@[simp] theorem State.modFct_free (s : State) (f : FctUnit → FctUnit) : (s.modFct f).free = s.free := rfl
@[simp] theorem State.modFct_mem (s : State) (f : FctUnit → FctUnit) : (s.modFct f).mem = s.mem := rfl
@[simp] theorem State.modFct_poison (s : State) (f : FctUnit → FctUnit) : (s.modFct f).poison = s.poison := rfl
@[simp] theorem State.modFct_cores (s : State) (f : FctUnit → FctUnit) : (s.modFct f).cores = s.cores := rfl
@[simp] theorem State.modFct_act (s : State) (f : FctUnit → FctUnit) : (s.modFct f).act = s.act := rfl
@[simp] theorem State.modFct_ret (s : State) (f : FctUnit → FctUnit) : (s.modFct f).ret = s.ret := rfl
@[simp] theorem State.modFct_subst (s : State) (f : FctUnit → FctUnit) : (s.modFct f).subst = s.subst := rfl
@[simp] theorem State.modFct_coreGen (s : State) (f : FctUnit → FctUnit) : (s.modFct f).coreGen = s.coreGen := rfl
@[simp] theorem State.modFct_parts (s : State) (f : FctUnit → FctUnit) : (s.modFct f).parts = s.parts := rfl
@[simp] theorem State.modFct_chans (s : State) (f : FctUnit → FctUnit) : (s.modFct f).chans = s.chans := rfl
@[simp] theorem State.modFct_tier (s : State) (f : FctUnit → FctUnit) : (s.modFct f).tier = s.tier := rfl
@[simp] theorem State.modFct_fab (s : State) (f : FctUnit → FctUnit) : (s.modFct f).fab = s.fab := rfl
@[simp] theorem State.modFct_esp (s : State) (f : FctUnit → FctUnit) : (s.modFct f).esp = s.esp := rfl
@[simp] theorem State.modFct_fct (s : State) (f : FctUnit → FctUnit) : (s.modFct f).fct = f s.fct := rfl
@[simp] theorem State.modFct_rep (s : State) (f : FctUnit → FctUnit) : (s.modFct f).rep = s.rep := rfl
@[simp] theorem State.modFct_sec (s : State) (f : FctUnit → FctUnit) : (s.modFct f).sec = s.sec := rfl
@[simp] theorem State.modFct_pwr (s : State) (f : FctUnit → FctUnit) : (s.modFct f).pwr = s.pwr := rfl

/-! `State.modSess` -/

@[simp] theorem State.modSess_pending (s : State) (i : Fin 64) (f : Session → Session) : (s.modSess i f).pending = s.pending := rfl
@[simp] theorem State.modSess_free (s : State) (i : Fin 64) (f : Session → Session) : (s.modSess i f).free = s.free := rfl
@[simp] theorem State.modSess_mem (s : State) (i : Fin 64) (f : Session → Session) : (s.modSess i f).mem = s.mem := rfl
@[simp] theorem State.modSess_poison (s : State) (i : Fin 64) (f : Session → Session) : (s.modSess i f).poison = s.poison := rfl
@[simp] theorem State.modSess_cores (s : State) (i : Fin 64) (f : Session → Session) : (s.modSess i f).cores = s.cores := rfl
@[simp] theorem State.modSess_act (s : State) (i : Fin 64) (f : Session → Session) : (s.modSess i f).act = s.act := rfl
@[simp] theorem State.modSess_ret (s : State) (i : Fin 64) (f : Session → Session) : (s.modSess i f).ret = s.ret := rfl
@[simp] theorem State.modSess_subst (s : State) (i : Fin 64) (f : Session → Session) : (s.modSess i f).subst = s.subst := rfl
@[simp] theorem State.modSess_coreGen (s : State) (i : Fin 64) (f : Session → Session) : (s.modSess i f).coreGen = s.coreGen := rfl
@[simp] theorem State.modSess_parts (s : State) (i : Fin 64) (f : Session → Session) : (s.modSess i f).parts = s.parts := rfl
@[simp] theorem State.modSess_chans (s : State) (i : Fin 64) (f : Session → Session) : (s.modSess i f).chans = s.chans := rfl
@[simp] theorem State.modSess_tier (s : State) (i : Fin 64) (f : Session → Session) : (s.modSess i f).tier = s.tier := rfl
@[simp] theorem State.modSess_fab (s : State) (i : Fin 64) (f : Session → Session) : (s.modSess i f).fab = s.fab := rfl
@[simp] theorem State.modSess_esp (s : State) (i : Fin 64) (f : Session → Session) : (s.modSess i f).esp = s.esp := rfl
@[simp] theorem State.modSess_rep (s : State) (i : Fin 64) (f : Session → Session) : (s.modSess i f).rep = s.rep := rfl
@[simp] theorem State.modSess_sec (s : State) (i : Fin 64) (f : Session → Session) : (s.modSess i f).sec = s.sec := rfl
@[simp] theorem State.modSess_pwr (s : State) (i : Fin 64) (f : Session → Session) : (s.modSess i f).pwr = s.pwr := rfl

/-! `State.modEth` -/

@[simp] theorem State.modEth_pending (s : State) (p : PortId) (f : Eth → Eth) : (s.modEth p f).pending = s.pending := rfl
@[simp] theorem State.modEth_free (s : State) (p : PortId) (f : Eth → Eth) : (s.modEth p f).free = s.free := rfl
@[simp] theorem State.modEth_mem (s : State) (p : PortId) (f : Eth → Eth) : (s.modEth p f).mem = s.mem := rfl
@[simp] theorem State.modEth_poison (s : State) (p : PortId) (f : Eth → Eth) : (s.modEth p f).poison = s.poison := rfl
@[simp] theorem State.modEth_cores (s : State) (p : PortId) (f : Eth → Eth) : (s.modEth p f).cores = s.cores := rfl
@[simp] theorem State.modEth_act (s : State) (p : PortId) (f : Eth → Eth) : (s.modEth p f).act = s.act := rfl
@[simp] theorem State.modEth_ret (s : State) (p : PortId) (f : Eth → Eth) : (s.modEth p f).ret = s.ret := rfl
@[simp] theorem State.modEth_subst (s : State) (p : PortId) (f : Eth → Eth) : (s.modEth p f).subst = s.subst := rfl
@[simp] theorem State.modEth_coreGen (s : State) (p : PortId) (f : Eth → Eth) : (s.modEth p f).coreGen = s.coreGen := rfl
@[simp] theorem State.modEth_parts (s : State) (p : PortId) (f : Eth → Eth) : (s.modEth p f).parts = s.parts := rfl
@[simp] theorem State.modEth_chans (s : State) (p : PortId) (f : Eth → Eth) : (s.modEth p f).chans = s.chans := rfl
@[simp] theorem State.modEth_tier (s : State) (p : PortId) (f : Eth → Eth) : (s.modEth p f).tier = s.tier := rfl
@[simp] theorem State.modEth_fab (s : State) (p : PortId) (f : Eth → Eth) : (s.modEth p f).fab = s.fab := rfl
@[simp] theorem State.modEth_esp (s : State) (p : PortId) (f : Eth → Eth) : (s.modEth p f).esp = s.esp := rfl
@[simp] theorem State.modEth_rep (s : State) (p : PortId) (f : Eth → Eth) : (s.modEth p f).rep = s.rep := rfl
@[simp] theorem State.modEth_sec (s : State) (p : PortId) (f : Eth → Eth) : (s.modEth p f).sec = s.sec := rfl
@[simp] theorem State.modEth_pwr (s : State) (p : PortId) (f : Eth → Eth) : (s.modEth p f).pwr = s.pwr := rfl

/-! `State.modCmd` -/

@[simp] theorem State.modCmd_pending (s : State) (h : BitVec 32) (f : HCmd → HCmd) : (s.modCmd h f).pending = s.pending := rfl
@[simp] theorem State.modCmd_free (s : State) (h : BitVec 32) (f : HCmd → HCmd) : (s.modCmd h f).free = s.free := rfl
@[simp] theorem State.modCmd_mem (s : State) (h : BitVec 32) (f : HCmd → HCmd) : (s.modCmd h f).mem = s.mem := rfl
@[simp] theorem State.modCmd_poison (s : State) (h : BitVec 32) (f : HCmd → HCmd) : (s.modCmd h f).poison = s.poison := rfl
@[simp] theorem State.modCmd_cores (s : State) (h : BitVec 32) (f : HCmd → HCmd) : (s.modCmd h f).cores = s.cores := rfl
@[simp] theorem State.modCmd_act (s : State) (h : BitVec 32) (f : HCmd → HCmd) : (s.modCmd h f).act = s.act := rfl
@[simp] theorem State.modCmd_ret (s : State) (h : BitVec 32) (f : HCmd → HCmd) : (s.modCmd h f).ret = s.ret := rfl
@[simp] theorem State.modCmd_subst (s : State) (h : BitVec 32) (f : HCmd → HCmd) : (s.modCmd h f).subst = s.subst := rfl
@[simp] theorem State.modCmd_coreGen (s : State) (h : BitVec 32) (f : HCmd → HCmd) : (s.modCmd h f).coreGen = s.coreGen := rfl
@[simp] theorem State.modCmd_parts (s : State) (h : BitVec 32) (f : HCmd → HCmd) : (s.modCmd h f).parts = s.parts := rfl
@[simp] theorem State.modCmd_chans (s : State) (h : BitVec 32) (f : HCmd → HCmd) : (s.modCmd h f).chans = s.chans := rfl
@[simp] theorem State.modCmd_tier (s : State) (h : BitVec 32) (f : HCmd → HCmd) : (s.modCmd h f).tier = s.tier := rfl
@[simp] theorem State.modCmd_fab (s : State) (h : BitVec 32) (f : HCmd → HCmd) : (s.modCmd h f).fab = s.fab := rfl
@[simp] theorem State.modCmd_esp (s : State) (h : BitVec 32) (f : HCmd → HCmd) : (s.modCmd h f).esp = s.esp := rfl
@[simp] theorem State.modCmd_rep (s : State) (h : BitVec 32) (f : HCmd → HCmd) : (s.modCmd h f).rep = s.rep := rfl
@[simp] theorem State.modCmd_sec (s : State) (h : BitVec 32) (f : HCmd → HCmd) : (s.modCmd h f).sec = s.sec := rfl
@[simp] theorem State.modCmd_pwr (s : State) (h : BitVec 32) (f : HCmd → HCmd) : (s.modCmd h f).pwr = s.pwr := rfl

/-! `State.modSlot` -/

@[simp] theorem State.modSlot_pending (s : State) (h : BitVec 32) (f : HSlot → HSlot) : (s.modSlot h f).pending = s.pending := rfl
@[simp] theorem State.modSlot_free (s : State) (h : BitVec 32) (f : HSlot → HSlot) : (s.modSlot h f).free = s.free := rfl
@[simp] theorem State.modSlot_mem (s : State) (h : BitVec 32) (f : HSlot → HSlot) : (s.modSlot h f).mem = s.mem := rfl
@[simp] theorem State.modSlot_poison (s : State) (h : BitVec 32) (f : HSlot → HSlot) : (s.modSlot h f).poison = s.poison := rfl
@[simp] theorem State.modSlot_cores (s : State) (h : BitVec 32) (f : HSlot → HSlot) : (s.modSlot h f).cores = s.cores := rfl
@[simp] theorem State.modSlot_act (s : State) (h : BitVec 32) (f : HSlot → HSlot) : (s.modSlot h f).act = s.act := rfl
@[simp] theorem State.modSlot_ret (s : State) (h : BitVec 32) (f : HSlot → HSlot) : (s.modSlot h f).ret = s.ret := rfl
@[simp] theorem State.modSlot_subst (s : State) (h : BitVec 32) (f : HSlot → HSlot) : (s.modSlot h f).subst = s.subst := rfl
@[simp] theorem State.modSlot_coreGen (s : State) (h : BitVec 32) (f : HSlot → HSlot) : (s.modSlot h f).coreGen = s.coreGen := rfl
@[simp] theorem State.modSlot_parts (s : State) (h : BitVec 32) (f : HSlot → HSlot) : (s.modSlot h f).parts = s.parts := rfl
@[simp] theorem State.modSlot_chans (s : State) (h : BitVec 32) (f : HSlot → HSlot) : (s.modSlot h f).chans = s.chans := rfl
@[simp] theorem State.modSlot_tier (s : State) (h : BitVec 32) (f : HSlot → HSlot) : (s.modSlot h f).tier = s.tier := rfl
@[simp] theorem State.modSlot_fab (s : State) (h : BitVec 32) (f : HSlot → HSlot) : (s.modSlot h f).fab = s.fab := rfl
@[simp] theorem State.modSlot_esp (s : State) (h : BitVec 32) (f : HSlot → HSlot) : (s.modSlot h f).esp = s.esp := rfl
@[simp] theorem State.modSlot_rep (s : State) (h : BitVec 32) (f : HSlot → HSlot) : (s.modSlot h f).rep = s.rep := rfl
@[simp] theorem State.modSlot_sec (s : State) (h : BitVec 32) (f : HSlot → HSlot) : (s.modSlot h f).sec = s.sec := rfl
@[simp] theorem State.modSlot_pwr (s : State) (h : BitVec 32) (f : HSlot → HSlot) : (s.modSlot h f).pwr = s.pwr := rfl

/-! `State.modRep` -/

@[simp] theorem State.modRep_pending (s : State) (f : RepUnit → RepUnit) : (s.modRep f).pending = s.pending := rfl
@[simp] theorem State.modRep_free (s : State) (f : RepUnit → RepUnit) : (s.modRep f).free = s.free := rfl
@[simp] theorem State.modRep_mem (s : State) (f : RepUnit → RepUnit) : (s.modRep f).mem = s.mem := rfl
@[simp] theorem State.modRep_poison (s : State) (f : RepUnit → RepUnit) : (s.modRep f).poison = s.poison := rfl
@[simp] theorem State.modRep_cores (s : State) (f : RepUnit → RepUnit) : (s.modRep f).cores = s.cores := rfl
@[simp] theorem State.modRep_act (s : State) (f : RepUnit → RepUnit) : (s.modRep f).act = s.act := rfl
@[simp] theorem State.modRep_ret (s : State) (f : RepUnit → RepUnit) : (s.modRep f).ret = s.ret := rfl
@[simp] theorem State.modRep_subst (s : State) (f : RepUnit → RepUnit) : (s.modRep f).subst = s.subst := rfl
@[simp] theorem State.modRep_coreGen (s : State) (f : RepUnit → RepUnit) : (s.modRep f).coreGen = s.coreGen := rfl
@[simp] theorem State.modRep_parts (s : State) (f : RepUnit → RepUnit) : (s.modRep f).parts = s.parts := rfl
@[simp] theorem State.modRep_chans (s : State) (f : RepUnit → RepUnit) : (s.modRep f).chans = s.chans := rfl
@[simp] theorem State.modRep_tier (s : State) (f : RepUnit → RepUnit) : (s.modRep f).tier = s.tier := rfl
@[simp] theorem State.modRep_fab (s : State) (f : RepUnit → RepUnit) : (s.modRep f).fab = s.fab := rfl
@[simp] theorem State.modRep_esp (s : State) (f : RepUnit → RepUnit) : (s.modRep f).esp = s.esp := rfl
@[simp] theorem State.modRep_fct (s : State) (f : RepUnit → RepUnit) : (s.modRep f).fct = s.fct := rfl
@[simp] theorem State.modRep_rep (s : State) (f : RepUnit → RepUnit) : (s.modRep f).rep = f s.rep := rfl
@[simp] theorem State.modRep_sec (s : State) (f : RepUnit → RepUnit) : (s.modRep f).sec = s.sec := rfl
@[simp] theorem State.modRep_pwr (s : State) (f : RepUnit → RepUnit) : (s.modRep f).pwr = s.pwr := rfl

/-! `State.modSec` -/

@[simp] theorem State.modSec_pending (s : State) (f : SecUnit → SecUnit) : (s.modSec f).pending = s.pending := rfl
@[simp] theorem State.modSec_free (s : State) (f : SecUnit → SecUnit) : (s.modSec f).free = s.free := rfl
@[simp] theorem State.modSec_mem (s : State) (f : SecUnit → SecUnit) : (s.modSec f).mem = s.mem := rfl
@[simp] theorem State.modSec_poison (s : State) (f : SecUnit → SecUnit) : (s.modSec f).poison = s.poison := rfl
@[simp] theorem State.modSec_cores (s : State) (f : SecUnit → SecUnit) : (s.modSec f).cores = s.cores := rfl
@[simp] theorem State.modSec_act (s : State) (f : SecUnit → SecUnit) : (s.modSec f).act = s.act := rfl
@[simp] theorem State.modSec_ret (s : State) (f : SecUnit → SecUnit) : (s.modSec f).ret = s.ret := rfl
@[simp] theorem State.modSec_subst (s : State) (f : SecUnit → SecUnit) : (s.modSec f).subst = s.subst := rfl
@[simp] theorem State.modSec_coreGen (s : State) (f : SecUnit → SecUnit) : (s.modSec f).coreGen = s.coreGen := rfl
@[simp] theorem State.modSec_parts (s : State) (f : SecUnit → SecUnit) : (s.modSec f).parts = s.parts := rfl
@[simp] theorem State.modSec_chans (s : State) (f : SecUnit → SecUnit) : (s.modSec f).chans = s.chans := rfl
@[simp] theorem State.modSec_tier (s : State) (f : SecUnit → SecUnit) : (s.modSec f).tier = s.tier := rfl
@[simp] theorem State.modSec_fab (s : State) (f : SecUnit → SecUnit) : (s.modSec f).fab = s.fab := rfl
@[simp] theorem State.modSec_esp (s : State) (f : SecUnit → SecUnit) : (s.modSec f).esp = s.esp := rfl
@[simp] theorem State.modSec_fct (s : State) (f : SecUnit → SecUnit) : (s.modSec f).fct = s.fct := rfl
@[simp] theorem State.modSec_rep (s : State) (f : SecUnit → SecUnit) : (s.modSec f).rep = s.rep := rfl
@[simp] theorem State.modSec_sec (s : State) (f : SecUnit → SecUnit) : (s.modSec f).sec = f s.sec := rfl
@[simp] theorem State.modSec_pwr (s : State) (f : SecUnit → SecUnit) : (s.modSec f).pwr = s.pwr := rfl

/-! `State.modPwr` -/

@[simp] theorem State.modPwr_pending (s : State) (f : PwrUnit → PwrUnit) : (s.modPwr f).pending = s.pending := rfl
@[simp] theorem State.modPwr_free (s : State) (f : PwrUnit → PwrUnit) : (s.modPwr f).free = s.free := rfl
@[simp] theorem State.modPwr_mem (s : State) (f : PwrUnit → PwrUnit) : (s.modPwr f).mem = s.mem := rfl
@[simp] theorem State.modPwr_poison (s : State) (f : PwrUnit → PwrUnit) : (s.modPwr f).poison = s.poison := rfl
@[simp] theorem State.modPwr_cores (s : State) (f : PwrUnit → PwrUnit) : (s.modPwr f).cores = s.cores := rfl
@[simp] theorem State.modPwr_act (s : State) (f : PwrUnit → PwrUnit) : (s.modPwr f).act = s.act := rfl
@[simp] theorem State.modPwr_ret (s : State) (f : PwrUnit → PwrUnit) : (s.modPwr f).ret = s.ret := rfl
@[simp] theorem State.modPwr_subst (s : State) (f : PwrUnit → PwrUnit) : (s.modPwr f).subst = s.subst := rfl
@[simp] theorem State.modPwr_coreGen (s : State) (f : PwrUnit → PwrUnit) : (s.modPwr f).coreGen = s.coreGen := rfl
@[simp] theorem State.modPwr_parts (s : State) (f : PwrUnit → PwrUnit) : (s.modPwr f).parts = s.parts := rfl
@[simp] theorem State.modPwr_chans (s : State) (f : PwrUnit → PwrUnit) : (s.modPwr f).chans = s.chans := rfl
@[simp] theorem State.modPwr_tier (s : State) (f : PwrUnit → PwrUnit) : (s.modPwr f).tier = s.tier := rfl
@[simp] theorem State.modPwr_fab (s : State) (f : PwrUnit → PwrUnit) : (s.modPwr f).fab = s.fab := rfl
@[simp] theorem State.modPwr_esp (s : State) (f : PwrUnit → PwrUnit) : (s.modPwr f).esp = s.esp := rfl
@[simp] theorem State.modPwr_fct (s : State) (f : PwrUnit → PwrUnit) : (s.modPwr f).fct = s.fct := rfl
@[simp] theorem State.modPwr_rep (s : State) (f : PwrUnit → PwrUnit) : (s.modPwr f).rep = s.rep := rfl
@[simp] theorem State.modPwr_sec (s : State) (f : PwrUnit → PwrUnit) : (s.modPwr f).sec = s.sec := rfl
@[simp] theorem State.modPwr_pwr (s : State) (f : PwrUnit → PwrUnit) : (s.modPwr f).pwr = f s.pwr := rfl

/-! `State.put` -/

@[simp] theorem State.put_pending (s : State) (a : Nat) (bs : List Byte) : (s.put a bs).pending = s.pending := rfl
@[simp] theorem State.put_free (s : State) (a : Nat) (bs : List Byte) : (s.put a bs).free = s.free := rfl
@[simp] theorem State.put_mem (s : State) (a : Nat) (bs : List Byte) : (s.put a bs).mem = memPuts s.mem a bs := rfl
@[simp] theorem State.put_poison (s : State) (a : Nat) (bs : List Byte) : (s.put a bs).poison = s.poison := rfl
@[simp] theorem State.put_cores (s : State) (a : Nat) (bs : List Byte) : (s.put a bs).cores = s.cores := rfl
@[simp] theorem State.put_act (s : State) (a : Nat) (bs : List Byte) : (s.put a bs).act = s.act := rfl
@[simp] theorem State.put_ret (s : State) (a : Nat) (bs : List Byte) : (s.put a bs).ret = s.ret := rfl
@[simp] theorem State.put_subst (s : State) (a : Nat) (bs : List Byte) : (s.put a bs).subst = s.subst := rfl
@[simp] theorem State.put_coreGen (s : State) (a : Nat) (bs : List Byte) : (s.put a bs).coreGen = s.coreGen := rfl
@[simp] theorem State.put_parts (s : State) (a : Nat) (bs : List Byte) : (s.put a bs).parts = s.parts := rfl
@[simp] theorem State.put_chans (s : State) (a : Nat) (bs : List Byte) : (s.put a bs).chans = s.chans := rfl
@[simp] theorem State.put_tier (s : State) (a : Nat) (bs : List Byte) : (s.put a bs).tier = s.tier := rfl
@[simp] theorem State.put_fab (s : State) (a : Nat) (bs : List Byte) : (s.put a bs).fab = s.fab := rfl
@[simp] theorem State.put_esp (s : State) (a : Nat) (bs : List Byte) : (s.put a bs).esp = s.esp := rfl
@[simp] theorem State.put_fct (s : State) (a : Nat) (bs : List Byte) : (s.put a bs).fct = s.fct := rfl
@[simp] theorem State.put_rep (s : State) (a : Nat) (bs : List Byte) : (s.put a bs).rep = s.rep := rfl
@[simp] theorem State.put_sec (s : State) (a : Nat) (bs : List Byte) : (s.put a bs).sec = s.sec := rfl
@[simp] theorem State.put_pwr (s : State) (a : Nat) (bs : List Byte) : (s.put a bs).pwr = s.pwr := rfl

/-! `State.putN` -/

@[simp] theorem State.putN_pending (s : State) (a n v : Nat) : (s.putN a n v).pending = s.pending := rfl
@[simp] theorem State.putN_free (s : State) (a n v : Nat) : (s.putN a n v).free = s.free := rfl
@[simp] theorem State.putN_poison (s : State) (a n v : Nat) : (s.putN a n v).poison = s.poison := rfl
@[simp] theorem State.putN_cores (s : State) (a n v : Nat) : (s.putN a n v).cores = s.cores := rfl
@[simp] theorem State.putN_act (s : State) (a n v : Nat) : (s.putN a n v).act = s.act := rfl
@[simp] theorem State.putN_ret (s : State) (a n v : Nat) : (s.putN a n v).ret = s.ret := rfl
@[simp] theorem State.putN_subst (s : State) (a n v : Nat) : (s.putN a n v).subst = s.subst := rfl
@[simp] theorem State.putN_coreGen (s : State) (a n v : Nat) : (s.putN a n v).coreGen = s.coreGen := rfl
@[simp] theorem State.putN_parts (s : State) (a n v : Nat) : (s.putN a n v).parts = s.parts := rfl
@[simp] theorem State.putN_chans (s : State) (a n v : Nat) : (s.putN a n v).chans = s.chans := rfl
@[simp] theorem State.putN_tier (s : State) (a n v : Nat) : (s.putN a n v).tier = s.tier := rfl
@[simp] theorem State.putN_fab (s : State) (a n v : Nat) : (s.putN a n v).fab = s.fab := rfl
@[simp] theorem State.putN_esp (s : State) (a n v : Nat) : (s.putN a n v).esp = s.esp := rfl
@[simp] theorem State.putN_fct (s : State) (a n v : Nat) : (s.putN a n v).fct = s.fct := rfl
@[simp] theorem State.putN_rep (s : State) (a n v : Nat) : (s.putN a n v).rep = s.rep := rfl
@[simp] theorem State.putN_sec (s : State) (a n v : Nat) : (s.putN a n v).sec = s.sec := rfl
@[simp] theorem State.putN_pwr (s : State) (a n v : Nat) : (s.putN a n v).pwr = s.pwr := rfl

/-! `State.zero` -/

@[simp] theorem State.zero_pending (s : State) (a n : Nat) : (s.zero a n).pending = s.pending := rfl
@[simp] theorem State.zero_free (s : State) (a n : Nat) : (s.zero a n).free = s.free := rfl
@[simp] theorem State.zero_mem (s : State) (a n : Nat) : (s.zero a n).mem = memClear s.mem a n := rfl
@[simp] theorem State.zero_poison (s : State) (a n : Nat) : (s.zero a n).poison = s.poison := rfl
@[simp] theorem State.zero_cores (s : State) (a n : Nat) : (s.zero a n).cores = s.cores := rfl
@[simp] theorem State.zero_act (s : State) (a n : Nat) : (s.zero a n).act = s.act := rfl
@[simp] theorem State.zero_ret (s : State) (a n : Nat) : (s.zero a n).ret = s.ret := rfl
@[simp] theorem State.zero_subst (s : State) (a n : Nat) : (s.zero a n).subst = s.subst := rfl
@[simp] theorem State.zero_coreGen (s : State) (a n : Nat) : (s.zero a n).coreGen = s.coreGen := rfl
@[simp] theorem State.zero_parts (s : State) (a n : Nat) : (s.zero a n).parts = s.parts := rfl
@[simp] theorem State.zero_chans (s : State) (a n : Nat) : (s.zero a n).chans = s.chans := rfl
@[simp] theorem State.zero_tier (s : State) (a n : Nat) : (s.zero a n).tier = s.tier := rfl
@[simp] theorem State.zero_fab (s : State) (a n : Nat) : (s.zero a n).fab = s.fab := rfl
@[simp] theorem State.zero_esp (s : State) (a n : Nat) : (s.zero a n).esp = s.esp := rfl
@[simp] theorem State.zero_fct (s : State) (a n : Nat) : (s.zero a n).fct = s.fct := rfl
@[simp] theorem State.zero_rep (s : State) (a n : Nat) : (s.zero a n).rep = s.rep := rfl
@[simp] theorem State.zero_sec (s : State) (a n : Nat) : (s.zero a n).sec = s.sec := rfl
@[simp] theorem State.zero_pwr (s : State) (a n : Nat) : (s.zero a n).pwr = s.pwr := rfl

/-! `State.fresh` -/

@[simp] theorem State.fresh_pending (s : State) : s.fresh.2.pending = s.pending := rfl
@[simp] theorem State.fresh_mem (s : State) : s.fresh.2.mem = s.mem := rfl
@[simp] theorem State.fresh_poison (s : State) : s.fresh.2.poison = s.poison := rfl
@[simp] theorem State.fresh_cores (s : State) : s.fresh.2.cores = s.cores := rfl
@[simp] theorem State.fresh_act (s : State) : s.fresh.2.act = s.act := rfl
@[simp] theorem State.fresh_ret (s : State) : s.fresh.2.ret = s.ret := rfl
@[simp] theorem State.fresh_subst (s : State) : s.fresh.2.subst = s.subst := rfl
@[simp] theorem State.fresh_coreGen (s : State) : s.fresh.2.coreGen = s.coreGen := rfl
@[simp] theorem State.fresh_parts (s : State) : s.fresh.2.parts = s.parts := rfl
@[simp] theorem State.fresh_chans (s : State) : s.fresh.2.chans = s.chans := rfl
@[simp] theorem State.fresh_tier (s : State) : s.fresh.2.tier = s.tier := rfl
@[simp] theorem State.fresh_fab (s : State) : s.fresh.2.fab = s.fab := rfl
@[simp] theorem State.fresh_esp (s : State) : s.fresh.2.esp = s.esp := rfl
@[simp] theorem State.fresh_fct (s : State) : s.fresh.2.fct = s.fct := rfl
@[simp] theorem State.fresh_rep (s : State) : s.fresh.2.rep = s.rep := rfl
@[simp] theorem State.fresh_sec (s : State) : s.fresh.2.sec = s.sec := rfl
@[simp] theorem State.fresh_pwr (s : State) : s.fresh.2.pwr = s.pwr := rfl

@[simp] theorem State.fresh_free (s : State) : s.fresh.2.free = s.free + 1 := rfl

end Sys2Proof.Machine
end

