-- ==== Sys2Proof/Laws/Memory.lean ====
section
/-! SUPPORT. Memory: what a byte written reads as, and that every memory operation keeps the canonical form. -/

namespace Sys2Proof.Machine

/-! ### Reading after writing -/

theorem memGet_of_lt {m : List Host.Cell} {lo a : Nat} (h : memWfFrom lo m = true) (ha : a < lo) : memGet m a = 0 := by
  induction m generalizing lo with
  | nil => rfl
  | cons x r ih =>
    obtain ⟨k, v⟩ := x
    simp only [memWfFrom, Bool.and_eq_true, decide_eq_true_eq] at h
    obtain ⟨⟨hk, _⟩, hr⟩ := h
    simp only [memGet]
    rw [if_neg (by omega)]
    exact ih hr (by omega)

theorem memGet_memPut_self {m : List Host.Cell} {lo : Nat} (h : memWfFrom lo m = true) (a : Nat) (b : Byte) :
    memGet (memPut m a b) a = b := by
  induction m generalizing lo with
  | nil => by_cases hb : b = 0#8 <;> simp [memPut, hb, memGet]
  | cons x r ih =>
    obtain ⟨k, v⟩ := x
    simp only [memWfFrom, Bool.and_eq_true, decide_eq_true_eq] at h
    obtain ⟨⟨hk, _⟩, hr⟩ := h
    simp only [memPut]
    split
    · rename_i hlt
      by_cases hb : b = 0#8
      · simp only [hb, BitVec.ofNat_eq_ofNat, if_true, memGet]
        rw [if_neg (by omega)]
        exact memGet_of_lt hr (by omega)
      · simp [hb, memGet]
    · split
      · rename_i hlt heq
        subst heq
        by_cases hb : b = 0#8
        · simp only [hb, BitVec.ofNat_eq_ofNat, if_true]
          exact memGet_of_lt hr (by omega)
        · simp [hb, memGet]
      · rename_i hlt hne
        simp only [memGet]
        rw [if_neg (by omega)]
        exact ih hr

theorem memGet_memPut_ne (m : List Host.Cell) {a x : Nat} (b : Byte) (h : x ≠ a) : memGet (memPut m a b) x = memGet m x := by
  induction m with
  | nil => by_cases hb : b = 0#8 <;> simp [memPut, hb, memGet, Ne.symm h]
  | cons y r ih =>
    obtain ⟨k, v⟩ := y
    simp only [memPut]
    split
    · by_cases hb : b = 0#8 <;> simp [hb, memGet, Ne.symm h]
    · split
      · rename_i heq
        subst heq
        by_cases hb : b = 0#8 <;> simp [hb, memGet, Ne.symm h]
      · simp [memGet, ih]

/-! ### The canonical form -/

theorem memWfFrom_mono {m : List Host.Cell} {lo lo' : Nat} (h : memWfFrom lo m = true) (hl : lo' ≤ lo) :
    memWfFrom lo' m = true := by
  cases m with
  | nil => rfl
  | cons x r =>
    obtain ⟨k, v⟩ := x
    simp only [memWfFrom, Bool.and_eq_true, decide_eq_true_eq] at h ⊢
    exact ⟨⟨by omega, h.1.2⟩, h.2⟩

theorem memWfFrom_memPut {m : List Host.Cell} {lo a : Nat} (b : Byte) (h : memWfFrom lo m = true) (ha : lo ≤ a) :
    memWfFrom lo (memPut m a b) = true := by
  induction m generalizing lo with
  | nil => by_cases hb : b = 0#8 <;> simp [memPut, hb, memWfFrom, ha]
  | cons x r ih =>
    obtain ⟨k, v⟩ := x
    simp only [memWfFrom, Bool.and_eq_true, decide_eq_true_eq] at h
    obtain ⟨⟨hk, hv⟩, hr⟩ := h
    simp only [memPut]
    split
    · rename_i hlt
      by_cases hb : b = 0#8
      · have hv' : v ≠ 0#8 := by simpa using hv
        simp [hb, memWfFrom, hk, hr, hv']
      · have hv' : v ≠ 0#8 := by simpa using hv
        simp [hb, memWfFrom, ha, hr, hv']
        omega
    · split
      · rename_i heq
        by_cases hb : b = 0#8
        · simp only [hb, BitVec.ofNat_eq_ofNat, if_true]
          exact memWfFrom_mono hr (by omega)
        · simp [hb, memWfFrom, heq, hr, hk]
      · simp only [memWfFrom, Bool.and_eq_true, decide_eq_true_eq]
        exact ⟨⟨hk, hv⟩, ih hr (by omega)⟩

theorem memWf_memPut {m : List Host.Cell} (a : Nat) (b : Byte) (h : Memory.wf m = true) : Memory.wf (memPut m a b) = true :=
  memWfFrom_memPut b h (Nat.zero_le a)

theorem memWf_memPuts {m : List Host.Cell} (a : Nat) (bs : List Byte) (h : Memory.wf m = true) :
    Memory.wf (memPuts m a bs) = true := by
  induction bs generalizing m a with
  | nil => exact h
  | cons b r ih => exact ih (a + 1) (memWf_memPut a b h)

theorem memWfFrom_filter {m : List Host.Cell} {lo : Nat} (f : Host.Cell → Bool) (h : memWfFrom lo m = true) :
    memWfFrom lo (m.filter f) = true := by
  induction m generalizing lo with
  | nil => rfl
  | cons x r ih =>
    obtain ⟨k, v⟩ := x
    simp only [memWfFrom, Bool.and_eq_true, decide_eq_true_eq] at h
    obtain ⟨⟨hk, hv⟩, hr⟩ := h
    by_cases hf : f (k, v) = true
    · simp only [List.filter_cons, hf, if_true, memWfFrom, Bool.and_eq_true, decide_eq_true_eq]
      exact ⟨⟨hk, hv⟩, ih hr⟩
    · simp only [List.filter_cons, hf]
      exact memWfFrom_mono (ih hr) (by omega)

theorem memWf_memClear {m : List Host.Cell} (a n : Nat) (h : Memory.wf m = true) : Memory.wf (memClear m a n) = true :=
  memWfFrom_filter _ h

/-! ### Bytes written in a row -/

theorem memGet_memPuts_outside (m : List Host.Cell) {a x : Nat} (bs : List Byte) (h : x < a ∨ a + bs.length ≤ x) :
    memGet (memPuts m a bs) x = memGet m x := by
  induction bs generalizing m a with
  | nil => rfl
  | cons b r ih =>
    simp only [List.length_cons] at h
    simp only [memPuts]
    rw [ih (memPut m a b) (by omega)]
    exact memGet_memPut_ne m b (by omega)

theorem memGet_memPuts_inside {m : List Host.Cell} (hm : Memory.wf m = true) (a i : Nat) (bs : List Byte) (h : i < bs.length) :
    memGet (memPuts m a bs) (a + i) = bs[i] := by
  induction bs generalizing m a i with
  | nil => simp at h
  | cons b r ih =>
    simp only [memPuts]
    cases i with
    | zero =>
      rw [memGet_memPuts_outside _ r (by omega)]
      exact memGet_memPut_self hm a b
    | succ j =>
      have e : a + (j + 1) = a + 1 + j := by omega
      rw [e, ih (memWf_memPut a b hm) (a + 1) j (by simpa using h)]
      simp

theorem memGet_memClear (m : List Host.Cell) (a n x : Nat) :
    memGet (memClear m a n) x = if a ≤ x ∧ x < a + n then 0 else memGet m x := by
  induction m with
  | nil => simp [memClear, memGet]
  | cons y r ih =>
    obtain ⟨k, v⟩ := y
    simp only [memClear] at ih
    by_cases hk : (k < a || decide (a + n ≤ k)) = true
    · simp only [memClear, List.filter_cons, hk, if_true, memGet, ih]
      simp only [Bool.or_eq_true, decide_eq_true_eq] at hk
      by_cases hx : k = x
      · subst hx; rw [if_pos rfl, if_pos rfl, if_neg (by omega)]
      · simp [hx]
    · simp only [memClear, List.filter_cons, hk, memGet]
      simp only [Bool.or_eq_true, decide_eq_true_eq, not_or] at hk
      by_cases hx : k = x
      · subst hx
        simp only [Bool.false_eq_true, if_false] 
        rw [ih, if_pos (by omega), if_pos (by omega)]
      · simpa [hx] using ih

/-! ### States -/

theorem State.memOk_put {s : State} (h : s.memOk) (a : Nat) (bs : List Byte) : (s.put a bs).memOk := memWf_memPuts a bs h

theorem State.memOk_putN {s : State} (h : s.memOk) (a n v : Nat) : (s.putN a n v).memOk := State.memOk_put h a _

theorem State.memOk_zero {s : State} (h : s.memOk) (a n : Nat) : (s.zero a n).memOk := memWf_memClear a n h

theorem State.memOk_of_mem {s u : State} (h : s.memOk) (e : u.mem = s.mem) : u.memOk := by
  unfold State.memOk; rw [e]; exact h

theorem memWf_foldl_memPut (xs : List Host.Cell) {m : List Host.Cell} (h : Memory.wf m = true) :
    Memory.wf (xs.foldl (fun m x => memPut m x.1 x.2) m) = true := by
  induction xs generalizing m with
  | nil => exact h
  | cons x r ih => exact ih (memWf_memPut x.1 x.2 h)

theorem State.memOk_setFarMode {s : State} (h : s.memOk) (interleave : Bool) : (s.setFarMode interleave).memOk := by
  unfold State.setFarMode
  split
  · exact h
  · exact memWf_foldl_memPut _ (memWfFrom_filter _ h)

/-- A fold keeps the canonical form when each of its steps does. -/
theorem State.memOk_each {α : Type} {s : State} (xs : List α) (f : State → α → State)
    (hf : ∀ s x, s.memOk → (f s x).memOk) (h : s.memOk) : (s.each xs f).memOk := by
  unfold State.each
  induction xs generalizing s with
  | nil => exact h
  | cons x r ih => exact ih (hf s x h)

/-- With no channel LOST and no far port RETIRED, no address is dead. -/
theorem State.deadAt_of_sound {s : State} (h : s.anyDead = false) (a : Nat) : s.deadAt a = false := by
  simp only [State.anyDead, Bool.or_eq_false_iff, List.any_eq_false] at h
  unfold State.deadAt
  split
  · exact Bool.eq_false_iff.mpr (h.1 _ (Array.mem_toList_iff.mpr (Array.getElem_mem _)))
  · exact Bool.eq_false_iff.mpr (h.2 _ (Array.mem_toList_iff.mpr (Array.getElem_mem _)))
  · rfl

theorem State.reset_memOk : State.reset.memOk := rfl

end Sys2Proof.Machine
end

