-- ==== Sys2Proof/Laws/Kept.lean ====
section
/-! SUPPORT. What the operations on State that all chapters share, and those of threads, lists and the array, keep: the form of
the memory, the queue and the fuses. -/

namespace Sys2Proof.Machine

theorem FusesKept.refl (s : State) : FusesKept s s := ⟨fun h => ⟨h, rfl⟩, fun h => h, Nat.le_refl _⟩

theorem FusesKept.trans {s u v : State} (h : FusesKept s u) (k : FusesKept u v) : FusesKept s v :=
  ⟨fun x => ⟨(k.1 (h.1 x).1).1, (k.1 (h.1 x).1).2.trans (h.1 x).2⟩, fun x => k.2.1 (h.2.1 x), Nat.le_trans h.2.2 k.2.2⟩

theorem Kept.refl (s : State) : Kept s s := ⟨id, rfl, FusesKept.refl s⟩

theorem Kept.trans {s u v : State} (h : Kept s u) (k : Kept u v) : Kept s v :=
  ⟨fun x => k.1 (h.1 x), k.2.1.trans h.2.1, h.2.2.trans k.2.2⟩

theorem FusesKept.of_sec {s u : State} (e : u.sec = s.sec) : FusesKept s u := by
  unfold FusesKept; rw [e]; exact ⟨fun h => ⟨h, rfl⟩, fun h => h, Nat.le_refl _⟩

/-- An update of fields other than the memory, the queue and the security unit. -/
theorem Kept.of_eq {s u v : State} (h : Kept s u) (em : v.mem = u.mem) (ep : v.pending = u.pending) (es : v.sec = u.sec) : Kept s v :=
  h.trans ⟨fun x => State.memOk_of_mem x em, ep, FusesKept.of_sec es⟩

theorem Kept.each {α : Type} {s u : State} (h : Kept s u) (xs : List α) (f : State → α → State)
    (hf : ∀ v x, Kept s v → Kept s (f v x)) : Kept s (u.each xs f) := by
  unfold State.each
  induction xs generalizing u with
  | nil => exact h
  | cons x r ih => exact ih (hf u x h)

theorem Kept.upd {s u : State} (h : Kept s u) (fr po co ac re su cg pa ch ti fa es fc rp pw) :
    Kept s ⟨u.pending, fr, u.mem, po, co, ac, re, su, cg, pa, ch, ti, fa, es, fc, rp, u.sec, pw⟩ := h.of_eq rfl rfl rfl

theorem Kept.upd_iff (s u : State) (fr po co ac re su cg pa ch ti fa es fc rp pw) :
    Kept s ⟨u.pending, fr, u.mem, po, co, ac, re, su, cg, pa, ch, ti, fa, es, fc, rp, u.sec, pw⟩ ↔ Kept s u :=
  ⟨fun h => h.of_eq rfl rfl rfl, fun h => h.upd _ _ _ _ _ _ _ _ _ _ _ _ _ _ _⟩

theorem Kept.of_snd {α : Type} {s v : State} {p : α × State} {a : α} (e : p = (a, v)) (h : Kept s p.2) : Kept s v := by
  subst e; exact h

theorem Kept.of_fst {α : Type} {s v : State} {p : State × α} {a : α} (e : p = (v, a)) (h : Kept s p.1) : Kept s v := by
  subst e; exact h

theorem Kept.of_snd2 {α β : Type} {s v : State} {p : α × β × State} {a : α} {b : β} (e : p = (a, b, v)) (h : Kept s p.2.2) :
    Kept s v := by
  subst e; exact h

theorem Kept.foldl_snd {α β : Type} {s : State} (xs : List α) (f : β × State → α → β × State) (p : β × State) (h : Kept s p.2)
    (hf : ∀ p x, Kept s p.2 → Kept s (f p x).2) : Kept s (xs.foldl f p).2 := by
  induction xs generalizing p with
  | nil => exact h
  | cons x r ih => exact ih (f p x) (hf p x h)

theorem Kept.foldl_fst {α β : Type} {s : State} (xs : List α) (f : State × β → α → State × β) (p : State × β) (h : Kept s p.1)
    (hf : ∀ p x, Kept s p.1 → Kept s (f p x).1) : Kept s (xs.foldl f p).1 := by
  induction xs generalizing p with
  | nil => exact h
  | cons x r ih => exact ih (f p x) (hf p x h)

theorem Kept.foldl_drained {α : Type} {s : State} (xs : List α) (f : Drained → α → Drained) (p : Drained) (h : Kept s p.s)
    (hf : ∀ p x, Kept s p.s → Kept s (f p x).s) : Kept s (xs.foldl f p).s := by
  induction xs generalizing p with
  | nil => exact h
  | cons x r ih => exact ih (f p x) (hf p x h)

theorem Kept.foldl_vecOut {α : Type} {s : State} (xs : List α) (f : VecOut → α → VecOut) (p : VecOut) (h : Kept s p.s)
    (hf : ∀ p x, Kept s p.s → Kept s (f p x).s) : Kept s (xs.foldl f p).s := by
  induction xs generalizing p with
  | nil => exact h
  | cons x r ih => exact ih (f p x) (hf p x h)

theorem Kept.foldl_chunkSum {α : Type} {s : State} (xs : List α) (f : ChunkSum → α → ChunkSum) (p : ChunkSum) (h : Kept s p.s)
    (hf : ∀ p x, Kept s p.s → Kept s (f p x).s) : Kept s (xs.foldl f p).s := by
  induction xs generalizing p with
  | nil => exact h
  | cons x r ih => exact ih (f p x) (hf p x h)

theorem Kept.foldl_kvRun {α : Type} {s : State} (xs : List α) (f : KvRun → α → KvRun) (p : KvRun) (h : Kept s p.s)
    (hf : ∀ p x, Kept s p.s → Kept s (f p x).s) : Kept s (xs.foldl f p).s := by
  induction xs generalizing p with
  | nil => exact h
  | cons x r ih => exact ih (f p x) (hf p x h)

theorem Kept.foldl_vec {α β : Type} {s : State} (xs : List α) (f : VecOut × β → α → VecOut × β) (p : VecOut × β)
    (h : Kept s p.1.s) (hf : ∀ p x, Kept s p.1.s → Kept s (f p x).1.s) : Kept s (xs.foldl f p).1.s := by
  induction xs generalizing p with
  | nil => exact h
  | cons x r ih => exact ih (f p x) (hf p x h)

theorem Kept.ite {s a b : State} {c : Prop} [Decidable c] (ha : Kept s a) (hb : Kept s b) : Kept s (if c then a else b) := by
  split <;> assumption

theorem Kept.ite_snd {α : Type} {s : State} {a b : α × State} {c : Prop} [Decidable c] (ha : Kept s a.2) (hb : Kept s b.2) :
    Kept s (if c then a else b).2 := by
  split <;> assumption

theorem Kept.ite_fst {α : Type} {s : State} {a b : State × α} {c : Prop} [Decidable c] (ha : Kept s a.1) (hb : Kept s b.1) :
    Kept s (if c then a else b).1 := by
  split <;> assumption

theorem Kept.of_some {s v : State} {p : Option State} (e : p = some v) (h : ∀ t, p = some t → Kept s t) : Kept s v := h v e

theorem State.modSec_kept {s u : State} (h : Kept s u) (f : SecUnit → SecUnit)
    (hf : ∀ x, (f x).ownerLock = x.ownerLock ∧ (f x).ownerHash = x.ownerHash ∧ (f x).dbgDisable = x.dbgDisable ∧
      (f x).ringVer = x.ringVer) : Kept s (u.modSec f) := by
  refine h.trans ⟨fun x => State.memOk_of_mem x rfl, rfl, ?_⟩
  obtain ⟨a, b, c, d⟩ := hf u.sec
  refine ⟨fun x => ⟨a.trans x, b⟩, fun x => c.trans x, ?_⟩
  exact Nat.le_of_eq (congrArg _ d.symm)

theorem State.put_kept {s u : State} (h : Kept s u) (a : Nat) (bs : List Byte) : Kept s (u.put a bs) :=
  h.trans ⟨fun x => State.memOk_put x a bs, rfl, FusesKept.of_sec rfl⟩

theorem State.zero_kept {s u : State} (h : Kept s u) (a n : Nat) : Kept s (u.zero a n) :=
  h.trans ⟨fun x => State.memOk_zero x a n, rfl, FusesKept.of_sec rfl⟩

/-! ### Ops.lean -/

theorem State.setCore_kept {σ τ : State} (hk : Kept σ τ) (c : CoreId) (x : Core) : Kept σ (State.setCore τ c x) := by
  unfold State.setCore
  with_reducible repeat' (first | assumption | exact Kept.refl _ | intro _ | dsimp only | simp only [Kept.upd_iff])

theorem State.modCore_kept {σ τ : State} (hk : Kept σ τ) (c : CoreId) (f : Core → Core) : Kept σ (State.modCore τ c f) := by
  unfold State.modCore
  with_reducible repeat' (first | assumption | exact Kept.refl _ | apply State.setCore_kept | intro _ | dsimp only)

theorem State.setThread_kept {σ τ : State} (hk : Kept σ τ) (c : CoreId) (t : ThreadId) (x : Thread) : Kept σ (State.setThread τ c t x) := by
  unfold State.setThread
  with_reducible repeat' (first | assumption | exact Kept.refl _ | apply State.modCore_kept | intro _ | dsimp only)

theorem State.modThread_kept {σ τ : State} (hk : Kept σ τ) (c : CoreId) (t : ThreadId) (f : Thread → Thread) : Kept σ (State.modThread τ c t f) := by
  unfold State.modThread
  with_reducible repeat' (first | assumption | exact Kept.refl _ | apply State.setThread_kept | intro _ | dsimp only)

theorem State.modReg_kept {σ τ : State} (hk : Kept σ τ) (c : CoreId) (f : CoreRegs → CoreRegs) : Kept σ (State.modReg τ c f) := by
  unfold State.modReg
  with_reducible repeat' (first | assumption | exact Kept.refl _ | apply State.modCore_kept | intro _ | dsimp only)

theorem State.modArr_kept {σ τ : State} (hk : Kept σ τ) (c : CoreId) (f : ArrUnit → ArrUnit) : Kept σ (State.modArr τ c f) := by
  unfold State.modArr
  with_reducible repeat' (first | assumption | exact Kept.refl _ | apply State.modCore_kept | intro _ | dsimp only)

theorem State.modSts_kept {σ τ : State} (hk : Kept σ τ) (c : CoreId) (f : StsUnit → StsUnit) : Kept σ (State.modSts τ c f) := by
  unfold State.modSts
  with_reducible repeat' (first | assumption | exact Kept.refl _ | apply State.modCore_kept | intro _ | dsimp only)

theorem State.modKvc_kept {σ τ : State} (hk : Kept σ τ) (c : CoreId) (f : KvcUnit → KvcUnit) : Kept σ (State.modKvc τ c f) := by
  unfold State.modKvc
  with_reducible repeat' (first | assumption | exact Kept.refl _ | apply State.modCore_kept | intro _ | dsimp only)

theorem State.modCnv_kept {σ τ : State} (hk : Kept σ τ) (c : CoreId) (f : CnvUnit → CnvUnit) : Kept σ (State.modCnv τ c f) := by
  unfold State.modCnv
  with_reducible repeat' (first | assumption | exact Kept.refl _ | apply State.modCore_kept | intro _ | dsimp only)

theorem State.modPart_kept {σ τ : State} (hk : Kept σ τ) (p : PartId) (f : Part → Part) : Kept σ (State.modPart τ p f) := by
  unfold State.modPart
  with_reducible repeat' (first | assumption | exact Kept.refl _ | intro _ | dsimp only | simp only [Kept.upd_iff])

theorem State.modBound_kept {σ τ : State} (hk : Kept σ τ) (p : PartId) (f : PartBound → PartBound) : Kept σ (State.modBound τ p f) := by
  unfold State.modBound
  with_reducible repeat' (first | assumption | exact Kept.refl _ | apply State.modPart_kept | intro _ | dsimp only)

theorem State.modChan_kept {σ τ : State} (hk : Kept σ τ) (c : ChanId) (f : Chan → Chan) : Kept σ (State.modChan τ c f) := by
  unfold State.modChan
  with_reducible repeat' (first | assumption | exact Kept.refl _ | intro _ | dsimp only | simp only [Kept.upd_iff])

theorem State.modTier_kept {σ τ : State} (hk : Kept σ τ) (f : TierUnit → TierUnit) : Kept σ (State.modTier τ f) := by
  unfold State.modTier
  with_reducible repeat' (first | assumption | exact Kept.refl _ | intro _ | dsimp only | simp only [Kept.upd_iff])

theorem State.modFab_kept {σ τ : State} (hk : Kept σ τ) (f : FabUnit → FabUnit) : Kept σ (State.modFab τ f) := by
  unfold State.modFab
  with_reducible repeat' (first | assumption | exact Kept.refl _ | intro _ | dsimp only | simp only [Kept.upd_iff])

theorem State.modLink_kept {σ τ : State} (hk : Kept σ τ) (l : LinkId) (f : Link → Link) : Kept σ (State.modLink τ l f) := by
  unfold State.modLink
  with_reducible repeat' (first | assumption | exact Kept.refl _ | apply State.modFab_kept | intro _ | dsimp only)

theorem State.modEsp_kept {σ τ : State} (hk : Kept σ τ) (f : EspUnit → EspUnit) : Kept σ (State.modEsp τ f) := by
  unfold State.modEsp
  with_reducible repeat' (first | assumption | exact Kept.refl _ | intro _ | dsimp only | simp only [Kept.upd_iff])

theorem State.modFct_kept {σ τ : State} (hk : Kept σ τ) (f : FctUnit → FctUnit) : Kept σ (State.modFct τ f) := by
  unfold State.modFct
  with_reducible repeat' (first | assumption | exact Kept.refl _ | intro _ | dsimp only | simp only [Kept.upd_iff])

theorem State.modSess_kept {σ τ : State} (hk : Kept σ τ) (i : Fin 64) (f : Session → Session) : Kept σ (State.modSess τ i f) := by
  unfold State.modSess
  with_reducible repeat' (first | assumption | exact Kept.refl _ | apply State.modFct_kept | intro _ | dsimp only)

theorem State.modEth_kept {σ τ : State} (hk : Kept σ τ) (p : PortId) (f : Eth → Eth) : Kept σ (State.modEth τ p f) := by
  unfold State.modEth
  with_reducible repeat' (first | assumption | exact Kept.refl _ | apply State.modFct_kept | intro _ | dsimp only)

theorem State.modFar_kept {σ τ : State} (hk : Kept σ τ) (p : PortId) (f : FarPort → FarPort) : Kept σ (State.modFar τ p f) := by
  unfold State.modFar
  with_reducible repeat' (first | assumption | exact Kept.refl _ | apply State.modTier_kept | intro _ | dsimp only)

theorem State.modRep_kept {σ τ : State} (hk : Kept σ τ) (f : RepUnit → RepUnit) : Kept σ (State.modRep τ f) := by
  unfold State.modRep
  with_reducible repeat' (first | assumption | exact Kept.refl _ | intro _ | dsimp only | simp only [Kept.upd_iff])

theorem State.modPwr_kept {σ τ : State} (hk : Kept σ τ) (f : PwrUnit → PwrUnit) : Kept σ (State.modPwr τ f) := by
  unfold State.modPwr
  with_reducible repeat' (first | assumption | exact Kept.refl _ | intro _ | dsimp only | simp only [Kept.upd_iff])

theorem State.fresh_kept {σ τ : State} (hk : Kept σ τ) : Kept σ (State.fresh τ).2 := by
  unfold State.fresh
  with_reducible repeat' (first | assumption | exact Kept.refl _ | intro _ | dsimp only | simp only [Kept.upd_iff])

theorem State.putN_kept {σ τ : State} (hk : Kept σ τ) (a n v : Nat) : Kept σ (State.putN τ a n v) := by
  unfold State.putN
  with_reducible repeat' (first | assumption | exact Kept.refl _ | apply State.put_kept | intro _ | dsimp only)

theorem State.setFarMode_kept {σ τ : State} (hk : Kept σ τ) (interleave : Bool) : Kept σ (State.setFarMode τ interleave) := by
  refine hk.trans ⟨fun x => State.memOk_setFarMode x interleave, ?_, FusesKept.of_sec ?_⟩ <;>
    (unfold State.setFarMode; split <;> rfl)

theorem State.cycles_kept {σ τ : State} (hk : Kept σ τ) : Kept σ (State.cycles τ).2 := by
  unfold State.cycles
  with_reducible repeat' (first | assumption | exact Kept.refl _ | apply State.fresh_kept | refine Kept.of_snd (by assumption) ?_ | refine Kept.of_snd2 (by assumption) ?_ | refine Kept.of_fst (by assumption) ?_ | refine Kept.of_some (by assumption) ?_ | intro _ | split | dsimp only | simp only [Kept.upd_iff])

theorem State.sendFrame_kept {σ τ : State} (hk : Kept σ τ) (i : Fin 64) (type : Byte) (pcp : BitVec 3) (seq : Word) (payload : List Byte) : Kept σ (State.sendFrame τ i type pcp seq payload) := by
  unfold State.sendFrame
  with_reducible repeat' (first | assumption | exact Kept.refl _ | apply State.modFct_kept | apply State.modEth_kept | refine Kept.of_snd (by assumption) ?_ | refine Kept.of_snd2 (by assumption) ?_ | refine Kept.of_fst (by assumption) ?_ | refine Kept.of_some (by assumption) ?_ | intro _ | apply Kept.ite | apply Kept.ite_snd | apply Kept.ite_fst | split | dsimp only)

theorem State.queueControl_kept {σ τ : State} (hk : Kept σ τ) (i : Fin 64) (entry : List Byte) : Kept σ (State.queueControl τ i entry) := by
  unfold State.queueControl
  with_reducible repeat' (first | assumption | exact Kept.refl _ | apply State.modSess_kept | apply State.sendFrame_kept | intro _ | apply Kept.ite | apply Kept.ite_snd | apply Kept.ite_fst | split | dsimp only)

theorem State.noticeTo_kept {σ τ : State} (hk : Kept σ τ) (i : Fin 64) (n : Notice) : Kept σ (State.noticeTo τ i n) := by
  unfold State.noticeTo
  with_reducible repeat' (first | assumption | exact Kept.refl _ | apply State.modSess_kept | apply State.queueControl_kept | intro _ | apply Kept.ite | apply Kept.ite_snd | apply Kept.ite_fst | split | dsimp only)

theorem State.notify_kept {σ τ : State} (hk : Kept σ τ) (n : Notice) : Kept σ (State.notify τ n) := by
  unfold State.notify
  with_reducible repeat' (first | assumption | exact Kept.refl _ | apply State.noticeTo_kept | apply Kept.each | intro _ | apply Kept.ite | apply Kept.ite_snd | apply Kept.ite_fst | split | dsimp only)

theorem State.noticeFrozen_kept {σ τ : State} (hk : Kept σ τ) (part : Byte) (detail id : Nat) : Kept σ (State.noticeFrozen τ part detail id) := by
  unfold State.noticeFrozen
  with_reducible repeat' (first | assumption | exact Kept.refl _ | apply State.notify_kept | intro _ | apply Kept.ite | apply Kept.ite_snd | apply Kept.ite_fst | split | dsimp only)

theorem State.putSlot_kept {σ τ : State} (hk : Kept σ τ) (b : PortId) (n : Fin 202) (valid : Bool) (body : SlotBody) : Kept σ (State.putSlot τ b n valid body) := by
  unfold State.putSlot
  with_reducible repeat' (first | assumption | exact Kept.refl _ | apply State.modRep_kept | intro _ | dsimp only)

theorem State.ledger_kept {σ τ : State} (hk : Kept σ τ) (n : Fin 202) : Kept σ (State.ledger τ n) := by
  unfold State.ledger
  with_reducible repeat' (first | assumption | exact Kept.refl _ | apply State.modRep_kept | apply State.putSlot_kept | refine Kept.of_snd (by assumption) ?_ | refine Kept.of_snd2 (by assumption) ?_ | refine Kept.of_fst (by assumption) ?_ | refine Kept.of_some (by assumption) ?_ | intro _ | apply Kept.ite | apply Kept.ite_snd | apply Kept.ite_fst | split | dsimp only)

theorem State.ledgerClass_kept {σ τ : State} (hk : Kept σ τ) (cls : Nat) : Kept σ (State.ledgerClass τ cls) := by
  unfold State.ledgerClass
  with_reducible repeat' (first | assumption | exact Kept.refl _ | apply State.ledger_kept | refine Kept.of_snd (by assumption) ?_ | refine Kept.of_snd2 (by assumption) ?_ | refine Kept.of_fst (by assumption) ?_ | refine Kept.of_some (by assumption) ?_ | intro _ | apply Kept.ite | apply Kept.ite_snd | apply Kept.ite_fst | split | dsimp only)

theorem State.ledgerPoison_kept {σ τ : State} (hk : Kept σ τ) (old : State) : Kept σ (State.ledgerPoison τ old) := by
  unfold State.ledgerPoison
  with_reducible repeat' (first | assumption | exact Kept.refl _ | apply State.ledger_kept | apply Kept.each | refine Kept.of_snd (by assumption) ?_ | refine Kept.of_snd2 (by assumption) ?_ | refine Kept.of_fst (by assumption) ?_ | refine Kept.of_some (by assumption) ?_ | intro _ | apply Kept.ite | apply Kept.ite_snd | apply Kept.ite_fst | split | dsimp only)

theorem State.filterPoison_kept {σ τ : State} (hk : Kept σ τ) (p : Nat → Bool) : Kept σ (State.filterPoison τ p) := by
  unfold State.filterPoison
  with_reducible repeat' (first | assumption | exact Kept.refl _ | intro _ | dsimp only | simp only [Kept.upd_iff])

theorem State.clearPoison_kept {σ τ : State} (hk : Kept σ τ) (a n : Nat) : Kept σ (State.clearPoison τ a n) := by
  unfold State.clearPoison
  with_reducible repeat' (first | assumption | exact Kept.refl _ | apply State.filterPoison_kept | apply State.ledgerPoison_kept | intro _ | apply Kept.ite | apply Kept.ite_snd | apply Kept.ite_fst | split | dsimp only)

theorem State.write_kept {σ τ : State} (hk : Kept σ τ) (a : Nat) (bs : List Byte) : Kept σ (State.write τ a bs) := by
  unfold State.write
  with_reducible repeat' (first | assumption | exact Kept.refl _ | apply State.clearPoison_kept | apply State.put_kept | apply Kept.each | intro _ | apply Kept.ite | apply Kept.ite_snd | apply Kept.ite_fst | split | dsimp only)

theorem State.writeN_kept {σ τ : State} (hk : Kept σ τ) (a n v : Nat) : Kept σ (State.writeN τ a n v) := by
  unfold State.writeN
  with_reducible repeat' (first | assumption | exact Kept.refl _ | apply State.write_kept | intro _ | dsimp only)

theorem State.wipe_kept {σ τ : State} (hk : Kept σ τ) (a n : Nat) : Kept σ (State.wipe τ a n) := by
  unfold State.wipe
  with_reducible repeat' (first | assumption | exact Kept.refl _ | apply State.clearPoison_kept | apply State.zero_kept | apply State.put_kept | apply Kept.each | intro _ | apply Kept.ite | apply Kept.ite_snd | apply Kept.ite_fst | split | dsimp only)

theorem State.setDirty_kept {σ τ : State} (hk : Kept σ τ) (slot e : Nat) : Kept σ (State.setDirty τ slot e) := by
  unfold State.setDirty
  with_reducible repeat' (first | assumption | exact Kept.refl _ | apply State.writeN_kept | intro _ | apply Kept.ite | apply Kept.ite_snd | apply Kept.ite_fst | split | dsimp only)

theorem State.markDirty_kept {σ τ : State} (hk : Kept σ τ) (a n : Nat) : Kept σ (State.markDirty τ a n) := by
  unfold State.markDirty
  with_reducible repeat' (first | assumption | exact Kept.refl _ | apply State.setDirty_kept | apply Kept.each | refine Kept.of_snd (by assumption) ?_ | refine Kept.of_snd2 (by assumption) ?_ | refine Kept.of_fst (by assumption) ?_ | refine Kept.of_some (by assumption) ?_ | intro _ | apply Kept.ite | apply Kept.ite_snd | apply Kept.ite_fst | split | dsimp only)

theorem State.store_kept {σ τ : State} (hk : Kept σ τ) (a : Nat) (bs : List Byte) : Kept σ (State.store τ a bs) := by
  unfold State.store
  with_reducible repeat' (first | assumption | exact Kept.refl _ | apply State.write_kept | apply State.markDirty_kept | intro _ | dsimp only)

theorem State.storeN_kept {σ τ : State} (hk : Kept σ τ) (a n v : Nat) : Kept σ (State.storeN τ a n v) := by
  unfold State.storeN
  with_reducible repeat' (first | assumption | exact Kept.refl _ | apply State.store_kept | intro _ | dsimp only)

theorem State.latchFault_kept {σ τ : State} (hk : Kept σ τ) : Kept σ (State.latchFault τ) := by
  unfold State.latchFault
  with_reducible repeat' (first | assumption | exact Kept.refl _ | apply State.modRep_kept | intro _ | apply Kept.ite | apply Kept.ite_snd | apply Kept.ite_fst | split | dsimp only)

theorem State.noteRetired_kept {σ τ : State} (hk : Kept σ τ) (part : Byte) (cls : Nat) (unit : Nat) (id : Nat) : Kept σ (State.noteRetired τ part cls unit id) := by
  unfold State.noteRetired
  with_reducible repeat' (first | assumption | exact Kept.refl _ | apply State.ledgerClass_kept | apply State.modRep_kept | apply State.notify_kept | apply State.latchFault_kept | intro _ | apply Kept.ite | apply Kept.ite_snd | apply Kept.ite_fst | split | dsimp only)

theorem State.tierEvent_kept {σ τ : State} (hk : Kept σ τ) (cause unit id : Nat) : Kept σ (State.tierEvent τ cause unit id) := by
  unfold State.tierEvent
  with_reducible repeat' (first | assumption | exact Kept.refl _ | apply State.modTier_kept | intro _ | apply Kept.ite | apply Kept.ite_snd | apply Kept.ite_fst | split | dsimp only)

theorem State.crosses_kept {σ τ : State} (hk : Kept σ τ) (cls n : Nat) : Kept σ (State.crosses τ cls n).2 := by
  unfold State.crosses
  with_reducible repeat' (first | assumption | exact Kept.refl _ | apply State.fresh_kept | refine Kept.of_snd (by assumption) ?_ | refine Kept.of_snd2 (by assumption) ?_ | refine Kept.of_fst (by assumption) ?_ | refine Kept.of_some (by assumption) ?_ | intro _ | apply Kept.ite | apply Kept.ite_snd | apply Kept.ite_fst | split | dsimp only | simp only [Kept.upd_iff])

theorem State.startEvac_kept {σ τ : State} (hk : Kept σ τ) (ch : ChanId) (cls : Nat) : Kept σ (State.startEvac τ ch cls) := by
  unfold State.startEvac
  with_reducible repeat' (first | assumption | exact Kept.refl _ | apply State.modChan_kept | apply State.modTier_kept | apply State.ledger_kept | intro _ | dsimp only)

theorem State.crossChan_kept {σ τ : State} (hk : Kept σ τ) (ch : ChanId) (cls : Nat) : Kept σ (State.crossChan τ ch cls) := by
  unfold State.crossChan
  with_reducible repeat' (first | assumption | exact Kept.refl _ | apply State.modTier_kept | apply State.startEvac_kept | apply State.modChan_kept | apply State.ledger_kept | apply State.latchFault_kept | intro _ | apply Kept.ite | apply Kept.ite_snd | apply Kept.ite_fst | split | dsimp only)

theorem State.nextRetirement_kept {σ τ : State} (hk : Kept σ τ) (x0 : List (ChanId × Nat)) : Kept σ (State.nextRetirement τ x0) := by
  induction x0 generalizing τ with
  | nil => exact State.modTier_kept hk _
  | cons x r ih =>
    unfold State.nextRetirement
    refine Kept.ite ?_ (ih ?_)
    · exact State.modTier_kept (State.crossChan_kept hk _ _) _
    · exact State.crossChan_kept hk _ _

theorem State.noteUncorrectable_kept {σ τ : State} (hk : Kept σ τ) (x : Nat) : Kept σ (State.noteUncorrectable τ x) := by
  unfold State.noteUncorrectable
  with_reducible repeat' (first | assumption | exact Kept.refl _ | apply State.modChan_kept | apply State.crosses_kept | apply State.crossChan_kept | apply State.modFar_kept | apply State.store_kept | apply State.modReg_kept | refine Kept.of_snd (by assumption) ?_ | refine Kept.of_snd2 (by assumption) ?_ | refine Kept.of_fst (by assumption) ?_ | refine Kept.of_some (by assumption) ?_ | intro _ | apply Kept.ite | apply Kept.ite_snd | apply Kept.ite_fst | split | dsimp only)

theorem State.freezeThread_kept {σ τ : State} (hk : Kept σ τ) (c : CoreId) (t : ThreadId) (cause : Byte) (addr : Nat) : Kept σ (State.freezeThread τ c t cause addr) := by
  unfold State.freezeThread
  with_reducible repeat' (first | assumption | exact Kept.refl _ | apply State.modThread_kept | apply State.noticeFrozen_kept | intro _ | dsimp only)

theorem State.modOp_kept {σ τ : State} (hk : Kept σ τ) (c : CoreId) (ticket : BitVec 32) (f : Op → Op) : Kept σ (State.modOp τ c ticket f) := by
  unfold State.modOp
  with_reducible repeat' (first | assumption | exact Kept.refl _ | apply State.modCore_kept | intro _ | apply Kept.ite | apply Kept.ite_snd | apply Kept.ite_fst | split | dsimp only)

theorem State.freezeEngine_kept {σ τ : State} (hk : Kept σ τ) (c : CoreId) (o : Op) (cause : Byte) (addr : Nat) : Kept σ (State.freezeEngine τ c o cause addr) := by
  unfold State.freezeEngine
  with_reducible repeat' (first | assumption | exact Kept.refl _ | apply State.modReg_kept | apply State.modOp_kept | apply State.noticeFrozen_kept | refine Kept.of_snd (by assumption) ?_ | refine Kept.of_snd2 (by assumption) ?_ | refine Kept.of_fst (by assumption) ?_ | refine Kept.of_some (by assumption) ?_ | intro _ | split | dsimp only)

theorem State.freezeSession_kept {σ τ : State} (hk : Kept σ τ) (i : Fin 64) (part : Byte) : Kept σ (State.freezeSession τ i part) := by
  unfold State.freezeSession
  with_reducible repeat' (first | assumption | exact Kept.refl _ | apply State.modSess_kept | apply State.noticeFrozen_kept | intro _ | apply Kept.ite | apply Kept.ite_snd | apply Kept.ite_fst | split | dsimp only)

theorem State.finish_kept {σ τ : State} (hk : Kept σ τ) (c : CoreId) (ticket : BitVec 32) (st : Status) (result : BitVec 128) : Kept σ (State.finish τ c ticket st result) := by
  unfold State.finish
  with_reducible repeat' (first | assumption | exact Kept.refl _ | apply State.modOp_kept | intro _ | dsimp only)

theorem State.addSuccess_kept {σ τ : State} (hk : Kept σ τ) (c : CoreId) (ticket : BitVec 32) (st : Status) : Kept σ (State.addSuccess τ c ticket st) := by
  unfold State.addSuccess
  with_reducible repeat' (first | assumption | exact Kept.refl _ | apply State.modOp_kept | intro _ | dsimp only)

theorem State.modCmd_kept {σ τ : State} (hk : Kept σ τ) (h : BitVec 32) (f : HCmd → HCmd) : Kept σ (State.modCmd τ h f) := by
  unfold State.modCmd
  with_reducible repeat' (first | assumption | exact Kept.refl _ | apply State.modFct_kept | intro _ | apply Kept.ite | apply Kept.ite_snd | apply Kept.ite_fst | split | dsimp only)

theorem State.modSlot_kept {σ τ : State} (hk : Kept σ τ) (h : BitVec 32) (f : HSlot → HSlot) : Kept σ (State.modSlot τ h f) := by
  unfold State.modSlot
  with_reducible repeat' (first | assumption | exact Kept.refl _ | apply State.modFct_kept | intro _ | apply Kept.ite | apply Kept.ite_snd | apply Kept.ite_fst | split | dsimp only)

theorem State.completeCmd_kept {σ τ : State} (hk : Kept σ τ) (h : BitVec 32) (st : Status) (flags : Nat) (result : BitVec 128) (cyc : Nat) : Kept σ (State.completeCmd τ h st flags result cyc) := by
  unfold State.completeCmd
  with_reducible repeat' (first | assumption | exact Kept.refl _ | apply State.modFct_kept | apply State.modSess_kept | apply State.modSlot_kept | apply State.queueControl_kept | refine Kept.of_snd (by assumption) ?_ | refine Kept.of_snd2 (by assumption) ?_ | refine Kept.of_fst (by assumption) ?_ | refine Kept.of_some (by assumption) ?_ | intro _ | apply Kept.ite | apply Kept.ite_snd | apply Kept.ite_fst | split | dsimp only)

theorem State.endCmd_kept {σ τ : State} (hk : Kept σ τ) (h : BitVec 32) (st : Status) (result : BitVec 128) : Kept σ (State.endCmd τ h st result) := by
  unfold State.endCmd
  with_reducible repeat' (first | assumption | exact Kept.refl _ | apply State.completeCmd_kept | refine Kept.of_snd (by assumption) ?_ | refine Kept.of_snd2 (by assumption) ?_ | refine Kept.of_fst (by assumption) ?_ | refine Kept.of_some (by assumption) ?_ | intro _ | split | dsimp only)

/-! ### FabOps.lean -/

theorem State.emit_kept {σ τ : State} (hk : Kept σ τ) (l : LinkId) (f : OutFlit) : Kept σ (State.emit τ l f) := by
  unfold State.emit
  with_reducible repeat' (first | assumption | exact Kept.refl _ | apply State.modFab_kept | intro _ | dsimp only)

theorem State.sendFlit_kept {σ τ ω : State} {l : LinkId} (ek : State.sendFlit τ l = some ω) (hk : Kept σ τ) : Kept σ ω := by
  unfold State.sendFlit at ek
  repeat' (first | split at ek | (injection ek with ek; subst ek) | cases ek | dsimp only at ek)
  all_goals with_reducible repeat' (first | assumption | exact Kept.refl _ | apply State.modLink_kept | apply State.emit_kept | refine Kept.of_snd (by assumption) ?_ | refine Kept.of_snd2 (by assumption) ?_ | refine Kept.of_fst (by assumption) ?_ | refine Kept.of_some (by assumption) ?_ | intro _ | apply Kept.ite | apply Kept.ite_snd | apply Kept.ite_fst | split | dsimp only)

theorem State.pumpN_kept {σ τ : State} (hk : Kept σ τ) (l : LinkId) (x0 : Nat) : Kept σ (State.pumpN τ l x0) := by
  induction x0 generalizing τ l with
  | zero =>
    unfold State.pumpN
    with_reducible repeat' (first | assumption | exact Kept.refl _ | refine State.sendFlit_kept (by assumption) ?_ | refine Kept.of_snd (by assumption) ?_ | refine Kept.of_snd2 (by assumption) ?_ | refine Kept.of_fst (by assumption) ?_ | refine Kept.of_some (by assumption) ?_ | intro _ | split | dsimp only)
  | succ n ih =>
    unfold State.pumpN
    with_reducible repeat' (first | assumption | exact Kept.refl _ | apply ih | refine State.sendFlit_kept (by assumption) ?_ | refine Kept.of_snd (by assumption) ?_ | refine Kept.of_snd2 (by assumption) ?_ | refine Kept.of_fst (by assumption) ?_ | refine Kept.of_some (by assumption) ?_ | intro _ | split | dsimp only)

theorem State.idleN_kept {σ τ : State} (hk : Kept σ τ) (l : LinkId) (x0 : Nat) : Kept σ (State.idleN τ l x0) := by
  induction x0 generalizing τ l with
  | zero =>
    unfold State.idleN
    with_reducible repeat' (first | assumption | exact Kept.refl _ | apply State.modLink_kept | apply State.emit_kept | refine Kept.of_snd (by assumption) ?_ | refine Kept.of_snd2 (by assumption) ?_ | refine Kept.of_fst (by assumption) ?_ | refine Kept.of_some (by assumption) ?_ | intro _ | apply Kept.ite | apply Kept.ite_snd | apply Kept.ite_fst | split | dsimp only)
  | succ n ih =>
    unfold State.idleN
    with_reducible repeat' (first | assumption | exact Kept.refl _ | apply ih | apply State.modLink_kept | apply State.emit_kept | refine Kept.of_snd (by assumption) ?_ | refine Kept.of_snd2 (by assumption) ?_ | refine Kept.of_fst (by assumption) ?_ | refine Kept.of_some (by assumption) ?_ | intro _ | apply Kept.ite | apply Kept.ite_snd | apply Kept.ite_fst | split | dsimp only)

theorem State.pump_kept {σ τ : State} (hk : Kept σ τ) (l : LinkId) : Kept σ (State.pump τ l) := by
  unfold State.pump
  with_reducible repeat' (first | assumption | exact Kept.refl _ | apply State.pumpN_kept | apply State.idleN_kept | intro _ | dsimp only)

theorem State.sendRetry_kept {σ τ : State} (hk : Kept σ τ) (l : LinkId) : Kept σ (State.sendRetry τ l) := by
  unfold State.sendRetry
  with_reducible repeat' (first | assumption | exact Kept.refl _ | apply State.modLink_kept | apply State.emit_kept | refine Kept.of_snd (by assumption) ?_ | refine Kept.of_snd2 (by assumption) ?_ | refine Kept.of_fst (by assumption) ?_ | refine Kept.of_some (by assumption) ?_ | intro _ | split | dsimp only)

theorem State.sendTrain_kept {σ τ : State} (hk : Kept σ τ) (l : LinkId) : Kept σ (State.sendTrain τ l) := by
  unfold State.sendTrain
  with_reducible repeat' (first | assumption | exact Kept.refl _ | apply State.emit_kept | intro _ | dsimp only)

theorem State.enqueue_kept {σ τ : State} (hk : Kept σ τ) (l : LinkId) (m : Msg) : Kept σ (State.enqueue τ l m) := by
  unfold State.enqueue
  with_reducible repeat' (first | assumption | exact Kept.refl _ | apply State.modLink_kept | apply State.pump_kept | intro _ | dsimp only)

theorem State.forward_kept {σ τ : State} (hk : Kept σ τ) (m : Msg) (pair : Nat) (came : Option (LinkId × BitVec 1)) : Kept σ (State.forward τ m pair came) := by
  unfold State.forward
  with_reducible repeat' (first | assumption | exact Kept.refl _ | apply State.modFab_kept | apply State.enqueue_kept | refine Kept.of_snd (by assumption) ?_ | refine Kept.of_snd2 (by assumption) ?_ | refine Kept.of_fst (by assumption) ?_ | refine Kept.of_some (by assumption) ?_ | intro _ | apply Kept.ite | apply Kept.ite_snd | apply Kept.ite_fst | split | dsimp only)

theorem State.request_kept {σ τ : State} (hk : Kept σ τ) (p : PartId) (die : PortId) (owner : ReqOwner) (op fn : Byte) (g len : Nat) (data : List Byte) : Kept σ (State.request τ p die owner op fn g len data).2 := by
  unfold State.request
  with_reducible repeat' (first | assumption | exact Kept.refl _ | apply State.modFab_kept | apply State.forward_kept | refine Kept.of_snd (by assumption) ?_ | refine Kept.of_snd2 (by assumption) ?_ | refine Kept.of_fst (by assumption) ?_ | refine Kept.of_some (by assumption) ?_ | intro _ | apply Kept.ite | apply Kept.ite_snd | apply Kept.ite_fst | split | dsimp only)

theorem State.releaseWaiting_kept {σ τ : State} (hk : Kept σ τ) (p : PartId) : Kept σ (State.releaseWaiting τ p) := by
  unfold State.releaseWaiting
  with_reducible repeat' (first | assumption | exact Kept.refl _ | apply State.modFab_kept | apply State.forward_kept | apply Kept.each | intro _ | dsimp only)

/-! ### Operands.lean -/

theorem State.trouble_kept {σ τ : State} (hk : Kept σ τ) (c : CoreId) (o : Op) (t : Trouble) : Kept σ (State.trouble τ c o t) := by
  unfold State.trouble
  with_reducible repeat' (first | assumption | exact Kept.refl _ | apply State.freezeEngine_kept | apply State.noteUncorrectable_kept | apply State.finish_kept | refine Kept.of_snd (by assumption) ?_ | refine Kept.of_snd2 (by assumption) ?_ | refine Kept.of_fst (by assumption) ?_ | refine Kept.of_some (by assumption) ?_ | intro _ | split | dsimp only)

theorem State.unless_kept {σ τ : State} (hk : Kept σ τ) (c : CoreId) (o : Op) (ts : List (Option Trouble)) (f : State → State) (hf : ∀ (v0 : State), Kept σ v0 → Kept σ (f v0)) : Kept σ (State.unless τ c o ts f) := by
  unfold State.unless
  with_reducible repeat' (first | assumption | exact Kept.refl _ | apply State.trouble_kept | apply hf | refine Kept.of_snd (by assumption) ?_ | refine Kept.of_snd2 (by assumption) ?_ | refine Kept.of_fst (by assumption) ?_ | refine Kept.of_some (by assumption) ?_ | intro _ | split | dsimp only)

theorem State.badDesc_kept {σ τ : State} (hk : Kept σ τ) (c : CoreId) (o : Op) : Kept σ (State.badDesc τ c o) := by
  unfold State.badDesc
  with_reducible repeat' (first | assumption | exact Kept.refl _ | apply State.finish_kept | intro _ | dsimp only)

theorem State.startIf_kept {σ τ : State} (hk : Kept σ τ) (c : CoreId) (opc : Nat) (bad : BadSectors) (early : Desc → Bool) (run : State → Op → State) (hrun : ∀ (v0 : State) (v1 : Op), Kept σ v0 → Kept σ (run v0 v1)) : Kept σ (State.startIf τ c opc bad early run) := by
  unfold State.startIf
  with_reducible repeat' (first | assumption | exact Kept.refl _ | apply State.badDesc_kept | apply State.finish_kept | apply State.modOp_kept | apply State.trouble_kept | apply hrun | refine Kept.of_snd (by assumption) ?_ | refine Kept.of_snd2 (by assumption) ?_ | refine Kept.of_fst (by assumption) ?_ | refine Kept.of_some (by assumption) ?_ | intro _ | apply Kept.ite | apply Kept.ite_snd | apply Kept.ite_fst | split | dsimp only)

theorem State.startOp_kept {σ τ : State} (hk : Kept σ τ) (c : CoreId) (opc : Nat) (bad : BadSectors) (run : State → Op → State) (hrun : ∀ (v0 : State) (v1 : Op), Kept σ v0 → Kept σ (run v0 v1)) : Kept σ (State.startOp τ c opc bad run) := by
  unfold State.startOp
  with_reducible repeat' (first | assumption | exact Kept.refl _ | apply State.startIf_kept | apply hrun | intro _ | dsimp only)

theorem State.resumeOp_kept {σ τ : State} (hk : Kept σ τ) (c : CoreId) (ticket : BitVec 32) (f : Op → State) (hf : ∀ (v0 : Op), Kept σ (f v0)) : Kept σ (State.resumeOp τ c ticket f) := by
  unfold State.resumeOp
  with_reducible repeat' (first | assumption | exact Kept.refl _ | apply State.finish_kept | apply hf | refine Kept.of_snd (by assumption) ?_ | refine Kept.of_snd2 (by assumption) ?_ | refine Kept.of_fst (by assumption) ?_ | refine Kept.of_some (by assumption) ?_ | intro _ | apply Kept.ite | apply Kept.ite_snd | apply Kept.ite_fst | split | dsimp only)

/-! ### ArrayOps.lean -/

theorem State.setArr_kept {σ τ : State} (hk : Kept σ τ) (c : CoreId) (ticket : BitVec 32) (a : ArrayWork) : Kept σ (State.setArr τ c ticket a) := by
  unfold State.setArr
  with_reducible repeat' (first | assumption | exact Kept.refl _ | apply State.modOp_kept | intro _ | dsimp only)

theorem State.rounds_kept {σ τ : State} (hk : Kept σ τ) (stochastic : Bool) (n : Nat) : Kept σ (State.rounds τ stochastic n).2 := by
  unfold State.rounds
  with_reducible repeat' (first | assumption | exact Kept.refl _ | intro _ | apply Kept.ite | apply Kept.ite_snd | apply Kept.ite_fst | split | dsimp only | simp only [Kept.upd_iff])

theorem State.putBlock_kept {σ τ : State} (hk : Kept σ τ) (t : Nat) (pips : Bool) (L r blk : Nat) (held : Nat → Bool) (b : BlockOut) : Kept σ (State.putBlock τ t pips L r blk held b) := by
  unfold State.putBlock
  with_reducible repeat' (first | assumption | exact Kept.refl _ | apply State.store_kept | apply State.storeN_kept | apply Kept.each | refine Kept.of_snd (by assumption) ?_ | refine Kept.of_snd2 (by assumption) ?_ | refine Kept.of_fst (by assumption) ?_ | refine Kept.of_some (by assumption) ?_ | intro _ | apply Kept.ite | apply Kept.ite_snd | apply Kept.ite_fst | split | dsimp only)

theorem State.drainBlock_kept {σ : State} {τ : Drained} (hk : Kept σ τ.s) (v : View) (widened : Bool) (row col blk : Nat) (x : List (Option (BitVec 32))) : Kept σ (State.drainBlock τ v widened row col blk x).s := by
  unfold State.drainBlock
  with_reducible repeat' (first | assumption | exact Kept.refl _ | apply State.rounds_kept | apply State.putBlock_kept | refine Kept.of_snd (by assumption) ?_ | refine Kept.of_snd2 (by assumption) ?_ | refine Kept.of_fst (by assumption) ?_ | refine Kept.of_some (by assumption) ?_ | intro _ | apply Kept.ite | apply Kept.ite_snd | apply Kept.ite_fst | split | dsimp only)

theorem State.drainBlocks_kept {σ : State} {τ : Drained} (hk : Kept σ τ.s) (c : CoreId) (ticket : BitVec 32) (v : View) (widened : Bool) (t : TileSpec) (row : Nat) (sums : List (BitVec 32)) : Kept σ (State.drainBlocks c ticket v widened t τ row sums).s := by
  unfold State.drainBlocks
  with_reducible repeat' (first | assumption | exact Kept.refl _ | apply State.modArr_kept | apply State.drainBlock_kept | apply Kept.foldl_snd | apply Kept.foldl_fst | apply Kept.foldl_drained | apply Kept.foldl_vecOut | apply Kept.foldl_chunkSum | apply Kept.foldl_kvRun | apply Kept.foldl_vec | refine Kept.of_snd (by assumption) ?_ | refine Kept.of_snd2 (by assumption) ?_ | refine Kept.of_fst (by assumption) ?_ | refine Kept.of_some (by assumption) ?_ | intro _ | split | dsimp only)

theorem State.drainElem_kept {σ : State} {τ : Drained} (hk : Kept σ τ.s) (v : View) (row n : Nat) (x : BitVec 32) : Kept σ (State.drainElem τ v row n x).s := by
  unfold State.drainElem
  with_reducible repeat' (first | assumption | exact Kept.refl _ | apply State.storeN_kept | apply State.rounds_kept | refine Kept.of_snd (by assumption) ?_ | refine Kept.of_snd2 (by assumption) ?_ | refine Kept.of_fst (by assumption) ?_ | refine Kept.of_some (by assumption) ?_ | intro _ | apply Kept.ite | apply Kept.ite_snd | apply Kept.ite_fst | split | dsimp only)

theorem State.drainTile_kept {σ τ : State} (hk : Kept σ τ) (c : CoreId) (ticket : BitVec 32) (v : View) (widened : Bool) (t : TileSpec) (sums : List (List (BitVec 32))) : Kept σ (State.drainTile τ c ticket v widened t sums).s := by
  unfold State.drainTile
  with_reducible repeat' (first | assumption | exact Kept.refl _ | apply State.drainBlocks_kept | apply State.drainElem_kept | apply Kept.foldl_snd | apply Kept.foldl_fst | apply Kept.foldl_drained | apply Kept.foldl_vecOut | apply Kept.foldl_chunkSum | apply Kept.foldl_kvRun | apply Kept.foldl_vec | intro _ | apply Kept.ite | apply Kept.ite_snd | apply Kept.ite_fst | split | dsimp only)

/-! ### Drain.lean -/

theorem State.countTrips_kept {σ τ : State} (hk : Kept σ τ) (c : CoreId) (trips reruns : Nat) : Kept σ (State.countTrips τ c trips reruns) := by
  unfold State.countTrips
  with_reducible repeat' (first | assumption | exact Kept.refl _ | apply State.modArr_kept | intro _ | dsimp only)

theorem State.dropCarry_kept {σ τ : State} (hk : Kept σ τ) (c : CoreId) (ticket : BitVec 32) : Kept σ (State.dropCarry τ c ticket) := by
  unfold State.dropCarry
  with_reducible repeat' (first | assumption | exact Kept.refl _ | apply State.modArr_kept | intro _ | dsimp only)

theorem State.vectorDrain_kept {σ τ : State} (hk : Kept σ τ) (c : CoreId) (ticket : BitVec 32) (v : View) (tiles : List VecTile) : Kept σ (State.vectorDrain τ c ticket v tiles).s := by
  unfold State.vectorDrain
  with_reducible repeat' (first | assumption | exact Kept.refl _ | apply State.drainTile_kept | apply State.countTrips_kept | apply State.dropCarry_kept | apply Kept.foldl_snd | apply Kept.foldl_fst | apply Kept.foldl_drained | apply Kept.foldl_vecOut | apply Kept.foldl_chunkSum | apply Kept.foldl_kvRun | apply Kept.foldl_vec | refine Kept.of_snd (by assumption) ?_ | refine Kept.of_snd2 (by assumption) ?_ | refine Kept.of_fst (by assumption) ?_ | refine Kept.of_some (by assumption) ?_ | intro _ | apply Kept.ite | apply Kept.ite_snd | apply Kept.ite_fst | split | dsimp only)

theorem State.startVec_kept {σ τ : State} (hk : Kept σ τ) (c : CoreId) (opc : Nat) (bad : BadSectors) (early : Desc → Bool) (writes : Desc → List (Nat × Nat)) (run : State → Op → State) (hrun : ∀ (v0 : State) (v1 : Op), Kept σ v0 → Kept σ (run v0 v1)) : Kept σ (State.startVec τ c opc bad early writes run) := by
  unfold State.startVec
  with_reducible repeat' (first | assumption | exact Kept.refl _ | apply State.startIf_kept | apply hrun | intro _ | apply Kept.ite | apply Kept.ite_snd | apply Kept.ite_fst | split | dsimp only)

theorem State.startArray_kept {σ τ : State} (hk : Kept σ τ) (c : CoreId) (o : Op) (m k n : Nat) (tiles : List TileSpec) (elidedPasses : Nat) : Kept σ (State.startArray τ c o m k n tiles elidedPasses) := by
  unfold State.startArray
  with_reducible repeat' (first | assumption | exact Kept.refl _ | apply State.unless_kept | apply State.modCnv_kept | apply State.finish_kept | apply State.modOp_kept | intro _ | apply Kept.ite | apply Kept.ite_snd | apply Kept.ite_fst | split | dsimp only)

theorem State.fillWeights_kept {σ τ : State} (hk : Kept σ τ) (c : CoreId) : Kept σ (State.fillWeights τ c) := by
  unfold State.fillWeights
  with_reducible repeat' (first | assumption | exact Kept.refl _ | apply State.modArr_kept | refine Kept.of_snd (by assumption) ?_ | refine Kept.of_snd2 (by assumption) ?_ | refine Kept.of_fst (by assumption) ?_ | refine Kept.of_some (by assumption) ?_ | intro _ | split | dsimp only)

theorem State.abandon_kept {σ τ : State} (hk : Kept σ τ) (c : CoreId) (ticket : BitVec 32) : Kept σ (State.abandon τ c ticket) := by
  unfold State.abandon
  with_reducible repeat' (first | assumption | exact Kept.refl _ | apply State.modArr_kept | apply State.fillWeights_kept | intro _ | apply Kept.ite | apply Kept.ite_snd | apply Kept.ite_fst | split | dsimp only)

/-! ### Thread.lean -/

theorem State.idleThread_kept {σ τ : State} (hk : Kept σ τ) (c : CoreId) (t : ThreadId) (clearFault : Bool) : Kept σ (State.idleThread τ c t clearFault) := by
  unfold State.idleThread
  with_reducible repeat' (first | assumption | exact Kept.refl _ | apply State.modThread_kept | apply State.modPart_kept | refine Kept.of_snd (by assumption) ?_ | refine Kept.of_snd2 (by assumption) ?_ | refine Kept.of_fst (by assumption) ?_ | refine Kept.of_some (by assumption) ?_ | intro _ | apply Kept.ite | apply Kept.ite_snd | apply Kept.ite_fst | split | dsimp only)

theorem State.advance_kept {σ τ : State} (hk : Kept σ τ) (c : CoreId) (t : ThreadId) : Kept σ (State.advance τ c t) := by
  unfold State.advance
  with_reducible repeat' (first | assumption | exact Kept.refl _ | apply State.freezeThread_kept | apply State.modThread_kept | intro _ | apply Kept.ite | apply Kept.ite_snd | apply Kept.ite_fst | split | dsimp only)

theorem State.stayFrozen_kept {σ τ : State} (hk : Kept σ τ) (c : CoreId) (t : ThreadId) : Kept σ (State.stayFrozen τ c t) := by
  unfold State.stayFrozen
  with_reducible repeat' (first | assumption | exact Kept.refl _ | apply State.modThread_kept | intro _ | apply Kept.ite | apply Kept.ite_snd | apply Kept.ite_fst | split | dsimp only)

theorem State.issueInstr_kept {σ τ : State} (hk : Kept σ τ) (c : CoreId) (t : ThreadId) (n : IName) (w : IWord) (eff : State → State) (heff : ∀ (v0 : State), Kept σ v0 → Kept σ (eff v0)) : Kept σ (State.issueInstr τ c t n w eff) := by
  unfold State.issueInstr
  with_reducible repeat' (first | assumption | exact Kept.refl _ | apply State.noteUncorrectable_kept | apply State.freezeThread_kept | apply State.modCore_kept | apply State.modThread_kept | apply State.advance_kept | apply heff | refine Kept.of_snd (by assumption) ?_ | refine Kept.of_snd2 (by assumption) ?_ | refine Kept.of_fst (by assumption) ?_ | refine Kept.of_some (by assumption) ?_ | intro _ | apply Kept.ite | apply Kept.ite_snd | apply Kept.ite_fst | split | dsimp only)

theorem State.putReg_kept {σ τ : State} (hk : Kept σ τ) (c : CoreId) (t : ThreadId) (r : BitVec 6) (v : Word) : Kept σ (State.putReg τ c t r v) := by
  unfold State.putReg
  with_reducible repeat' (first | assumption | exact Kept.refl _ | apply State.modThread_kept | apply State.advance_kept | intro _ | dsimp only)

theorem State.putPred_kept {σ τ : State} (hk : Kept σ τ) (c : CoreId) (t : ThreadId) (p : Nat) (v : Bool) : Kept σ (State.putPred τ c t p v) := by
  unfold State.putPred
  with_reducible repeat' (first | assumption | exact Kept.refl _ | apply State.modThread_kept | apply State.advance_kept | intro _ | dsimp only)

theorem State.jump_kept {σ τ : State} (hk : Kept σ τ) (c : CoreId) (t : ThreadId) (target : Int) (eff : Thread → Thread) : Kept σ (State.jump τ c t target eff) := by
  unfold State.jump
  with_reducible repeat' (first | assumption | exact Kept.refl _ | apply State.modThread_kept | apply State.freezeThread_kept | intro _ | apply Kept.ite | apply Kept.ite_snd | apply Kept.ite_fst | split | dsimp only)

theorem State.regOp_kept {σ τ : State} (hk : Kept σ τ) (c : CoreId) (t : ThreadId) (n : IName) (w : IWord) (f : Word → Word → Word) : Kept σ (State.regOp τ c t n w f) := by
  unfold State.regOp
  with_reducible repeat' (first | assumption | exact Kept.refl _ | apply State.issueInstr_kept | apply State.putReg_kept | intro _ | dsimp only)

theorem State.immOp_kept {σ τ : State} (hk : Kept σ τ) (c : CoreId) (t : ThreadId) (n : IName) (w : IWord) (f : Word → Word → Word) : Kept σ (State.immOp τ c t n w f) := by
  unfold State.immOp
  with_reducible repeat' (first | assumption | exact Kept.refl _ | apply State.issueInstr_kept | apply State.putReg_kept | intro _ | dsimp only)

theorem State.tickCore_kept {σ τ : State} (hk : Kept σ τ) (c : CoreId) : Kept σ (State.tickCore τ c) := by
  unfold State.tickCore
  with_reducible repeat' (first | assumption | exact Kept.refl _ | apply State.fresh_kept | apply State.modReg_kept | refine Kept.of_snd (by assumption) ?_ | refine Kept.of_snd2 (by assumption) ?_ | refine Kept.of_fst (by assumption) ?_ | refine Kept.of_some (by assumption) ?_ | intro _ | split | dsimp only | simp only [Kept.upd_iff])

theorem State.startThread_kept {σ τ : State} (hk : Kept σ τ) (m : Master) (c : CoreId) (t : ThreadId) : Kept σ (State.startThread τ m c t) := by
  unfold State.startThread
  with_reducible repeat' (first | assumption | exact Kept.refl _ | apply State.modThread_kept | refine Kept.of_snd (by assumption) ?_ | refine Kept.of_snd2 (by assumption) ?_ | refine Kept.of_fst (by assumption) ?_ | refine Kept.of_some (by assumption) ?_ | intro _ | apply Kept.ite | apply Kept.ite_snd | apply Kept.ite_fst | split | dsimp only)

theorem State.resetThread_kept {σ τ : State} (hk : Kept σ τ) (m : Master) (c : CoreId) (t : ThreadId) : Kept σ (State.resetThread τ m c t) := by
  unfold State.resetThread
  with_reducible repeat' (first | assumption | exact Kept.refl _ | apply State.idleThread_kept | apply State.modThread_kept | refine Kept.of_snd (by assumption) ?_ | refine Kept.of_snd2 (by assumption) ?_ | refine Kept.of_fst (by assumption) ?_ | refine Kept.of_some (by assumption) ?_ | intro _ | apply Kept.ite | apply Kept.ite_snd | apply Kept.ite_fst | split | dsimp only)

theorem State.writeThrCtl_kept {σ τ : State} (hk : Kept σ τ) (m : Master) (c : CoreId) (t : ThreadId) (v : Word) : Kept σ (State.writeThrCtl τ m c t v) := by
  unfold State.writeThrCtl
  with_reducible repeat' (first | assumption | exact Kept.refl _ | apply State.resetThread_kept | apply State.startThread_kept | intro _ | apply Kept.ite | apply Kept.ite_snd | apply Kept.ite_fst | split | dsimp only)

/-! ### Issue.lean -/

theorem State.takeSlot_kept {σ τ : State} (hk : Kept σ τ) (c : CoreId) (t : ThreadId) (rd : BitVec 6) (d : Desc) (bad : Bool) : Kept σ (State.takeSlot τ c t rd d bad) := by
  unfold State.takeSlot
  with_reducible repeat' (first | assumption | exact Kept.refl _ | apply State.modCore_kept | apply State.modThread_kept | apply State.advance_kept | intro _ | dsimp only)

theorem State.retireTiss_kept {σ τ : State} (hk : Kept σ τ) (c : CoreId) (t : ThreadId) (rd : BitVec 6) (addr : Word) (bad : BadSectors) : Kept σ (State.retireTiss τ c t rd addr bad) := by
  unfold State.retireTiss
  with_reducible repeat' (first | assumption | exact Kept.refl _ | apply State.takeSlot_kept | apply State.freezeThread_kept | apply State.noteUncorrectable_kept | refine Kept.of_snd (by assumption) ?_ | refine Kept.of_snd2 (by assumption) ?_ | refine Kept.of_fst (by assumption) ?_ | refine Kept.of_some (by assumption) ?_ | intro _ | apply Kept.ite | apply Kept.ite_snd | apply Kept.ite_fst | split | dsimp only)

/-! ### Adder.lean -/

theorem State.addInto_kept {σ τ : State} (hk : Kept σ τ) (a : Nat) (e : Nat) (mx : Bool) (bs : List Byte) : Kept σ (State.addInto τ a e mx bs) := by
  unfold State.addInto
  with_reducible repeat' (first | assumption | exact Kept.refl _ | apply State.store_kept | intro _ | dsimp only)

/-! ### Xfer.lean -/

theorem State.opRequest_kept {σ τ : State} (hk : Kept σ τ) (c : CoreId) (ticket : BitVec 32) (op fn : Byte) (g len : Nat) (data : List Byte) : Kept σ (State.opRequest τ c ticket op fn g len data) := by
  unfold State.opRequest
  with_reducible repeat' (first | assumption | exact Kept.refl _ | apply State.request_kept | apply State.modOp_kept | refine Kept.of_snd (by assumption) ?_ | refine Kept.of_snd2 (by assumption) ?_ | refine Kept.of_fst (by assumption) ?_ | refine Kept.of_some (by assumption) ?_ | intro _ | split | dsimp only)

theorem State.setXfers_kept {σ τ : State} (hk : Kept σ τ) (c : CoreId) (ticket : BitVec 32) (xs : List Xfer) : Kept σ (State.setXfers τ c ticket xs) := by
  unfold State.setXfers
  with_reducible repeat' (first | assumption | exact Kept.refl _ | apply State.modOp_kept | intro _ | dsimp only)

theorem State.countScript_kept {σ τ : State} (hk : Kept σ τ) (c : CoreId) (ticket : BitVec 32) (n : Nat) : Kept σ (State.countScript τ c ticket n) := by
  unfold State.countScript
  with_reducible repeat' (first | assumption | exact Kept.refl _ | apply State.modOp_kept | refine Kept.of_snd (by assumption) ?_ | refine Kept.of_snd2 (by assumption) ?_ | refine Kept.of_fst (by assumption) ?_ | refine Kept.of_some (by assumption) ?_ | intro _ | split | dsimp only)

theorem State.doHere_kept {σ τ : State} (hk : Kept σ τ) (c : CoreId) (ticket : BitVec 32) (x : Xfer) : Kept σ (State.doHere τ c ticket x).1 := by
  unfold State.doHere
  with_reducible repeat' (first | assumption | exact Kept.refl _ | apply State.store_kept | apply State.addInto_kept | apply State.storeN_kept | apply State.countScript_kept | refine Kept.of_snd (by assumption) ?_ | refine Kept.of_snd2 (by assumption) ?_ | refine Kept.of_fst (by assumption) ?_ | refine Kept.of_some (by assumption) ?_ | intro _ | apply Kept.ite | apply Kept.ite_snd | apply Kept.ite_fst | split | dsimp only)

theorem State.sendXfer_kept {σ τ : State} (hk : Kept σ τ) (c : CoreId) (ticket : BitVec 32) (x : Xfer) : Kept σ (State.sendXfer τ c ticket x) := by
  unfold State.sendXfer
  with_reducible repeat' (first | assumption | exact Kept.refl _ | apply State.opRequest_kept | refine Kept.of_snd (by assumption) ?_ | refine Kept.of_snd2 (by assumption) ?_ | refine Kept.of_fst (by assumption) ?_ | refine Kept.of_some (by assumption) ?_ | intro _ | apply Kept.ite | apply Kept.ite_snd | apply Kept.ite_fst | split | dsimp only)

theorem State.runXfersN_kept {σ τ : State} (hk : Kept σ τ) (c : CoreId) (ticket : BitVec 32) (bad : BadSectors) (x0 : Nat) (x1 : List Xfer) : Kept σ (State.runXfersN τ c ticket bad x0 x1).2 := by
  induction x0 generalizing τ c ticket bad x1 with
  | zero =>
    unfold State.runXfersN
    with_reducible repeat' (first | assumption | exact Kept.refl _ | apply State.setXfers_kept | apply State.doHere_kept | apply State.sendXfer_kept | refine Kept.of_snd (by assumption) ?_ | refine Kept.of_snd2 (by assumption) ?_ | refine Kept.of_fst (by assumption) ?_ | refine Kept.of_some (by assumption) ?_ | intro _ | apply Kept.ite | apply Kept.ite_snd | apply Kept.ite_fst | split | dsimp only)
  | succ n ih =>
    unfold State.runXfersN
    with_reducible repeat' (first | assumption | exact Kept.refl _ | apply ih | apply State.setXfers_kept | apply State.doHere_kept | apply State.sendXfer_kept | refine Kept.of_snd (by assumption) ?_ | refine Kept.of_snd2 (by assumption) ?_ | refine Kept.of_fst (by assumption) ?_ | refine Kept.of_some (by assumption) ?_ | intro _ | apply Kept.ite | apply Kept.ite_snd | apply Kept.ite_fst | split | dsimp only)

theorem State.runXfers_kept {σ τ : State} (hk : Kept σ τ) (c : CoreId) (ticket : BitVec 32) (bad : BadSectors) (xs : List Xfer) : Kept σ (State.runXfers τ c ticket bad xs).2 := by
  unfold State.runXfers
  with_reducible repeat' (first | assumption | exact Kept.refl _ | apply State.runXfersN_kept | intro _ | dsimp only)

/-! ### Move.lean -/

theorem State.setClaim_kept {σ τ : State} (hk : Kept σ τ) (tumb e : Nat) (x : Claim) : Kept σ (State.setClaim τ tumb e x) := by
  unfold State.setClaim
  with_reducible repeat' (first | assumption | exact Kept.refl _ | apply State.write_kept | intro _ | dsimp only)

theorem State.reissueClaims_kept {σ τ : State} (hk : Kept σ τ) (tumb : Nat) (p : Claim → Bool) : Kept σ (State.reissueClaims τ tumb p) := by
  unfold State.reissueClaims
  with_reducible repeat' (first | assumption | exact Kept.refl _ | apply State.setClaim_kept | apply State.writeN_kept | apply Kept.each | intro _ | apply Kept.ite | apply Kept.ite_snd | apply Kept.ite_fst | split | dsimp only)

theorem State.copyDone_kept {σ τ : State} (hk : Kept σ τ) (c : CoreId) (o : Op) : Kept σ (State.copyDone τ c o) := by
  unfold State.copyDone
  with_reducible repeat' (first | assumption | exact Kept.refl _ | apply State.setClaim_kept | apply State.finish_kept | refine Kept.of_snd (by assumption) ?_ | refine Kept.of_snd2 (by assumption) ?_ | refine Kept.of_fst (by assumption) ?_ | refine Kept.of_some (by assumption) ?_ | intro _ | apply Kept.ite | apply Kept.ite_snd | apply Kept.ite_fst | split | dsimp only)

theorem State.copyFailed_kept {σ τ : State} (hk : Kept σ τ) (c : CoreId) (o : Op) (st : Status) : Kept σ (State.copyFailed τ c o st) := by
  unfold State.copyFailed
  with_reducible repeat' (first | assumption | exact Kept.refl _ | apply State.reissueClaims_kept | apply State.finish_kept | intro _ | apply Kept.ite | apply Kept.ite_snd | apply Kept.ite_fst | split | dsimp only)

theorem State.copyRun_kept {σ τ : State} (hk : Kept σ τ) (c : CoreId) (o : Op) (bad : BadSectors) (x : Xfer) : Kept σ (State.copyRun τ c o bad x) := by
  unfold State.copyRun
  with_reducible repeat' (first | assumption | exact Kept.refl _ | apply State.trouble_kept | apply State.runXfers_kept | apply State.copyDone_kept | apply State.noteUncorrectable_kept | apply State.copyFailed_kept | refine Kept.of_snd (by assumption) ?_ | refine Kept.of_snd2 (by assumption) ?_ | refine Kept.of_fst (by assumption) ?_ | refine Kept.of_some (by assumption) ?_ | intro _ | split | dsimp only)

/-! ### Fused.lean -/

theorem State.writeRdone_kept {σ τ : State} (hk : Kept σ τ) (c : CoreId) (d : Desc) : Kept σ (State.writeRdone τ c d) := by
  unfold State.writeRdone
  with_reducible repeat' (first | assumption | exact Kept.refl _ | apply State.storeN_kept | intro _ | dsimp only)

theorem State.fusedFail_kept {σ τ : State} (hk : Kept σ τ) (c : CoreId) (o : Op) (st : Status) : Kept σ (State.fusedFail τ c o st) := by
  unfold State.fusedFail
  with_reducible repeat' (first | assumption | exact Kept.refl _ | apply State.abandon_kept | apply State.storeN_kept | apply State.writeRdone_kept | apply State.modCnv_kept | apply State.finish_kept | apply Kept.each | intro _ | apply Kept.ite | apply Kept.ite_snd | apply Kept.ite_fst | split | dsimp only)

theorem State.readsDone_kept {σ τ : State} (hk : Kept σ τ) (c : CoreId) (ticket : BitVec 32) : Kept σ (State.readsDone τ c ticket) := by
  unfold State.readsDone
  with_reducible repeat' (first | assumption | exact Kept.refl _ | apply State.writeRdone_kept | apply State.modOp_kept | refine Kept.of_snd (by assumption) ?_ | refine Kept.of_snd2 (by assumption) ?_ | refine Kept.of_fst (by assumption) ?_ | refine Kept.of_some (by assumption) ?_ | intro _ | apply Kept.ite | apply Kept.ite_snd | apply Kept.ite_fst | split | dsimp only)

theorem State.fusedEnd_kept {σ τ : State} (hk : Kept σ τ) (c : CoreId) (o : Op) (f : FusedWork) : Kept σ (State.fusedEnd τ c o f) := by
  unfold State.fusedEnd
  with_reducible repeat' (first | assumption | exact Kept.refl _ | apply State.finish_kept | apply State.writeRdone_kept | apply State.modCnv_kept | apply State.modOp_kept | intro _ | apply Kept.ite | apply Kept.ite_snd | apply Kept.ite_fst | split | dsimp only)

theorem State.fusedLayerDone_kept {σ τ : State} (hk : Kept σ τ) (c : CoreId) (o : Op) (f : FusedWork) (words : List Nat) (widened empty : Bool) : Kept σ (State.fusedLayerDone τ c o f words widened empty) := by
  unfold State.fusedLayerDone
  with_reducible repeat' (first | assumption | exact Kept.refl _ | apply State.modOp_kept | apply State.readsDone_kept | apply State.fusedEnd_kept | refine Kept.of_snd (by assumption) ?_ | refine Kept.of_snd2 (by assumption) ?_ | refine Kept.of_fst (by assumption) ?_ | refine Kept.of_some (by assumption) ?_ | intro _ | apply Kept.ite | apply Kept.ite_snd | apply Kept.ite_fst | split | dsimp only)

theorem State.publishBands_kept {σ τ : State} (hk : Kept σ τ) (c : CoreId) (d : Desc) (i : Nat) (g : Geo) (pending : List TileSpec) : Kept σ (State.publishBands τ c d i g pending) := by
  unfold State.publishBands
  with_reducible repeat' (first | assumption | exact Kept.refl _ | apply State.put_kept | apply State.storeN_kept | intro _ | apply Kept.ite | apply Kept.ite_snd | apply Kept.ite_fst | split | dsimp only)

theorem State.takeBandFail_kept {σ τ : State} (hk : Kept σ τ) (c : CoreId) (o : Op) (b : BandRead) : Kept σ (State.takeBandFail τ c o b) := by
  unfold State.takeBandFail
  with_reducible repeat' (first | assumption | exact Kept.refl _ | apply State.noteUncorrectable_kept | apply State.fusedFail_kept | apply State.modCnv_kept | refine Kept.of_snd (by assumption) ?_ | refine Kept.of_snd2 (by assumption) ?_ | refine Kept.of_fst (by assumption) ?_ | refine Kept.of_some (by assumption) ?_ | intro _ | split | dsimp only)

theorem State.withBands_kept {σ τ : State} (hk : Kept σ τ) (c : CoreId) (bad : BadSectors) (o : Op) (f : FusedWork) (n : Nat × Nat) (go : State → State) (hgo : ∀ (v0 : State), Kept σ v0 → Kept σ (go v0)) : Kept σ (State.withBands τ c bad o f n go) := by
  unfold State.withBands
  with_reducible repeat' (first | assumption | exact Kept.refl _ | apply State.takeBandFail_kept | apply State.modOp_kept | apply hgo | refine Kept.of_snd (by assumption) ?_ | refine Kept.of_snd2 (by assumption) ?_ | refine Kept.of_fst (by assumption) ?_ | refine Kept.of_some (by assumption) ?_ | intro _ | apply Kept.ite | apply Kept.ite_snd | apply Kept.ite_fst | split | dsimp only)

theorem State.startFused_kept {σ τ : State} (hk : Kept σ τ) (c : CoreId) (bad : BadSectors) (o : Op) : Kept σ (State.startFused τ c bad o) := by
  unfold State.startFused
  with_reducible repeat' (first | assumption | exact Kept.refl _ | apply State.modCnv_kept | apply State.fusedFail_kept | apply State.noteUncorrectable_kept | apply State.storeN_kept | apply State.modOp_kept | apply Kept.each | refine Kept.of_snd (by assumption) ?_ | refine Kept.of_snd2 (by assumption) ?_ | refine Kept.of_fst (by assumption) ?_ | refine Kept.of_some (by assumption) ?_ | intro _ | apply Kept.ite | apply Kept.ite_snd | apply Kept.ite_fst | split | dsimp only)

theorem State.startLayer_kept {σ τ : State} (hk : Kept σ τ) (c : CoreId) (o : Op) (f : FusedWork) (l : Desc) : Kept σ (State.startLayer τ c o f l) := by
  unfold State.startLayer
  with_reducible repeat' (first | assumption | exact Kept.refl _ | apply State.fusedLayerDone_kept | apply State.withBands_kept | apply State.freezeEngine_kept | apply State.noteUncorrectable_kept | apply State.fusedFail_kept | apply State.vectorDrain_kept | apply State.publishBands_kept | apply State.modCnv_kept | apply State.modOp_kept | apply State.readsDone_kept | refine Kept.of_snd (by assumption) ?_ | refine Kept.of_snd2 (by assumption) ?_ | refine Kept.of_fst (by assumption) ?_ | refine Kept.of_some (by assumption) ?_ | intro _ | apply Kept.ite | apply Kept.ite_snd | apply Kept.ite_fst | split | dsimp only)

/-! ### Array.lean -/

theorem State.passReady_kept {σ τ : State} (hk : Kept σ τ) (c : CoreId) (o : Op) (a : ArrayWork) (r : PassRef) (go : State → State) (hgo : ∀ (v0 : State), Kept σ v0 → Kept σ (go v0)) : Kept σ (State.passReady τ c o a r go) := by
  unfold State.passReady
  with_reducible repeat' (first | assumption | exact Kept.refl _ | apply State.withBands_kept | apply hgo | refine Kept.of_snd (by assumption) ?_ | refine Kept.of_snd2 (by assumption) ?_ | refine Kept.of_fst (by assumption) ?_ | refine Kept.of_some (by assumption) ?_ | intro _ | split | dsimp only)

theorem State.stage_kept {σ τ : State} (hk : Kept σ τ) (c : CoreId) (o : Op) (a : ArrayWork) (r : PassRef) (rest : List PassRef) : Kept σ (State.stage τ c o a r rest) := by
  unfold State.stage
  with_reducible repeat' (first | assumption | exact Kept.refl _ | apply State.setArr_kept | apply State.modArr_kept | apply State.fillWeights_kept | intro _ | dsimp only)

theorem State.prepare_kept {σ τ : State} (hk : Kept σ τ) (c : CoreId) : Kept σ (State.prepare τ c) := by
  unfold State.prepare
  with_reducible repeat' (first | assumption | exact Kept.refl _ | apply State.startLayer_kept | apply State.passReady_kept | apply State.stage_kept | refine Kept.of_snd (by assumption) ?_ | refine Kept.of_snd2 (by assumption) ?_ | refine Kept.of_fst (by assumption) ?_ | refine Kept.of_some (by assumption) ?_ | intro _ | apply Kept.ite | apply Kept.ite_snd | apply Kept.ite_fst | split | dsimp only)

theorem State.countBubbles_kept {σ τ : State} (hk : Kept σ τ) (c : CoreId) (wload : Bool) : Kept σ (State.countBubbles τ c wload) := by
  unfold State.countBubbles
  with_reducible repeat' (first | assumption | exact Kept.refl _ | apply State.modArr_kept | apply State.fresh_kept | refine Kept.of_snd (by assumption) ?_ | refine Kept.of_snd2 (by assumption) ?_ | refine Kept.of_fst (by assumption) ?_ | refine Kept.of_some (by assumption) ?_ | intro _ | apply Kept.ite | apply Kept.ite_snd | apply Kept.ite_fst | split | dsimp only | simp only [Kept.upd_iff])

theorem State.countHold_kept {σ τ : State} (hk : Kept σ τ) (c : CoreId) : Kept σ (State.countHold τ c) := by
  unfold State.countHold
  with_reducible repeat' (first | assumption | exact Kept.refl _ | apply State.fresh_kept | apply State.modArr_kept | refine Kept.of_snd (by assumption) ?_ | refine Kept.of_snd2 (by assumption) ?_ | refine Kept.of_fst (by assumption) ?_ | refine Kept.of_some (by assumption) ?_ | intro _ | apply Kept.ite | apply Kept.ite_snd | apply Kept.ite_fst | split | dsimp only | simp only [Kept.upd_iff])

theorem State.freeBank_kept {σ τ : State} (hk : Kept σ τ) (c : CoreId) (b : Fin 2) : Kept σ (State.freeBank τ c b) := by
  unfold State.freeBank
  with_reducible repeat' (first | assumption | exact Kept.refl _ | apply State.countHold_kept | apply State.modArr_kept | intro _ | dsimp only)

theorem State.countRoute_kept {σ τ : State} (hk : Kept σ τ) (c : CoreId) (d : Desc) : Kept σ (State.countRoute τ c d) := by
  unfold State.countRoute
  with_reducible repeat' (first | assumption | exact Kept.refl _ | apply State.modArr_kept | refine Kept.of_snd (by assumption) ?_ | refine Kept.of_snd2 (by assumption) ?_ | refine Kept.of_fst (by assumption) ?_ | refine Kept.of_some (by assumption) ?_ | intro _ | split | dsimp only)

theorem State.enterPass_kept {σ τ : State} (hk : Kept σ τ) (c : CoreId) (r : PassRef) (a : ArrayWork) (t : TileSpec) : Kept σ (State.enterPass τ c r a t) := by
  unfold State.enterPass
  with_reducible repeat' (first | assumption | exact Kept.refl _ | apply State.modArr_kept | apply State.fillWeights_kept | apply State.countBubbles_kept | apply State.countRoute_kept | apply State.modCnv_kept | refine Kept.of_snd (by assumption) ?_ | refine Kept.of_snd2 (by assumption) ?_ | refine Kept.of_fst (by assumption) ?_ | refine Kept.of_some (by assumption) ?_ | intro _ | split | dsimp only)

theorem State.enter_kept {σ τ : State} (hk : Kept σ τ) (c : CoreId) : Kept σ (State.enter τ c) := by
  unfold State.enter
  with_reducible repeat' (first | assumption | exact Kept.refl _ | apply State.modArr_kept | apply State.freeBank_kept | apply State.enterPass_kept | refine Kept.of_snd (by assumption) ?_ | refine Kept.of_snd2 (by assumption) ?_ | refine Kept.of_fst (by assumption) ?_ | refine Kept.of_some (by assumption) ?_ | intro _ | apply Kept.ite | apply Kept.ite_snd | apply Kept.ite_fst | split | dsimp only)

theorem State.arrayDone_kept {σ τ : State} (hk : Kept σ τ) (c : CoreId) (ticket : BitVec 32) : Kept σ (State.arrayDone τ c ticket) := by
  unfold State.arrayDone
  with_reducible repeat' (first | assumption | exact Kept.refl _ | apply State.dropCarry_kept | apply State.fusedFail_kept | apply State.fusedLayerDone_kept | apply State.finish_kept | refine Kept.of_snd (by assumption) ?_ | refine Kept.of_snd2 (by assumption) ?_ | refine Kept.of_fst (by assumption) ?_ | refine Kept.of_some (by assumption) ?_ | intro _ | apply Kept.ite | apply Kept.ite_snd | apply Kept.ite_fst | split | dsimp only)

theorem State.tileGone_kept {σ τ : State} (hk : Kept σ τ) (c : CoreId) (ticket : BitVec 32) : Kept σ (State.tileGone τ c ticket) := by
  unfold State.tileGone
  with_reducible repeat' (first | assumption | exact Kept.refl _ | apply State.setArr_kept | apply State.arrayDone_kept | refine Kept.of_snd (by assumption) ?_ | refine Kept.of_snd2 (by assumption) ?_ | refine Kept.of_fst (by assumption) ?_ | refine Kept.of_some (by assumption) ?_ | intro _ | split | dsimp only)

theorem State.countPass_kept {σ τ : State} (hk : Kept σ τ) (c : CoreId) (a : ArrayWork) (r : PassRef) : Kept σ (State.countPass τ c a r) := by
  unfold State.countPass
  with_reducible repeat' (first | assumption | exact Kept.refl _ | apply State.setArr_kept | apply State.modArr_kept | intro _ | apply Kept.ite | apply Kept.ite_snd | apply Kept.ite_fst | split | dsimp only)

theorem State.landDead_kept {σ τ : State} (hk : Kept σ τ) (c : CoreId) (b : Fin 2) (r : PassRef) : Kept σ (State.landDead τ c b r) := by
  unfold State.landDead
  with_reducible repeat' (first | assumption | exact Kept.refl _ | apply State.freeBank_kept | apply State.tileGone_kept | refine Kept.of_snd (by assumption) ?_ | refine Kept.of_snd2 (by assumption) ?_ | refine Kept.of_fst (by assumption) ?_ | refine Kept.of_some (by assumption) ?_ | intro _ | apply Kept.ite | apply Kept.ite_snd | apply Kept.ite_fst | split | dsimp only)

theorem State.loseTile_kept {σ τ : State} (hk : Kept σ τ) (c : CoreId) (b : Fin 2) (r : PassRef) (sector : Nat) : Kept σ (State.loseTile τ c b r sector) := by
  unfold State.loseTile
  with_reducible repeat' (first | assumption | exact Kept.refl _ | apply State.noteUncorrectable_kept | apply State.setArr_kept | apply State.modArr_kept | apply State.fillWeights_kept | apply State.landDead_kept | refine Kept.of_snd (by assumption) ?_ | refine Kept.of_snd2 (by assumption) ?_ | refine Kept.of_fst (by assumption) ?_ | refine Kept.of_some (by assumption) ?_ | intro _ | split | dsimp only)

theorem State.land_kept {σ τ : State} (hk : Kept σ τ) (c : CoreId) (bad : BadSectors) : Kept σ (State.land τ c bad) := by
  unfold State.land
  with_reducible repeat' (first | assumption | exact Kept.refl _ | apply State.modArr_kept | apply State.countPass_kept | apply State.landDead_kept | apply State.loseTile_kept | apply State.readsDone_kept | refine Kept.of_snd (by assumption) ?_ | refine Kept.of_snd2 (by assumption) ?_ | refine Kept.of_fst (by assumption) ?_ | refine Kept.of_some (by assumption) ?_ | intro _ | apply Kept.ite | apply Kept.ite_snd | apply Kept.ite_fst | split | dsimp only)

theorem State.rerunTile_kept {σ τ : State} (hk : Kept σ τ) (c : CoreId) (r : PassRef) : Kept σ (State.rerunTile τ c r) := by
  unfold State.rerunTile
  with_reducible repeat' (first | assumption | exact Kept.refl _ | apply State.modArr_kept | apply State.fillWeights_kept | intro _ | apply Kept.ite | apply Kept.ite_snd | apply Kept.ite_fst | split | dsimp only)

theorem State.parityError_kept {σ τ : State} (hk : Kept σ τ) (c : CoreId) (col : Fin 64) (row : Byte) (pass : Nat) : Kept σ (State.parityError τ c col row pass) := by
  unfold State.parityError
  with_reducible repeat' (first | assumption | exact Kept.refl _ | apply State.rerunTile_kept | apply State.modArr_kept | apply State.crosses_kept | refine Kept.of_snd (by assumption) ?_ | refine Kept.of_snd2 (by assumption) ?_ | refine Kept.of_fst (by assumption) ?_ | refine Kept.of_some (by assumption) ?_ | intro _ | apply Kept.ite | apply Kept.ite_snd | apply Kept.ite_fst | split | dsimp only)

theorem State.drainStart_kept {σ τ : State} (hk : Kept σ τ) (c : CoreId) (b : Fin 2) : Kept σ (State.drainStart τ c b) := by
  unfold State.drainStart
  with_reducible repeat' (first | assumption | exact Kept.refl _ | apply State.noteUncorrectable_kept | apply State.freeBank_kept | apply State.setArr_kept | apply State.tileGone_kept | apply State.drainTile_kept | apply State.modArr_kept | refine Kept.of_snd (by assumption) ?_ | refine Kept.of_snd2 (by assumption) ?_ | refine Kept.of_fst (by assumption) ?_ | refine Kept.of_some (by assumption) ?_ | intro _ | apply Kept.ite | apply Kept.ite_snd | apply Kept.ite_fst | split | dsimp only)

theorem State.publishDrained_kept {σ τ : State} (hk : Kept σ τ) (c : CoreId) (o : Op) (a : ArrayWork) : Kept σ (State.publishDrained τ c o a) := by
  unfold State.publishDrained
  with_reducible repeat' (first | assumption | exact Kept.refl _ | apply State.publishBands_kept | refine Kept.of_snd (by assumption) ?_ | refine Kept.of_snd2 (by assumption) ?_ | refine Kept.of_fst (by assumption) ?_ | refine Kept.of_some (by assumption) ?_ | intro _ | apply Kept.ite | apply Kept.ite_snd | apply Kept.ite_fst | split | dsimp only)

theorem State.drainEnd_kept {σ τ : State} (hk : Kept σ τ) (c : CoreId) (b : Fin 2) : Kept σ (State.drainEnd τ c b) := by
  unfold State.drainEnd
  with_reducible repeat' (first | assumption | exact Kept.refl _ | apply State.freeBank_kept | apply State.countTrips_kept | apply State.publishDrained_kept | apply State.setArr_kept | apply State.readsDone_kept | apply State.tileGone_kept | refine Kept.of_snd (by assumption) ?_ | refine Kept.of_snd2 (by assumption) ?_ | refine Kept.of_fst (by assumption) ?_ | refine Kept.of_some (by assumption) ?_ | intro _ | apply Kept.ite | apply Kept.ite_snd | apply Kept.ite_fst | split | dsimp only)

end Sys2Proof.Machine
end

