-- ==== Sys2Proof/Laws/KeptOps.lean ====
section
/-! SUPPORT. What the operations of the units and of the tiers on State keep: the form of the memory, the queue and the fuses. -/

namespace Sys2Proof.Machine

/-! ### Shard.lean -/

theorem State.setRefs_kept {σ τ : State} (hk : Kept σ τ) (a t v : Nat) : Kept σ (State.setRefs τ a t v) := by
  unfold State.setRefs
  with_reducible repeat' (first | assumption | exact Kept.refl _ | apply State.storeN_kept | intro _ | dsimp only)

theorem State.setReads_kept {σ τ : State} (hk : Kept σ τ) (a t v : Nat) : Kept σ (State.setReads τ a t v) := by
  unfold State.setReads
  with_reducible repeat' (first | assumption | exact Kept.refl _ | apply State.storeN_kept | intro _ | dsimp only)

theorem State.shardTake_kept {σ τ : State} (hk : Kept σ τ) (a mode gen len : Nat) : Kept σ (State.shardTake τ a mode gen len).2 := by
  unfold State.shardTake
  with_reducible repeat' (first | assumption | exact Kept.refl _ | apply State.setReads_kept | apply State.setRefs_kept | refine Kept.of_snd (by assumption) ?_ | refine Kept.of_snd2 (by assumption) ?_ | refine Kept.of_fst (by assumption) ?_ | refine Kept.of_some (by assumption) ?_ | intro _ | apply Kept.ite | apply Kept.ite_snd | apply Kept.ite_fst | split | dsimp only)

theorem State.shardGive_kept {σ τ : State} (hk : Kept σ τ) (a t drop : Nat) : Kept σ (State.shardGive τ a t drop).2 := by
  unfold State.shardGive
  with_reducible repeat' (first | assumption | exact Kept.refl _ | apply State.setReads_kept | apply State.setRefs_kept | intro _ | apply Kept.ite | apply Kept.ite_snd | apply Kept.ite_fst | split | dsimp only)

theorem State.shardPub_kept {σ τ : State} (hk : Kept σ τ) (a who drop len : Nat) : Kept σ (State.shardPub τ a who drop len).2 := by
  unfold State.shardPub
  with_reducible repeat' (first | assumption | exact Kept.refl _ | apply State.modFab_kept | apply State.storeN_kept | intro _ | apply Kept.ite | apply Kept.ite_snd | apply Kept.ite_fst | split | dsimp only)

theorem State.shardDrop_kept {σ τ : State} (hk : Kept σ τ) (a who : Nat) : Kept σ (State.shardDrop τ a who) := by
  unfold State.shardDrop
  with_reducible repeat' (first | assumption | exact Kept.refl _ | apply State.modFab_kept | intro _ | dsimp only)

theorem State.shardNew_kept {σ τ : State} (hk : Kept σ τ) (a who : Nat) : Kept σ (State.shardNew τ a who).2 := by
  unfold State.shardNew
  with_reducible repeat' (first | assumption | exact Kept.refl _ | apply State.storeN_kept | apply State.setRefs_kept | apply State.shardDrop_kept | intro _ | apply Kept.ite | apply Kept.ite_snd | apply Kept.ite_fst | split | dsimp only)

theorem State.shardStep_kept {σ τ : State} (hk : Kept σ τ) (a : Nat) (fn : Byte) (xs : List Nat) : Kept σ (State.shardStep τ a fn xs).2 := by
  unfold State.shardStep
  with_reducible repeat' (first | assumption | exact Kept.refl _ | apply State.shardTake_kept | apply State.shardGive_kept | apply State.shardPub_kept | apply State.shardNew_kept | apply State.shardDrop_kept | intro _ | apply Kept.ite | apply Kept.ite_snd | apply Kept.ite_fst | split | dsimp only)

theorem State.entGive_kept {σ τ : State} (hk : Kept σ τ) (c : CoreId) (o : Op) (a : ShardArgs) (e : ShardEnt) (fail : Option Status) : Kept σ (State.entGive τ c o a e fail).2 := by
  unfold State.entGive
  with_reducible repeat' (first | assumption | exact Kept.refl _ | apply State.shardGive_kept | apply State.runXfers_kept | refine Kept.of_snd (by assumption) ?_ | refine Kept.of_snd2 (by assumption) ?_ | refine Kept.of_fst (by assumption) ?_ | refine Kept.of_some (by assumption) ?_ | intro _ | apply Kept.ite | apply Kept.ite_snd | apply Kept.ite_fst | split | dsimp only)

theorem State.entCopy_kept {σ τ : State} (hk : Kept σ τ) (c : CoreId) (o : Op) (a : ShardArgs) (e : ShardEnt) (xs : List Xfer) (bad : BadSectors) : Kept σ (State.entCopy τ c o a e xs bad).2 := by
  unfold State.entCopy
  with_reducible repeat' (first | assumption | exact Kept.refl _ | apply State.runXfers_kept | apply State.entGive_kept | apply State.noteUncorrectable_kept | refine Kept.of_snd (by assumption) ?_ | refine Kept.of_snd2 (by assumption) ?_ | refine Kept.of_fst (by assumption) ?_ | refine Kept.of_some (by assumption) ?_ | intro _ | split | dsimp only)

theorem State.entTook_kept {σ τ : State} (hk : Kept σ τ) (c : CoreId) (o : Op) (a : ShardArgs) (e : ShardEnt) (ans : List Nat) (bad : BadSectors) : Kept σ (State.entTook τ c o a e ans bad).2 := by
  unfold State.entTook
  with_reducible repeat' (first | assumption | exact Kept.refl _ | apply State.entGive_kept | apply State.freezeEngine_kept | apply State.entCopy_kept | refine Kept.of_snd (by assumption) ?_ | refine Kept.of_snd2 (by assumption) ?_ | refine Kept.of_fst (by assumption) ?_ | refine Kept.of_some (by assumption) ?_ | intro _ | apply Kept.ite | apply Kept.ite_snd | apply Kept.ite_fst | split | dsimp only)

theorem State.entStart_kept {σ τ : State} (hk : Kept σ τ) (c : CoreId) (o : Op) (a : ShardArgs) (bad : BadSectors) : Kept σ (State.entStart τ c o a bad).2 := by
  unfold State.entStart
  with_reducible repeat' (first | assumption | exact Kept.refl _ | apply State.freezeEngine_kept | apply State.noteUncorrectable_kept | apply State.shardTake_kept | apply State.entTook_kept | apply State.runXfers_kept | refine Kept.of_snd (by assumption) ?_ | refine Kept.of_snd2 (by assumption) ?_ | refine Kept.of_fst (by assumption) ?_ | refine Kept.of_some (by assumption) ?_ | intro _ | apply Kept.ite | apply Kept.ite_snd | apply Kept.ite_fst | split | dsimp only)

theorem State.entKeep_kept {σ τ : State} (c : CoreId) (o : Op) (i : Nat) (a : ShardArgs) (x : EntStep) (hk : Kept σ x.2) :
    Kept σ (State.entKeep τ c o i a x) := by
  unfold State.entKeep
  with_reducible repeat' (first | assumption | apply State.modOp_kept | apply State.storeN_kept | refine Kept.of_snd (by assumption) ?_ | apply Kept.ite | split | dsimp only)

theorem State.shardFinish_kept {σ τ : State} (hk : Kept σ τ) (c : CoreId) (ticket : BitVec 32) : Kept σ (State.shardFinish τ c ticket) := by
  unfold State.shardFinish
  with_reducible repeat' (first | assumption | exact Kept.refl _ | apply State.finish_kept | refine Kept.of_snd (by assumption) ?_ | refine Kept.of_snd2 (by assumption) ?_ | refine Kept.of_fst (by assumption) ?_ | refine Kept.of_some (by assumption) ?_ | intro _ | apply Kept.ite | apply Kept.ite_snd | apply Kept.ite_fst | split | dsimp only)

theorem State.shardStart_kept {σ τ : State} (hk : Kept σ τ) (c : CoreId) (o : Op) (bad : BadSectors) : Kept σ (State.shardStart τ c o bad) := by
  unfold State.shardStart
  with_reducible repeat' (first | assumption | exact Kept.refl _ | apply State.modOp_kept | apply State.entKeep_kept | apply State.entStart_kept | apply State.shardFinish_kept | apply Kept.each | intro _ | apply Kept.ite | apply Kept.ite_snd | apply Kept.ite_fst | split | dsimp only)

theorem State.entResponse_kept {σ τ : State} (hk : Kept σ τ) (c : CoreId) (o : Op) (tag : BitVec 16) (f : State → Op → ShardArgs → ShardEnt → EntStep) (hf : ∀ (v0 : State) (v1 : Op) (v2 : ShardArgs) (v3 : ShardEnt), Kept σ v0 → Kept σ (f v0 v1 v2 v3).2) : Kept σ (State.entResponse τ c o tag f) := by
  unfold State.entResponse
  with_reducible repeat' (first | assumption | exact Kept.refl _ | apply State.modOp_kept | apply State.entKeep_kept | apply State.shardFinish_kept | apply hf | refine Kept.of_snd (by assumption) ?_ | refine Kept.of_snd2 (by assumption) ?_ | refine Kept.of_fst (by assumption) ?_ | refine Kept.of_some (by assumption) ?_ | intro _ | split | dsimp only)

theorem State.entData_kept {σ τ : State} (hk : Kept σ τ) (c : CoreId) (o : Op) (b : List Byte) (a : ShardArgs) (e : ShardEnt) : Kept σ (State.entData τ c o b a e).2 := by
  unfold State.entData
  with_reducible repeat' (first | assumption | exact Kept.refl _ | apply State.setXfers_kept | apply State.entTook_kept | apply State.store_kept | apply State.entCopy_kept | apply State.opRequest_kept | refine Kept.of_snd (by assumption) ?_ | refine Kept.of_snd2 (by assumption) ?_ | refine Kept.of_fst (by assumption) ?_ | refine Kept.of_some (by assumption) ?_ | intro _ | apply Kept.ite | apply Kept.ite_snd | apply Kept.ite_fst | split | dsimp only)

theorem State.entAcked_kept {σ τ : State} (hk : Kept σ τ) (c : CoreId) (o : Op) (a : ShardArgs) (e : ShardEnt) : Kept σ (State.entAcked τ c o a e).2 := by
  unfold State.entAcked
  with_reducible repeat' (first | assumption | exact Kept.refl _ | apply State.entCopy_kept | refine Kept.of_snd (by assumption) ?_ | refine Kept.of_snd2 (by assumption) ?_ | refine Kept.of_fst (by assumption) ?_ | refine Kept.of_some (by assumption) ?_ | intro _ | apply Kept.ite | apply Kept.ite_snd | apply Kept.ite_fst | split | dsimp only)

theorem State.entFailed_kept {σ τ : State} (hk : Kept σ τ) (c : CoreId) (o : Op) (st : Status) (a : ShardArgs) (e : ShardEnt) : Kept σ (State.entFailed τ c o st a e).2 := by
  unfold State.entFailed
  with_reducible repeat' (first | assumption | exact Kept.refl _ | apply State.setXfers_kept | apply State.entGive_kept | refine Kept.of_snd (by assumption) ?_ | refine Kept.of_snd2 (by assumption) ?_ | refine Kept.of_fst (by assumption) ?_ | refine Kept.of_some (by assumption) ?_ | intro _ | apply Kept.ite | apply Kept.ite_snd | apply Kept.ite_fst | split | dsimp only)

theorem State.shardStop_kept {σ τ : State} (hk : Kept σ τ) (c : CoreId) (o : Op) (w : List ShardEnt) (st : Status) : Kept σ (State.shardStop τ c o w st) := by
  unfold State.shardStop
  with_reducible repeat' (first | assumption | exact Kept.refl _ | apply State.shardGive_kept | apply State.request_kept | apply State.finish_kept | apply Kept.each | refine Kept.of_snd (by assumption) ?_ | refine Kept.of_snd2 (by assumption) ?_ | refine Kept.of_fst (by assumption) ?_ | refine Kept.of_some (by assumption) ?_ | intro _ | apply Kept.ite | apply Kept.ite_snd | apply Kept.ite_fst | split | dsimp only)

theorem State.setPub_kept {σ τ : State} (hk : Kept σ τ) (c : CoreId) (ticket : BitVec 32) (w : PubWork) : Kept σ (State.setPub τ c ticket w) := by
  unfold State.setPub
  with_reducible repeat' (first | assumption | exact Kept.refl _ | apply State.modOp_kept | intro _ | dsimp only)

theorem State.pubFail_kept {σ τ : State} (hk : Kept σ τ) (c : CoreId) (o : Op) (st : Status) : Kept σ (State.pubFail τ c o st) := by
  unfold State.pubFail
  with_reducible repeat' (first | assumption | exact Kept.refl _ | apply State.shardDrop_kept | apply State.request_kept | apply State.finish_kept | refine Kept.of_snd (by assumption) ?_ | refine Kept.of_snd2 (by assumption) ?_ | refine Kept.of_fst (by assumption) ?_ | refine Kept.of_some (by assumption) ?_ | intro _ | apply Kept.ite | apply Kept.ite_snd | apply Kept.ite_fst | split | dsimp only)

theorem State.pubAfter_kept {σ τ : State} (hk : Kept σ τ) (c : CoreId) (o : Op) (w : PubWork) (ans : List Nat) : Kept σ (State.pubAfter τ c o w ans).2 := by
  unfold State.pubAfter
  with_reducible repeat' (first | assumption | exact Kept.refl _ | apply State.finish_kept | intro _ | apply Kept.ite | apply Kept.ite_snd | apply Kept.ite_fst | split | dsimp only)

theorem State.pubGo_kept {σ τ : State} (hk : Kept σ τ) (c : CoreId) (o : Op) (bad : BadSectors) (x0 : Nat) (x1 : PubWork) : Kept σ (State.pubGo τ c o bad x0 x1) := by
  induction x0 generalizing τ c o bad x1 with
  | zero =>
    unfold State.pubGo
    with_reducible repeat' (first | assumption | exact Kept.refl _ | apply State.setPub_kept | apply State.freezeEngine_kept | apply State.runXfers_kept | apply State.noteUncorrectable_kept | apply State.pubFail_kept | apply State.shardStep_kept | apply State.pubAfter_kept | refine Kept.of_snd (by assumption) ?_ | refine Kept.of_snd2 (by assumption) ?_ | refine Kept.of_fst (by assumption) ?_ | refine Kept.of_some (by assumption) ?_ | intro _ | apply Kept.ite | apply Kept.ite_snd | apply Kept.ite_fst | split | dsimp only)
  | succ n ih =>
    unfold State.pubGo
    with_reducible repeat' (first | assumption | exact Kept.refl _ | apply ih | apply State.setPub_kept | apply State.freezeEngine_kept | apply State.runXfers_kept | apply State.noteUncorrectable_kept | apply State.pubFail_kept | apply State.shardStep_kept | apply State.pubAfter_kept | refine Kept.of_snd (by assumption) ?_ | refine Kept.of_snd2 (by assumption) ?_ | refine Kept.of_fst (by assumption) ?_ | refine Kept.of_some (by assumption) ?_ | intro _ | apply Kept.ite | apply Kept.ite_snd | apply Kept.ite_fst | split | dsimp only)

theorem State.pubAnswer_kept {σ τ : State} (hk : Kept σ τ) (c : CoreId) (o : Op) (w : PubWork) (b : List Byte) : Kept σ (State.pubAnswer τ c o w b) := by
  unfold State.pubAnswer
  with_reducible repeat' (first | assumption | exact Kept.refl _ | apply State.setXfers_kept | apply State.pubAfter_kept | apply State.setPub_kept | apply State.pubGo_kept | refine Kept.of_snd (by assumption) ?_ | refine Kept.of_snd2 (by assumption) ?_ | refine Kept.of_fst (by assumption) ?_ | refine Kept.of_some (by assumption) ?_ | intro _ | split | dsimp only)

/-! ### Collective.lean -/

theorem State.collEnd_kept {σ τ : State} (hk : Kept σ τ) (c : CoreId) (o : Op) (w : CollWork) (st : Status) : Kept σ (State.collEnd τ c o w st) := by
  unfold State.collEnd
  with_reducible repeat' (first | assumption | exact Kept.refl _ | apply State.cycles_kept | apply State.modOp_kept | apply State.finish_kept | refine Kept.of_snd (by assumption) ?_ | refine Kept.of_snd2 (by assumption) ?_ | refine Kept.of_fst (by assumption) ?_ | refine Kept.of_some (by assumption) ?_ | intro _ | split | dsimp only)

theorem State.setColl_kept {σ τ : State} (hk : Kept σ τ) (c : CoreId) (o : Op) (w : CollWork) : Kept σ (State.setColl τ c o w) := by
  unfold State.setColl
  with_reducible repeat' (first | assumption | exact Kept.refl _ | apply State.modOp_kept | intro _ | apply Kept.ite | apply Kept.ite_snd | apply Kept.ite_fst | split | dsimp only)

theorem State.collGo_kept {σ τ : State} (hk : Kept σ τ) (c : CoreId) (o : Op) (bad : BadSectors) (x0 : Nat) (x1 : CollWork) : Kept σ (State.collGo τ c o bad x0 x1) := by
  induction x0 generalizing τ c o bad x1 with
  | zero =>
    unfold State.collGo
    with_reducible repeat' (first | assumption | exact Kept.refl _ | apply State.setColl_kept | apply State.noteUncorrectable_kept | apply State.collEnd_kept | apply State.runXfers_kept | refine Kept.of_snd (by assumption) ?_ | refine Kept.of_snd2 (by assumption) ?_ | refine Kept.of_fst (by assumption) ?_ | refine Kept.of_some (by assumption) ?_ | intro _ | apply Kept.ite | apply Kept.ite_snd | apply Kept.ite_fst | split | dsimp only)
  | succ n ih =>
    unfold State.collGo
    with_reducible repeat' (first | assumption | exact Kept.refl _ | apply ih | apply State.setColl_kept | apply State.noteUncorrectable_kept | apply State.collEnd_kept | apply State.runXfers_kept | refine Kept.of_snd (by assumption) ?_ | refine Kept.of_snd2 (by assumption) ?_ | refine Kept.of_fst (by assumption) ?_ | refine Kept.of_some (by assumption) ?_ | intro _ | apply Kept.ite | apply Kept.ite_snd | apply Kept.ite_fst | split | dsimp only)

theorem State.startColl_kept {σ τ : State} (hk : Kept σ τ) (c : CoreId) (opc : Nat) (bad : BadSectors) : Kept σ (State.startColl τ c opc bad) := by
  unfold State.startColl
  with_reducible repeat' (first | assumption | exact Kept.refl _ | apply State.startOp_kept | apply State.badDesc_kept | apply State.unless_kept | apply State.storeN_kept | apply State.setColl_kept | apply State.collGo_kept | apply State.runXfers_kept | apply State.noteUncorrectable_kept | apply State.collEnd_kept | refine Kept.of_snd (by assumption) ?_ | refine Kept.of_snd2 (by assumption) ?_ | refine Kept.of_fst (by assumption) ?_ | refine Kept.of_some (by assumption) ?_ | intro _ | apply Kept.ite | apply Kept.ite_snd | apply Kept.ite_fst | split | dsimp only)

theorem State.collStepDone_kept {σ τ : State} (hk : Kept σ τ) (c : CoreId) (o : Op) (w : CollWork) : Kept σ (State.collStepDone τ c o w) := by
  unfold State.collStepDone
  with_reducible repeat' (first | assumption | exact Kept.refl _ | apply State.collGo_kept | intro _ | dsimp only)

theorem State.collSees_kept {σ τ : State} (hk : Kept σ τ) (c : CoreId) (o : Op) (w : CollWork) (b : List Byte) : Kept σ (State.collSees τ c o w b) := by
  unfold State.collSees
  with_reducible repeat' (first | assumption | exact Kept.refl _ | apply State.setXfers_kept | apply State.collGo_kept | apply State.setColl_kept | intro _ | apply Kept.ite | apply Kept.ite_snd | apply Kept.ite_fst | split | dsimp only)

theorem State.passFail_kept {σ τ : State} (hk : Kept σ τ) (c : CoreId) (o : Op) (st : Status) : Kept σ (State.passFail τ c o st) := by
  unfold State.passFail
  with_reducible repeat' (first | assumption | exact Kept.refl _ | apply State.modOp_kept | apply State.storeN_kept | apply State.opRequest_kept | apply Kept.each | intro _ | apply Kept.ite | apply Kept.ite_snd | apply Kept.ite_fst | split | dsimp only)

theorem State.a2aDone_kept {σ τ : State} (hk : Kept σ τ) (c : CoreId) (ticket : BitVec 32) : Kept σ (State.a2aDone τ c ticket) := by
  unfold State.a2aDone
  with_reducible repeat' (first | assumption | exact Kept.refl _ | apply State.finish_kept | refine Kept.of_snd (by assumption) ?_ | refine Kept.of_snd2 (by assumption) ?_ | refine Kept.of_fst (by assumption) ?_ | refine Kept.of_some (by assumption) ?_ | intro _ | split | dsimp only)

theorem State.a2aFail_kept {σ τ : State} (hk : Kept σ τ) (c : CoreId) (ticket : BitVec 32) (st : Status) : Kept σ (State.a2aFail τ c ticket st) := by
  unfold State.a2aFail
  with_reducible repeat' (first | assumption | exact Kept.refl _ | apply State.finish_kept | refine Kept.of_snd (by assumption) ?_ | refine Kept.of_snd2 (by assumption) ?_ | refine Kept.of_fst (by assumption) ?_ | refine Kept.of_some (by assumption) ?_ | intro _ | split | dsimp only)

theorem State.runA2a_kept {σ τ : State} (hk : Kept σ τ) (c : CoreId) (o : Op) (bad : BadSectors) (counts : List Nat) (xs : List Xfer) : Kept σ (State.runA2a τ c o bad counts xs) := by
  unfold State.runA2a
  with_reducible repeat' (first | assumption | exact Kept.refl _ | apply State.unless_kept | apply State.modOp_kept | apply State.runXfers_kept | apply State.a2aDone_kept | apply State.noteUncorrectable_kept | apply State.a2aFail_kept | refine Kept.of_snd (by assumption) ?_ | refine Kept.of_snd2 (by assumption) ?_ | refine Kept.of_fst (by assumption) ?_ | refine Kept.of_some (by assumption) ?_ | intro _ | split | dsimp only)

theorem State.startA2a_kept {σ τ : State} (hk : Kept σ τ) (c : CoreId) (bad : BadSectors) (ret : Bool) (run : State → Op → A2a → State) (hrun : ∀ (v0 : State) (v1 : Op) (v2 : A2a), Kept σ v0 → Kept σ (run v0 v1 v2)) : Kept σ (State.startA2a τ c bad ret run) := by
  unfold State.startA2a
  with_reducible repeat' (first | assumption | exact Kept.refl _ | apply State.startOp_kept | apply State.badDesc_kept | apply State.finish_kept | apply State.unless_kept | apply hrun | refine Kept.of_snd (by assumption) ?_ | refine Kept.of_snd2 (by assumption) ?_ | refine Kept.of_fst (by assumption) ?_ | refine Kept.of_some (by assumption) ?_ | intro _ | apply Kept.ite | apply Kept.ite_snd | apply Kept.ite_fst | split | dsimp only)

/-! ### Stream.lean -/

theorem State.setStrState_kept {σ τ : State} (hk : Kept σ τ) (c : CoreId) (id st : Nat) : Kept σ (State.setStrState τ c id st) := by
  unfold State.setStrState
  with_reducible repeat' (first | assumption | exact Kept.refl _ | apply State.storeN_kept | intro _ | dsimp only)

theorem State.setStrFlags_kept {σ τ : State} (hk : Kept σ τ) (c : CoreId) (id fl : Nat) : Kept σ (State.setStrFlags τ c id fl) := by
  unfold State.setStrFlags
  with_reducible repeat' (first | assumption | exact Kept.refl _ | apply State.storeN_kept | intro _ | dsimp only)

theorem State.damage_kept {σ τ : State} (hk : Kept σ τ) (c m : CoreId) (id : Nat) : Kept σ (State.damage τ c m id) := by
  unfold State.damage
  with_reducible repeat' (first | assumption | exact Kept.refl _ | apply State.setStrFlags_kept | apply State.modSts_kept | intro _ | apply Kept.ite | apply Kept.ite_snd | apply Kept.ite_fst | split | dsimp only)

theorem State.putElem_kept {σ τ : State} (hk : Kept σ τ) (fp32 : Bool) (a e : Nat) (v : BitVec 32 × BitVec 16) : Kept σ (State.putElem τ fp32 a e v) := by
  unfold State.putElem
  with_reducible repeat' (first | assumption | exact Kept.refl _ | apply State.storeN_kept | refine Kept.of_snd (by assumption) ?_ | refine Kept.of_snd2 (by assumption) ?_ | refine Kept.of_fst (by assumption) ?_ | refine Kept.of_some (by assumption) ?_ | intro _ | apply Kept.ite | apply Kept.ite_snd | apply Kept.ite_fst | split | dsimp only)

theorem State.putOut_kept {σ τ : State} (hk : Kept σ τ) (d : Desc) (a : Nat) (ys : List (BitVec 32)) : Kept σ (State.putOut τ d a ys).2 := by
  unfold State.putOut
  with_reducible repeat' (first | assumption | exact Kept.refl _ | apply State.store_kept | apply State.rounds_kept | refine Kept.of_snd (by assumption) ?_ | refine Kept.of_snd2 (by assumption) ?_ | refine Kept.of_fst (by assumption) ?_ | refine Kept.of_some (by assumption) ?_ | intro _ | apply Kept.ite | apply Kept.ite_snd | apply Kept.ite_fst | split | dsimp only)

theorem State.driftMonitor_kept {σ τ : State} (hk : Kept σ τ) (c : CoreId) (id j : Nat) (vals : List (BitVec 32)) : Kept σ (State.driftMonitor τ c id j vals).2 := by
  unfold State.driftMonitor
  with_reducible repeat' (first | assumption | exact Kept.refl _ | apply State.zero_kept | apply State.setStrFlags_kept | apply State.modSts_kept | apply State.storeN_kept | refine Kept.of_snd (by assumption) ?_ | refine Kept.of_snd2 (by assumption) ?_ | refine Kept.of_fst (by assumption) ?_ | refine Kept.of_some (by assumption) ?_ | intro _ | apply Kept.ite | apply Kept.ite_snd | apply Kept.ite_fst | split | dsimp only)

theorem State.runRow_kept {σ : State} {τ : ChunkSum} (hk : Kept σ τ.s) (c : CoreId) (bad : BadSectors) (d : Desc) (k : Chunk) (r id : Nat) : Kept σ (State.runRow τ c bad d k r id).s := by
  unfold State.runRow
  with_reducible repeat' (first | assumption | exact Kept.refl _ | apply State.noteUncorrectable_kept | apply State.damage_kept | apply State.putOut_kept | apply State.putElem_kept | apply State.storeN_kept | apply State.driftMonitor_kept | apply Kept.each | apply Kept.foldl_snd | apply Kept.foldl_fst | apply Kept.foldl_drained | apply Kept.foldl_vecOut | apply Kept.foldl_chunkSum | apply Kept.foldl_kvRun | apply Kept.foldl_vec | refine Kept.of_snd (by assumption) ?_ | refine Kept.of_snd2 (by assumption) ?_ | refine Kept.of_fst (by assumption) ?_ | refine Kept.of_some (by assumption) ?_ | intro _ | apply Kept.ite | apply Kept.ite_snd | apply Kept.ite_fst | split | dsimp only)

theorem State.countChunk_kept {σ τ : State} (hk : Kept σ τ) (c : CoreId) (k : Chunk) (ids : List Nat) : Kept σ (State.countChunk τ c k ids) := by
  unfold State.countChunk
  with_reducible repeat' (first | assumption | exact Kept.refl _ | apply State.cycles_kept | apply State.modSts_kept | refine Kept.of_snd (by assumption) ?_ | refine Kept.of_snd2 (by assumption) ?_ | refine Kept.of_fst (by assumption) ?_ | refine Kept.of_some (by assumption) ?_ | intro _ | split | dsimp only)

theorem State.scratch_kept {σ τ : State} (hk : Kept σ τ) (a n : Nat) : Kept σ (State.scratch τ a n) := by
  unfold State.scratch
  with_reducible repeat' (first | assumption | exact Kept.refl _ | apply State.fresh_kept | apply State.store_kept | refine Kept.of_snd (by assumption) ?_ | refine Kept.of_snd2 (by assumption) ?_ | refine Kept.of_fst (by assumption) ?_ | refine Kept.of_some (by assumption) ?_ | intro _ | split | dsimp only | simp only [Kept.upd_iff])

theorem State.useWorkspace_kept {σ τ : State} (hk : Kept σ τ) (c : CoreId) : Kept σ (State.useWorkspace τ c) := by
  unfold State.useWorkspace
  with_reducible repeat' (first | assumption | exact Kept.refl _ | apply State.scratch_kept | intro _ | dsimp only)

theorem State.runChunk_kept {σ τ : State} (hk : Kept σ τ) (c : CoreId) (o : Op) (bad : BadSectors) (ids : List Nat) : Kept σ (State.runChunk τ c o bad ids) := by
  unfold State.runChunk
  with_reducible repeat' (first | assumption | exact Kept.refl _ | apply State.finish_kept | apply State.unless_kept | apply State.runRow_kept | apply State.countChunk_kept | apply State.useWorkspace_kept | apply Kept.foldl_snd | apply Kept.foldl_fst | apply Kept.foldl_drained | apply Kept.foldl_vecOut | apply Kept.foldl_chunkSum | apply Kept.foldl_kvRun | apply Kept.foldl_vec | intro _ | apply Kept.ite | apply Kept.ite_snd | apply Kept.ite_fst | split | dsimp only)

theorem State.startChunk_kept {σ τ : State} (hk : Kept σ τ) (c : CoreId) (o : Op) (bad : BadSectors) : Kept σ (State.startChunk τ c o bad) := by
  unfold State.startChunk
  with_reducible repeat' (first | assumption | exact Kept.refl _ | apply State.badDesc_kept | apply State.finish_kept | apply State.unless_kept | apply State.modSts_kept | apply State.modOp_kept | apply State.runChunk_kept | refine Kept.of_snd (by assumption) ?_ | refine Kept.of_snd2 (by assumption) ?_ | refine Kept.of_fst (by assumption) ?_ | refine Kept.of_some (by assumption) ?_ | intro _ | apply Kept.ite | apply Kept.ite_snd | apply Kept.ite_fst | split | dsimp only)

theorem State.execChunk_kept {σ τ : State} (hk : Kept σ τ) (c : CoreId) (opc : Nat) (bad : BadSectors) : Kept σ (State.execChunk τ c opc bad) := by
  unfold State.execChunk
  with_reducible repeat' (first | assumption | exact Kept.refl _ | apply State.startVec_kept | apply State.startChunk_kept | intro _ | apply Kept.ite | apply Kept.ite_snd | apply Kept.ite_fst | split | dsimp only)

theorem State.addSlice_kept {σ τ : State} (hk : Kept σ τ) (m : CoreId) (id slot n : Nat) : Kept σ (State.addSlice τ m id slot n) := by
  unfold State.addSlice
  with_reducible repeat' (first | assumption | exact Kept.refl _ | apply State.modSts_kept | intro _ | dsimp only)

theorem State.dropSlice_kept {σ τ : State} (hk : Kept σ τ) (m : CoreId) (id : Nat) : Kept σ (State.dropSlice τ m id) := by
  unfold State.dropSlice
  with_reducible repeat' (first | assumption | exact Kept.refl _ | apply State.modSts_kept | intro _ | dsimp only)

theorem State.copySlice_kept {σ τ : State} (hk : Kept σ τ) (bad : BadSectors) (src dst : Bool) (a b n : Nat) : Kept σ (State.copySlice τ bad src dst a b n).2 := by
  unfold State.copySlice
  with_reducible repeat' (first | assumption | exact Kept.refl _ | apply State.putElem_kept | apply Kept.foldl_snd | apply Kept.foldl_fst | apply Kept.foldl_drained | apply Kept.foldl_vecOut | apply Kept.foldl_chunkSum | apply Kept.foldl_kvRun | apply Kept.foldl_vec | refine Kept.of_snd (by assumption) ?_ | refine Kept.of_snd2 (by assumption) ?_ | refine Kept.of_fst (by assumption) ?_ | refine Kept.of_some (by assumption) ?_ | intro _ | apply Kept.ite | apply Kept.ite_snd | apply Kept.ite_fst | split | dsimp only)

theorem State.copyPart_kept {σ τ : State} (hk : Kept σ τ) (c m : CoreId) (bad : BadSectors) (ids : List Nat) (src dst : Bool) (n a b : Nat) : Kept σ (State.copyPart τ c m bad ids src dst n a b).2 := by
  unfold State.copyPart
  with_reducible repeat' (first | assumption | exact Kept.refl _ | apply State.copySlice_kept | apply State.damage_kept | apply Kept.each | refine Kept.of_snd (by assumption) ?_ | refine Kept.of_snd2 (by assumption) ?_ | refine Kept.of_fst (by assumption) ?_ | refine Kept.of_some (by assumption) ?_ | intro _ | apply Kept.ite | apply Kept.ite_snd | apply Kept.ite_fst | split | dsimp only)

theorem State.copySlices_kept {σ τ : State} (hk : Kept σ τ) (c : CoreId) (bad : BadSectors) (ids : List Nat) (src dst : Bool) (n : Nat) (a b : CoreId → Nat → Nat) : Kept σ (State.copySlices τ c bad ids src dst n a b).2 := by
  unfold State.copySlices
  with_reducible repeat' (first | assumption | exact Kept.refl _ | apply State.copyPart_kept | apply Kept.foldl_snd | apply Kept.foldl_fst | apply Kept.foldl_drained | apply Kept.foldl_vecOut | apply Kept.foldl_chunkSum | apply Kept.foldl_kvRun | apply Kept.foldl_vec | refine Kept.of_snd (by assumption) ?_ | refine Kept.of_snd2 (by assumption) ?_ | refine Kept.of_fst (by assumption) ?_ | refine Kept.of_some (by assumption) ?_ | intro _ | split | dsimp only)

theorem State.entryPart_kept {σ τ : State} (hk : Kept σ τ) (c : CoreId) (d : Desc) (bad : BadSectors) (e : StrEntry) (m : CoreId) (j : Nat) : Kept σ (State.entryPart τ c d bad e m j).2 := by
  unfold State.entryPart
  with_reducible repeat' (first | assumption | exact Kept.refl _ | apply State.store_kept | apply State.addSlice_kept | apply State.dropSlice_kept | apply State.copyPart_kept | refine Kept.of_snd (by assumption) ?_ | refine Kept.of_snd2 (by assumption) ?_ | refine Kept.of_fst (by assumption) ?_ | refine Kept.of_some (by assumption) ?_ | intro _ | apply Kept.ite | apply Kept.ite_snd | apply Kept.ite_fst | split | dsimp only)

theorem State.entryRecord_kept {σ τ : State} (hk : Kept σ τ) (c : CoreId) (d : Desc) (e : StrEntry) (ok : Bool) : Kept σ (State.entryRecord τ c d e ok) := by
  unfold State.entryRecord
  with_reducible repeat' (first | assumption | exact Kept.refl _ | apply State.store_kept | apply State.setStrState_kept | apply State.storeN_kept | apply State.setStrFlags_kept | refine Kept.of_snd (by assumption) ?_ | refine Kept.of_snd2 (by assumption) ?_ | refine Kept.of_fst (by assumption) ?_ | refine Kept.of_some (by assumption) ?_ | intro _ | apply Kept.ite | apply Kept.ite_snd | apply Kept.ite_fst | split | dsimp only)

theorem State.entryParts_kept {σ τ : State} (hk : Kept σ τ) (c : CoreId) (d : Desc) (bad : BadSectors) (e : StrEntry) (now : CoreId → Bool) : Kept σ (State.entryParts τ c d bad e now).2 := by
  unfold State.entryParts
  with_reducible repeat' (first | assumption | exact Kept.refl _ | apply State.entryPart_kept | apply Kept.foldl_snd | apply Kept.foldl_fst | apply Kept.foldl_drained | apply Kept.foldl_vecOut | apply Kept.foldl_chunkSum | apply Kept.foldl_kvRun | apply Kept.foldl_vec | refine Kept.of_snd (by assumption) ?_ | refine Kept.of_snd2 (by assumption) ?_ | refine Kept.of_fst (by assumption) ?_ | refine Kept.of_some (by assumption) ?_ | intro _ | split | dsimp only)

theorem State.setCtl_kept {σ τ : State} (hk : Kept σ τ) (c : CoreId) (ticket : BitVec 32) (w : CtlWork) : Kept σ (State.setCtl τ c ticket w) := by
  unfold State.setCtl
  with_reducible repeat' (first | assumption | exact Kept.refl _ | apply State.modOp_kept | intro _ | dsimp only)

theorem State.ctlFinish_kept {σ τ : State} (hk : Kept σ τ) (c : CoreId) (o : Op) (w : CtlWork) : Kept σ (State.ctlFinish τ c o w) := by
  unfold State.ctlFinish
  with_reducible repeat' (first | assumption | exact Kept.refl _ | apply State.finish_kept | intro _ | apply Kept.ite | apply Kept.ite_snd | apply Kept.ite_fst | split | dsimp only)

theorem State.startMove_kept {σ τ ω : State} {c : CoreId} {d : Desc} {e : StrEntry} (ek : State.startMove τ c d e = some ω) (hk : Kept σ τ) : Kept σ ω := by
  unfold State.startMove at ek
  repeat' (first | split at ek | (injection ek with ek; subst ek) | cases ek | dsimp only at ek)
  all_goals with_reducible repeat' (first | assumption | exact Kept.refl _ | apply State.setStrState_kept | apply State.storeN_kept | apply State.addSlice_kept | apply Kept.each | intro _ | apply Kept.ite | apply Kept.ite_snd | apply Kept.ite_fst | split | dsimp only)

theorem State.ctlLoop_kept {σ τ : State} (hk : Kept σ τ) (c : CoreId) (o : Op) (bad : BadSectors) (w : CtlWork) (x0 : Nat) : Kept σ (State.ctlLoop τ c o bad w x0) := by
  induction x0 generalizing τ c o bad w with
  | zero =>
    unfold State.ctlLoop
    with_reducible repeat' (first | assumption | exact Kept.refl _ | apply State.ctlFinish_kept | refine State.startMove_kept (by assumption) ?_ | apply State.setCtl_kept | apply State.entryParts_kept | apply State.entryRecord_kept | refine Kept.of_snd (by assumption) ?_ | refine Kept.of_snd2 (by assumption) ?_ | refine Kept.of_fst (by assumption) ?_ | refine Kept.of_some (by assumption) ?_ | intro _ | apply Kept.ite | apply Kept.ite_snd | apply Kept.ite_fst | split | dsimp only)
  | succ n ih =>
    unfold State.ctlLoop
    with_reducible repeat' (first | assumption | exact Kept.refl _ | apply ih | apply State.ctlFinish_kept | refine State.startMove_kept (by assumption) ?_ | apply State.setCtl_kept | apply State.entryParts_kept | apply State.entryRecord_kept | refine Kept.of_snd (by assumption) ?_ | refine Kept.of_snd2 (by assumption) ?_ | refine Kept.of_fst (by assumption) ?_ | refine Kept.of_some (by assumption) ?_ | intro _ | apply Kept.ite | apply Kept.ite_snd | apply Kept.ite_fst | split | dsimp only)

theorem State.startCtl_kept {σ τ : State} (hk : Kept σ τ) (c : CoreId) (o : Op) (bad : BadSectors) : Kept σ (State.startCtl τ c o bad) := by
  unfold State.startCtl
  with_reducible repeat' (first | assumption | exact Kept.refl _ | apply State.badDesc_kept | apply State.finish_kept | apply State.unless_kept | apply State.ctlLoop_kept | refine Kept.of_snd (by assumption) ?_ | refine Kept.of_snd2 (by assumption) ?_ | refine Kept.of_fst (by assumption) ?_ | refine Kept.of_some (by assumption) ?_ | intro _ | apply Kept.ite | apply Kept.ite_snd | apply Kept.ite_fst | split | dsimp only)

theorem State.execCtl_kept {σ τ : State} (hk : Kept σ τ) (c : CoreId) (opc : Nat) (bad : BadSectors) : Kept σ (State.execCtl τ c opc bad) := by
  unfold State.execCtl
  with_reducible repeat' (first | assumption | exact Kept.refl _ | apply State.startOp_kept | apply State.startCtl_kept | refine Kept.of_snd (by assumption) ?_ | refine Kept.of_snd2 (by assumption) ?_ | refine Kept.of_fst (by assumption) ?_ | refine Kept.of_some (by assumption) ?_ | intro _ | apply Kept.ite | apply Kept.ite_snd | apply Kept.ite_fst | split | dsimp only)

theorem State.onCtl_kept {σ τ : State} (hk : Kept σ τ) (c : CoreId) (f : State → Op → CtlWork → State) (hf : ∀ (v0 : State) (v1 : Op) (v2 : CtlWork), Kept σ v0 → Kept σ (f v0 v1 v2)) : Kept σ (State.onCtl τ c f) := by
  unfold State.onCtl
  with_reducible repeat' (first | assumption | exact Kept.refl _ | apply State.resumeOp_kept | apply hf | refine Kept.of_snd (by assumption) ?_ | refine Kept.of_snd2 (by assumption) ?_ | refine Kept.of_fst (by assumption) ?_ | refine Kept.of_some (by assumption) ?_ | intro _ | apply Kept.ite | apply Kept.ite_snd | apply Kept.ite_fst | split | dsimp only)

theorem State.ctlNext_kept {σ τ : State} (hk : Kept σ τ) (c : CoreId) (o : Op) (bad : BadSectors) (w : CtlWork) (ok : Bool) : Kept σ (State.ctlNext τ c o bad w ok) := by
  unfold State.ctlNext
  with_reducible repeat' (first | assumption | exact Kept.refl _ | apply State.finish_kept | apply State.ctlLoop_kept | refine Kept.of_snd (by assumption) ?_ | refine Kept.of_snd2 (by assumption) ?_ | refine Kept.of_fst (by assumption) ?_ | refine Kept.of_some (by assumption) ?_ | intro _ | split | dsimp only)

theorem State.swapOutDone_kept {σ τ : State} (hk : Kept σ τ) (c : CoreId) (bad : BadSectors) (id : Nat) : Kept σ (State.swapOutDone τ c bad id).2 := by
  unfold State.swapOutDone
  with_reducible repeat' (first | assumption | exact Kept.refl _ | apply State.copySlices_kept | apply State.setStrState_kept | apply State.storeN_kept | apply State.dropSlice_kept | apply Kept.each | refine Kept.of_snd (by assumption) ?_ | refine Kept.of_snd2 (by assumption) ?_ | refine Kept.of_fst (by assumption) ?_ | refine Kept.of_some (by assumption) ?_ | intro _ | split | dsimp only)

theorem State.wakeChunks_kept {σ τ : State} (hk : Kept σ τ) (c : CoreId) (bad : BadSectors) : Kept σ (State.wakeChunks τ c bad) := by
  unfold State.wakeChunks
  with_reducible repeat' (first | assumption | exact Kept.refl _ | apply State.runChunk_kept | apply Kept.each | refine Kept.of_snd (by assumption) ?_ | refine Kept.of_snd2 (by assumption) ?_ | refine Kept.of_fst (by assumption) ?_ | refine Kept.of_some (by assumption) ?_ | intro _ | apply Kept.ite | apply Kept.ite_snd | apply Kept.ite_fst | split | dsimp only)

theorem State.swapInDone_kept {σ τ : State} (hk : Kept σ τ) (c : CoreId) (bad : BadSectors) (id : Nat) : Kept σ (State.swapInDone τ c bad id).2 := by
  unfold State.swapInDone
  with_reducible repeat' (first | assumption | exact Kept.refl _ | apply State.copySlices_kept | apply State.setStrState_kept | apply State.wakeChunks_kept | refine Kept.of_snd (by assumption) ?_ | refine Kept.of_snd2 (by assumption) ?_ | refine Kept.of_fst (by assumption) ?_ | refine Kept.of_some (by assumption) ?_ | intro _ | split | dsimp only)

/-! ### Kv.lean -/

theorem State.setSeq_kept {σ τ : State} (hk : Kept σ τ) (p : PartId) (id : Nat) (r : SeqRec) : Kept σ (State.setSeq τ p id r) := by
  unfold State.setSeq
  with_reducible repeat' (first | assumption | exact Kept.refl _ | apply State.store_kept | intro _ | dsimp only)

theorem State.modSeq_kept {σ τ : State} (hk : Kept σ τ) (p : PartId) (id : Nat) (f : SeqRec → SeqRec) : Kept σ (State.modSeq τ p id f) := by
  unfold State.modSeq
  with_reducible repeat' (first | assumption | exact Kept.refl _ | apply State.setSeq_kept | intro _ | dsimp only)

theorem State.setEntry_kept {σ τ : State} (hk : Kept σ τ) (p : PartId) (id e v : Nat) : Kept σ (State.setEntry τ p id e v) := by
  unfold State.setEntry
  with_reducible repeat' (first | assumption | exact Kept.refl _ | apply State.storeN_kept | intro _ | dsimp only)

theorem State.setPage_kept {σ τ : State} (hk : Kept σ τ) (p : PartId) (page : Nat) (m : PageMeta) : Kept σ (State.setPage τ p page m) := by
  unfold State.setPage
  with_reducible repeat' (first | assumption | exact Kept.refl _ | apply State.store_kept | intro _ | dsimp only)

theorem State.modPage_kept {σ τ : State} (hk : Kept σ τ) (p : PartId) (page : Nat) (f : PageMeta → PageMeta) : Kept σ (State.modPage τ p page f) := by
  unfold State.modPage
  with_reducible repeat' (first | assumption | exact Kept.refl _ | apply State.setPage_kept | intro _ | dsimp only)

theorem State.modKv_kept {σ τ : State} (hk : Kept σ τ) (p : PartId) (free reserved : BitVec 32 → BitVec 32) : Kept σ (State.modKv τ p free reserved) := by
  unfold State.modKv
  with_reducible repeat' (first | assumption | exact Kept.refl _ | apply State.modPart_kept | intro _ | dsimp only)

theorem State.freePage_kept {σ τ : State} (hk : Kept σ τ) (p : PartId) (page : Nat) : Kept σ (State.freePage τ p page) := by
  unfold State.freePage
  with_reducible repeat' (first | assumption | exact Kept.refl _ | apply State.setPage_kept | apply State.setSeq_kept | apply State.modKv_kept | intro _ | apply Kept.ite | apply Kept.ite_snd | apply Kept.ite_fst | split | dsimp only)

theorem State.pendPage_kept {σ τ : State} (hk : Kept σ τ) (p : PartId) (page : Nat) : Kept σ (State.pendPage τ p page) := by
  unfold State.pendPage
  with_reducible repeat' (first | assumption | exact Kept.refl _ | apply State.modPage_kept | apply State.freePage_kept | apply State.modKvc_kept | apply Kept.each | intro _ | apply Kept.ite | apply Kept.ite_snd | apply Kept.ite_fst | split | dsimp only)

theorem State.dropPage_kept {σ τ : State} (hk : Kept σ τ) (p : PartId) (page : Nat) : Kept σ (State.dropPage τ p page) := by
  unfold State.dropPage
  with_reducible repeat' (first | assumption | exact Kept.refl _ | apply State.modPage_kept | apply State.pendPage_kept | intro _ | apply Kept.ite | apply Kept.ite_snd | apply Kept.ite_fst | split | dsimp only)

theorem State.allocPage_kept {σ τ : State} (hk : Kept σ τ) (p : PartId) (id : Nat) : Kept σ (State.allocPage τ p id).2 := by
  unfold State.allocPage
  with_reducible repeat' (first | assumption | exact Kept.refl _ | apply State.setPage_kept | apply State.setSeq_kept | apply State.modKv_kept | refine Kept.of_snd (by assumption) ?_ | refine Kept.of_snd2 (by assumption) ?_ | refine Kept.of_fst (by assumption) ?_ | refine Kept.of_some (by assumption) ?_ | intro _ | apply Kept.ite | apply Kept.ite_snd | apply Kept.ite_fst | split | dsimp only)

theorem State.markPunnet_kept {σ τ : State} (hk : Kept σ τ) (c : CoreId) (bad : BadSectors) : Kept σ (State.markPunnet τ c bad) := by
  unfold State.markPunnet
  with_reducible repeat' (first | assumption | exact Kept.refl _ | apply State.modKvc_kept | refine Kept.of_snd (by assumption) ?_ | refine Kept.of_snd2 (by assumption) ?_ | refine Kept.of_fst (by assumption) ?_ | refine Kept.of_some (by assumption) ?_ | intro _ | apply Kept.ite | apply Kept.ite_snd | apply Kept.ite_fst | split | dsimp only)

theorem State.kvError_kept {σ τ : State} (hk : Kept σ τ) (c : CoreId) (id : Nat) : Kept σ (State.kvError τ c id) := by
  unfold State.kvError
  with_reducible repeat' (first | assumption | exact Kept.refl _ | apply State.modKvc_kept | intro _ | apply Kept.ite | apply Kept.ite_snd | apply Kept.ite_fst | split | dsimp only)

theorem State.flushRow_kept {σ τ : State} (hk : Kept σ τ) (p : PartId) (home : CoreId) (r : SeqRec) (x : PunnetRow) : Kept σ (State.flushRow τ p home r x) := by
  unfold State.flushRow
  with_reducible repeat' (first | assumption | exact Kept.refl _ | apply State.store_kept | apply State.modPage_kept | apply State.kvError_kept | apply Kept.each | refine Kept.of_snd (by assumption) ?_ | refine Kept.of_snd2 (by assumption) ?_ | refine Kept.of_fst (by assumption) ?_ | refine Kept.of_some (by assumption) ?_ | intro _ | apply Kept.ite | apply Kept.ite_snd | apply Kept.ite_fst | split | dsimp only)

theorem State.flushLine_kept {σ τ : State} (hk : Kept σ τ) (p : PartId) (id : Nat) (why : FlushFor) : Kept σ (State.flushLine τ p id why) := by
  unfold State.flushLine
  with_reducible repeat' (first | assumption | exact Kept.refl _ | apply State.flushRow_kept | apply State.modSeq_kept | apply State.modKvc_kept | apply Kept.each | refine Kept.of_snd (by assumption) ?_ | refine Kept.of_snd2 (by assumption) ?_ | refine Kept.of_fst (by assumption) ?_ | refine Kept.of_some (by assumption) ?_ | intro _ | split | dsimp only)

theorem State.makeRoom_kept {σ τ : State} (hk : Kept σ τ) (p : PartId) (c : CoreId) (n : Nat) (x0 : Nat) : Kept σ (State.makeRoom τ p c n x0).2 := by
  induction x0 generalizing τ p c n with
  | zero =>
    unfold State.makeRoom
    with_reducible repeat' (first | assumption | exact Kept.refl _ | apply State.flushLine_kept | refine Kept.of_snd (by assumption) ?_ | refine Kept.of_snd2 (by assumption) ?_ | refine Kept.of_fst (by assumption) ?_ | refine Kept.of_some (by assumption) ?_ | intro _ | apply Kept.ite | apply Kept.ite_snd | apply Kept.ite_fst | split | dsimp only)
  | succ n ih =>
    unfold State.makeRoom
    with_reducible repeat' (first | assumption | exact Kept.refl _ | apply ih | apply State.flushLine_kept | refine Kept.of_snd (by assumption) ?_ | refine Kept.of_snd2 (by assumption) ?_ | refine Kept.of_fst (by assumption) ?_ | refine Kept.of_some (by assumption) ?_ | intro _ | apply Kept.ite | apply Kept.ite_snd | apply Kept.ite_fst | split | dsimp only)

theorem State.releaseHold_kept {σ τ : State} (hk : Kept σ τ) (p : PartId) (c : CoreId) (ticket : BitVec 32) : Kept σ (State.releaseHold τ p c ticket) := by
  unfold State.releaseHold
  with_reducible repeat' (first | assumption | exact Kept.refl _ | apply State.modKvc_kept | apply State.freePage_kept | apply Kept.each | refine Kept.of_snd (by assumption) ?_ | refine Kept.of_snd2 (by assumption) ?_ | refine Kept.of_fst (by assumption) ?_ | refine Kept.of_some (by assumption) ?_ | intro _ | apply Kept.ite | apply Kept.ite_snd | apply Kept.ite_fst | split | dsimp only)

theorem State.quantVec_kept {σ τ : State} (hk : Kept σ τ) (ta pt L at0 first d : Nat) (stochastic : Bool) : Kept σ (State.quantVec τ ta pt L at0 first d stochastic).2 := by
  unfold State.quantVec
  with_reducible repeat' (first | assumption | exact Kept.refl _ | apply State.rounds_kept | refine Kept.of_snd (by assumption) ?_ | refine Kept.of_snd2 (by assumption) ?_ | refine Kept.of_fst (by assumption) ?_ | refine Kept.of_some (by assumption) ?_ | intro _ | apply Kept.ite | apply Kept.ite_snd | apply Kept.ite_fst | split | dsimp only)

theorem State.quantRow_kept {σ τ : State} (hk : Kept σ τ) (d : Desc) (a : App) (r : Nat) : Kept σ (State.quantRow τ d a r).2 := by
  unfold State.quantRow
  with_reducible repeat' (first | assumption | exact Kept.refl _ | apply State.quantVec_kept | apply Kept.foldl_snd | apply Kept.foldl_fst | apply Kept.foldl_drained | apply Kept.foldl_vecOut | apply Kept.foldl_chunkSum | apply Kept.foldl_kvRun | apply Kept.foldl_vec | refine Kept.of_snd (by assumption) ?_ | refine Kept.of_snd2 (by assumption) ?_ | refine Kept.of_fst (by assumption) ?_ | refine Kept.of_some (by assumption) ?_ | intro _ | apply Kept.ite | apply Kept.ite_snd | apply Kept.ite_fst | split | dsimp only)

theorem State.copyPage_kept {σ τ : State} (hk : Kept σ τ) (p : PartId) (r : SeqRec) (g n : Nat) : Kept σ (State.copyPage τ p r g n) := by
  unfold State.copyPage
  with_reducible repeat' (first | assumption | exact Kept.refl _ | apply State.store_kept | apply State.modPage_kept | apply Kept.each | refine Kept.of_snd (by assumption) ?_ | refine Kept.of_snd2 (by assumption) ?_ | refine Kept.of_fst (by assumption) ?_ | refine Kept.of_some (by assumption) ?_ | intro _ | split | dsimp only)

theorem State.appPage_kept {σ τ : State} (hk : Kept σ τ) (p : PartId) (id e : Nat) (w : AppendWork) : Kept σ (State.appPage τ p id e w).2.2 := by
  unfold State.appPage
  with_reducible repeat' (first | assumption | exact Kept.refl _ | apply State.allocPage_kept | apply State.setEntry_kept | apply State.modPart_kept | refine Kept.of_snd (by assumption) ?_ | refine Kept.of_snd2 (by assumption) ?_ | refine Kept.of_fst (by assumption) ?_ | refine Kept.of_some (by assumption) ?_ | intro _ | apply Kept.ite | apply Kept.ite_snd | apply Kept.ite_fst | split | dsimp only)

theorem State.appQuant_kept {σ τ : State} (hk : Kept σ τ) (c : CoreId) (d : Desc) (a : App) (w : AppendWork) : Kept σ (State.appQuant τ c d a w).2 := by
  unfold State.appQuant
  with_reducible repeat' (first | assumption | exact Kept.refl _ | apply State.quantRow_kept | apply State.countTrips_kept | refine Kept.of_snd (by assumption) ?_ | refine Kept.of_snd2 (by assumption) ?_ | refine Kept.of_fst (by assumption) ?_ | refine Kept.of_some (by assumption) ?_ | intro _ | split | dsimp only)

theorem State.appPrep_kept {σ τ : State} (hk : Kept σ τ) (p : PartId) (c : CoreId) (bad : BadSectors) (d : Desc) (a : App) (id : Nat) (w : AppendWork) : Kept σ (State.appPrep τ p c bad d a id w).2.2 := by
  unfold State.appPrep
  with_reducible repeat' (first | assumption | exact Kept.refl _ | apply State.setSeq_kept | apply State.dropPage_kept | apply State.setEntry_kept | apply State.appPage_kept | apply State.modPage_kept | apply State.kvError_kept | apply State.copyPage_kept | apply State.modKvc_kept | apply State.appQuant_kept | refine Kept.of_snd (by assumption) ?_ | refine Kept.of_snd2 (by assumption) ?_ | refine Kept.of_fst (by assumption) ?_ | refine Kept.of_some (by assumption) ?_ | intro _ | apply Kept.ite | apply Kept.ite_snd | apply Kept.ite_fst | split | dsimp only)

theorem State.appStore_kept {σ τ : State} (hk : Kept σ τ) (p : PartId) (c : CoreId) (id : Nat) (bs : List Byte) : Kept σ (State.appStore τ p c id bs) := by
  unfold State.appStore
  with_reducible repeat' (first | assumption | exact Kept.refl _ | apply State.modKvc_kept | apply State.modSeq_kept | apply State.flushLine_kept | intro _ | apply Kept.ite | apply Kept.ite_snd | apply Kept.ite_fst | split | dsimp only)

theorem State.appEnd_kept {σ τ : State} (hk : Kept σ τ) (p : PartId) (c : CoreId) (o : Op) (w : AppendWork) (st : Status) : Kept σ (State.appEnd τ p c o w st) := by
  unfold State.appEnd
  with_reducible repeat' (first | assumption | exact Kept.refl _ | apply State.modPart_kept | apply State.finish_kept | intro _ | apply Kept.ite | apply Kept.ite_snd | apply Kept.ite_fst | split | dsimp only)

theorem State.appPlace_kept {σ τ : State} (hk : Kept σ τ) (p : PartId) (c : CoreId) (d : Desc) (a : App) (id : Nat) (w : AppendWork) : Kept σ (State.appPlace τ p c d a id w).2.2 := by
  unfold State.appPlace
  with_reducible repeat' (first | assumption | exact Kept.refl _ | apply State.makeRoom_kept | apply State.appStore_kept | refine Kept.of_snd (by assumption) ?_ | refine Kept.of_snd2 (by assumption) ?_ | refine Kept.of_fst (by assumption) ?_ | refine Kept.of_some (by assumption) ?_ | intro _ | apply Kept.ite | apply Kept.ite_snd | apply Kept.ite_fst | split | dsimp only)

theorem State.appLoop_kept {σ τ : State} (hk : Kept σ τ) (p : PartId) (c : CoreId) (o : Op) (bad : BadSectors) (w : AppendWork) (x0 : Nat) : Kept σ (State.appLoop τ p c o bad w x0) := by
  induction x0 generalizing τ p c o bad w with
  | zero =>
    unfold State.appLoop
    with_reducible repeat' (first | assumption | exact Kept.refl _ | apply State.appEnd_kept | apply State.appPrep_kept | apply State.appPlace_kept | apply State.modOp_kept | refine Kept.of_snd (by assumption) ?_ | refine Kept.of_snd2 (by assumption) ?_ | refine Kept.of_fst (by assumption) ?_ | refine Kept.of_some (by assumption) ?_ | intro _ | apply Kept.ite | apply Kept.ite_snd | apply Kept.ite_fst | split | dsimp only)
  | succ n ih =>
    unfold State.appLoop
    with_reducible repeat' (first | assumption | exact Kept.refl _ | apply ih | apply State.appEnd_kept | apply State.appPrep_kept | apply State.appPlace_kept | apply State.modOp_kept | refine Kept.of_snd (by assumption) ?_ | refine Kept.of_snd2 (by assumption) ?_ | refine Kept.of_fst (by assumption) ?_ | refine Kept.of_some (by assumption) ?_ | intro _ | apply Kept.ite | apply Kept.ite_snd | apply Kept.ite_fst | split | dsimp only)

theorem State.kvStart_kept {σ τ : State} (hk : Kept σ τ) (c : CoreId) (opc : Nat) (bad : BadSectors) (writes : Desc → List (Nat × Nat)) (f : State → PartId → Op → State) (hf : ∀ (v0 : State) (v1 : PartId) (v2 : Op), Kept σ v0 → Kept σ (f v0 v1 v2)) : Kept σ (State.kvStart τ c opc bad writes f) := by
  unfold State.kvStart
  with_reducible repeat' (first | assumption | exact Kept.refl _ | apply State.startVec_kept | apply State.badDesc_kept | apply State.markPunnet_kept | apply hf | refine Kept.of_snd (by assumption) ?_ | refine Kept.of_snd2 (by assumption) ?_ | refine Kept.of_fst (by assumption) ?_ | refine Kept.of_some (by assumption) ?_ | intro _ | apply Kept.ite | apply Kept.ite_snd | apply Kept.ite_fst | split | dsimp only)

theorem State.startAppend_kept {σ τ : State} (hk : Kept σ τ) (p : PartId) (c : CoreId) (bad : BadSectors) (o : Op) : Kept σ (State.startAppend τ p c bad o) := by
  unfold State.startAppend
  with_reducible repeat' (first | assumption | exact Kept.refl _ | apply State.badDesc_kept | apply State.finish_kept | apply State.unless_kept | apply State.modPart_kept | apply State.appLoop_kept | refine Kept.of_snd (by assumption) ?_ | refine Kept.of_snd2 (by assumption) ?_ | refine Kept.of_fst (by assumption) ?_ | refine Kept.of_some (by assumption) ?_ | intro _ | apply Kept.ite | apply Kept.ite_snd | apply Kept.ite_fst | split | dsimp only)

theorem State.resumeAppend_kept {σ τ : State} (hk : Kept σ τ) (c : CoreId) (bad : BadSectors) : Kept σ (State.resumeAppend τ c bad) := by
  unfold State.resumeAppend
  with_reducible repeat' (first | assumption | exact Kept.refl _ | apply State.resumeOp_kept | apply State.appLoop_kept | refine Kept.of_snd (by assumption) ?_ | refine Kept.of_snd2 (by assumption) ?_ | refine Kept.of_fst (by assumption) ?_ | refine Kept.of_some (by assumption) ?_ | intro _ | split | dsimp only)

theorem State.resumeAppends_kept {σ τ : State} (hk : Kept σ τ) (p : PartId) : Kept σ (State.resumeAppends τ p) := by
  unfold State.resumeAppends
  with_reducible repeat' (first | assumption | exact Kept.refl _ | apply State.resumeAppend_kept | apply Kept.each | intro _ | dsimp only)

theorem State.grant_kept {σ τ ω : State} {p : PartId} {n : Nat} (ek : State.grant τ p n = some ω) (hk : Kept σ τ) : Kept σ ω := by
  unfold State.grant at ek
  repeat' (first | split at ek | (injection ek with ek; subst ek) | cases ek | dsimp only at ek)
  all_goals with_reducible repeat' (first | assumption | exact Kept.refl _ | apply State.modKv_kept | intro _ | apply Kept.ite | apply Kept.ite_snd | apply Kept.ite_fst | split | dsimp only)

theorem State.kvPerform_kept {σ τ : State} (hk : Kept σ τ) (p : PartId) (c : CoreId) (d : Desc) (i : Nat) : Kept σ (State.kvPerform τ p c d i).2 := by
  unfold State.kvPerform
  with_reducible repeat' (first | assumption | exact Kept.refl _ | refine State.grant_kept (by assumption) ?_ | apply State.setSeq_kept | apply State.setEntry_kept | apply State.modKvc_kept | apply State.dropPage_kept | apply State.modKv_kept | apply State.flushLine_kept | apply State.modPage_kept | apply Kept.each | refine Kept.of_snd (by assumption) ?_ | refine Kept.of_snd2 (by assumption) ?_ | refine Kept.of_fst (by assumption) ?_ | refine Kept.of_some (by assumption) ?_ | intro _ | apply Kept.ite | apply Kept.ite_snd | apply Kept.ite_fst | split | dsimp only)

theorem State.kvEntryStep_kept {σ τ : State} (hk : Kept σ τ) (p : PartId) (c : CoreId) (o : Op) (i : Nat) : Kept σ (State.kvEntryStep τ p c o i).2 := by
  unfold State.kvEntryStep
  with_reducible repeat' (first | assumption | exact Kept.refl _ | apply State.modKv_kept | apply State.modBound_kept | apply State.kvPerform_kept | refine Kept.of_snd (by assumption) ?_ | refine Kept.of_snd2 (by assumption) ?_ | refine Kept.of_fst (by assumption) ?_ | refine Kept.of_some (by assumption) ?_ | intro _ | apply Kept.ite | apply Kept.ite_snd | apply Kept.ite_fst | split | dsimp only)

theorem State.kvOne_kept {σ : State} {τ : KvRun} (hk : Kept σ τ.s) (p : PartId) (c : CoreId) (bad : BadSectors) (o : Op) (i : Nat) : Kept σ (State.kvOne p c bad o τ i).s := by
  unfold State.kvOne
  with_reducible repeat' (first | assumption | exact Kept.refl _ | apply State.trouble_kept | apply State.storeN_kept | apply State.kvEntryStep_kept | refine Kept.of_snd (by assumption) ?_ | refine Kept.of_snd2 (by assumption) ?_ | refine Kept.of_fst (by assumption) ?_ | refine Kept.of_some (by assumption) ?_ | intro _ | apply Kept.ite | apply Kept.ite_snd | apply Kept.ite_fst | split | dsimp only)

theorem State.startKv_kept {σ τ : State} (hk : Kept σ τ) (p : PartId) (c : CoreId) (bad : BadSectors) (o : Op) : Kept σ (State.startKv τ p c bad o) := by
  unfold State.startKv
  with_reducible repeat' (first | assumption | exact Kept.refl _ | apply State.badDesc_kept | apply State.finish_kept | apply State.unless_kept | apply State.kvOne_kept | apply State.noteUncorrectable_kept | apply Kept.foldl_snd | apply Kept.foldl_fst | apply Kept.foldl_drained | apply Kept.foldl_vecOut | apply Kept.foldl_chunkSum | apply Kept.foldl_kvRun | apply Kept.foldl_vec | refine Kept.of_snd (by assumption) ?_ | refine Kept.of_snd2 (by assumption) ?_ | refine Kept.of_fst (by assumption) ?_ | refine Kept.of_some (by assumption) ?_ | intro _ | apply Kept.ite | apply Kept.ite_snd | apply Kept.ite_fst | split | dsimp only)

theorem State.kvAnswer_kept {σ τ : State} (hk : Kept σ τ) (a : KvArrival) (op fn : Byte) : Kept σ (State.kvAnswer τ a op fn) := by
  unfold State.kvAnswer
  with_reducible repeat' (first | assumption | exact Kept.refl _ | apply State.forward_kept | intro _ | dsimp only)

theorem State.kvInstall_kept {σ τ : State} (hk : Kept σ τ) (a : KvArrival) : Kept σ (State.kvInstall τ a) := by
  unfold State.kvInstall
  with_reducible repeat' (first | assumption | exact Kept.refl _ | apply State.setEntry_kept | apply State.allocPage_kept | apply State.modPage_kept | apply State.store_kept | apply State.dropPage_kept | apply State.modSeq_kept | apply State.storeN_kept | apply State.kvAnswer_kept | apply Kept.each | refine Kept.of_snd (by assumption) ?_ | refine Kept.of_snd2 (by assumption) ?_ | refine Kept.of_fst (by assumption) ?_ | refine Kept.of_some (by assumption) ?_ | intro _ | split | dsimp only)

theorem State.kvArrive_kept {σ τ : State} (hk : Kept σ τ) (a : KvArrival) : Kept σ (State.kvArrive τ a) := by
  unfold State.kvArrive
  with_reducible repeat' (first | assumption | exact Kept.refl _ | apply State.kvAnswer_kept | apply State.modFab_kept | apply State.kvInstall_kept | intro _ | apply Kept.ite | apply Kept.ite_snd | apply Kept.ite_fst | split | dsimp only)

theorem State.kvWaiting_kept {σ τ : State} (hk : Kept σ τ) : Kept σ (State.kvWaiting τ) := by
  unfold State.kvWaiting
  with_reducible repeat' (first | assumption | exact Kept.refl _ | apply State.modFab_kept | apply State.kvInstall_kept | apply Kept.each | intro _ | apply Kept.ite | apply Kept.ite_snd | apply Kept.ite_fst | split | dsimp only)

theorem State.ringPages_kept {σ τ : State} (hk : Kept σ τ) (c : CoreId) (o : Op) : Kept σ (State.ringPages τ c o) := by
  unfold State.ringPages
  with_reducible repeat' (first | assumption | exact Kept.refl _ | apply State.fresh_kept | apply State.runXfers_kept | apply State.finish_kept | apply State.noteUncorrectable_kept | apply Kept.foldl_snd | apply Kept.foldl_fst | apply Kept.foldl_drained | apply Kept.foldl_vecOut | apply Kept.foldl_chunkSum | apply Kept.foldl_kvRun | apply Kept.foldl_vec | refine Kept.of_snd (by assumption) ?_ | refine Kept.of_snd2 (by assumption) ?_ | refine Kept.of_fst (by assumption) ?_ | refine Kept.of_some (by assumption) ?_ | intro _ | split | dsimp only | simp only [Kept.upd_iff])

theorem State.startRing_kept {σ τ : State} (hk : Kept σ τ) (p : PartId) (c : CoreId) (bad : BadSectors) (o : Op) : Kept σ (State.startRing τ p c bad o) := by
  unfold State.startRing
  with_reducible repeat' (first | assumption | exact Kept.refl _ | apply State.badDesc_kept | apply State.unless_kept | apply State.flushLine_kept | apply State.finish_kept | apply State.modKvc_kept | apply State.modFab_kept | apply State.modOp_kept | apply State.kvArrive_kept | refine Kept.of_snd (by assumption) ?_ | refine Kept.of_snd2 (by assumption) ?_ | refine Kept.of_fst (by assumption) ?_ | refine Kept.of_some (by assumption) ?_ | intro _ | apply Kept.ite | apply Kept.ite_snd | apply Kept.ite_fst | split | dsimp only)

theorem State.countVisits_kept {σ τ : State} (hk : Kept σ τ) (c : CoreId) (a : Att) (pt : Nat) (rerun : Bool) (vs : List Visit) : Kept σ (State.countVisits τ c a pt rerun vs) := by
  unfold State.countVisits
  with_reducible repeat' (first | assumption | exact Kept.refl _ | apply State.countBubbles_kept | apply State.modArr_kept | apply Kept.each | intro _ | apply Kept.ite | apply Kept.ite_snd | apply Kept.ite_fst | split | dsimp only)

theorem State.headsEnd_kept {σ τ : State} (hk : Kept σ τ) (c : CoreId) (o : Op) (v : View) (lse h : Nat) (lost : Bool) (again : State → Nat → State) (tiles : List (Nat × TileSpec × List HeadOut)) (hagain : ∀ (v0 : State) (v1 : Nat), Kept σ v0 → Kept σ (again v0 v1)) : Kept σ (State.headsEnd τ c o v lse h lost again tiles) := by
  unfold State.headsEnd
  with_reducible repeat' (first | assumption | exact Kept.refl _ | apply State.vectorDrain_kept | apply State.storeN_kept | apply State.finish_kept | apply Kept.each | apply hagain | intro _ | apply Kept.ite | apply Kept.ite_snd | apply Kept.ite_fst | split | dsimp only)

theorem State.attHold_kept {σ τ : State} (hk : Kept σ τ) (p : PartId) (c : CoreId) (ticket : BitVec 32) (xs : List QRow) : Kept σ (State.attHold τ p c ticket xs) := by
  unfold State.attHold
  with_reducible repeat' (first | assumption | exact Kept.refl _ | apply State.modKvc_kept | apply Kept.each | refine Kept.of_snd (by assumption) ?_ | refine Kept.of_snd2 (by assumption) ?_ | refine Kept.of_fst (by assumption) ?_ | refine Kept.of_some (by assumption) ?_ | intro _ | apply Kept.ite | apply Kept.ite_snd | apply Kept.ite_fst | split | dsimp only)

theorem State.attBad_kept {σ τ : State} (hk : Kept σ τ) (p : PartId) (c : CoreId) (bad : BadSectors) (xs : List QRow) (h : Nat) : Kept σ (State.attBad τ p c bad xs h) := by
  unfold State.attBad
  with_reducible repeat' (first | assumption | exact Kept.refl _ | apply State.modPage_kept | apply State.kvError_kept | apply Kept.each | refine Kept.of_snd (by assumption) ?_ | refine Kept.of_snd2 (by assumption) ?_ | refine Kept.of_fst (by assumption) ?_ | refine Kept.of_some (by assumption) ?_ | intro _ | apply Kept.ite | apply Kept.ite_snd | apply Kept.ite_fst | split | dsimp only)

theorem State.startAttend_kept {σ τ : State} (hk : Kept σ τ) (p : PartId) (c : CoreId) (bad : BadSectors) (o : Op) : Kept σ (State.startAttend τ p c bad o) := by
  unfold State.startAttend
  with_reducible repeat' (first | assumption | exact Kept.refl _ | apply State.badDesc_kept | apply State.finish_kept | apply State.unless_kept | apply State.attHold_kept | apply State.attBad_kept | apply State.scratch_kept | apply State.countVisits_kept | apply State.headsEnd_kept | apply Kept.each | intro _ | apply Kept.ite | apply Kept.ite_snd | apply Kept.ite_fst | split | dsimp only)

theorem State.startCombine_kept {σ τ : State} (hk : Kept σ τ) (c : CoreId) (bad : BadSectors) (o : Op) : Kept σ (State.startCombine τ c bad o) := by
  unfold State.startCombine
  with_reducible repeat' (first | assumption | exact Kept.refl _ | apply State.badDesc_kept | apply State.finish_kept | apply State.unless_kept | apply State.headsEnd_kept | intro _ | apply Kept.ite | apply Kept.ite_snd | apply Kept.ite_fst | split | dsimp only)

/-! ### Complete.lean -/

theorem State.completeFused_kept {σ τ : State} (hk : Kept σ τ) (c : CoreId) (o : Op) (st : Status) : Kept σ (State.completeFused τ c o st) := by
  unfold State.completeFused
  with_reducible repeat' (first | assumption | exact Kept.refl _ | apply State.storeN_kept | apply State.writeRdone_kept | apply Kept.each | intro _ | apply Kept.ite | apply Kept.ite_snd | apply Kept.ite_fst | split | dsimp only)

theorem State.completeRecord_kept {σ τ : State} (hk : Kept σ τ) (c : CoreId) (o : Op) (st : Status) (cyc : Nat) : Kept σ (State.completeRecord τ c o st cyc) := by
  unfold State.completeRecord
  with_reducible repeat' (first | assumption | exact Kept.refl _ | apply State.store_kept | apply State.modReg_kept | intro _ | apply Kept.ite | apply Kept.ite_snd | apply Kept.ite_fst | split | dsimp only)

theorem State.wakeTokens_kept {σ τ : State} (hk : Kept σ τ) (c : CoreId) (ticket : BitVec 32) (st : Status) : Kept σ (State.wakeTokens τ c ticket st) := by
  unfold State.wakeTokens
  with_reducible repeat' (first | assumption | exact Kept.refl _ | apply State.modThread_kept | apply State.advance_kept | apply Kept.each | intro _ | apply Kept.ite | apply Kept.ite_snd | apply Kept.ite_fst | split | dsimp only)

theorem State.wakeIssue_kept {σ τ : State} (hk : Kept σ τ) (c : CoreId) (bad : BadSectors) : Kept σ (State.wakeIssue τ c bad) := by
  unfold State.wakeIssue
  with_reducible repeat' (first | assumption | exact Kept.refl _ | apply State.retireTiss_kept | apply Kept.each | intro _ | apply Kept.ite | apply Kept.ite_snd | apply Kept.ite_fst | split | dsimp only)

theorem State.engineCycles_kept {σ τ : State} (hk : Kept σ τ) (c : CoreId) : Kept σ (State.engineCycles τ c).2 := by
  unfold State.engineCycles
  with_reducible repeat' (first | assumption | exact Kept.refl _ | apply State.cycles_kept | apply State.modPart_kept | refine Kept.of_snd (by assumption) ?_ | refine Kept.of_snd2 (by assumption) ?_ | refine Kept.of_fst (by assumption) ?_ | refine Kept.of_some (by assumption) ?_ | intro _ | split | dsimp only)

theorem State.completeKv_kept {σ τ : State} (hk : Kept σ τ) (c : CoreId) (ticket : BitVec 32) : Kept σ (State.completeKv τ c ticket) := by
  unfold State.completeKv
  with_reducible repeat' (first | assumption | exact Kept.refl _ | apply State.releaseHold_kept | apply State.resumeAppends_kept | apply State.kvWaiting_kept | refine Kept.of_snd (by assumption) ?_ | refine Kept.of_snd2 (by assumption) ?_ | refine Kept.of_fst (by assumption) ?_ | refine Kept.of_some (by assumption) ?_ | intro _ | apply Kept.ite | apply Kept.ite_snd | apply Kept.ite_fst | split | dsimp only)

theorem State.complete_kept {σ τ : State} (hk : Kept σ τ) (c : CoreId) (o : Op) (st : Status) : Kept σ (State.complete τ c o st) := by
  unfold State.complete
  with_reducible repeat' (first | assumption | exact Kept.refl _ | apply State.completeFused_kept | apply State.engineCycles_kept | apply State.completeRecord_kept | apply State.modCore_kept | apply State.completeCmd_kept | apply State.completeKv_kept | apply State.wakeTokens_kept | apply State.wakeIssue_kept | refine Kept.of_snd (by assumption) ?_ | refine Kept.of_snd2 (by assumption) ?_ | refine Kept.of_fst (by assumption) ?_ | refine Kept.of_some (by assumption) ?_ | intro _ | split | dsimp only)

/-! ### Conv.lean -/

theorem State.runConv_kept {σ τ : State} (hk : Kept σ τ) (c : CoreId) (o : Op) (pos : Nat → Nat → Pos) (parts : List (List Nat × List (List Nat))) : Kept σ (State.runConv τ c o pos parts) := by
  unfold State.runConv
  with_reducible repeat' (first | assumption | exact Kept.refl _ | apply State.badDesc_kept | apply State.finish_kept | apply State.startArray_kept | refine Kept.of_snd (by assumption) ?_ | refine Kept.of_snd2 (by assumption) ?_ | refine Kept.of_fst (by assumption) ?_ | refine Kept.of_some (by assumption) ?_ | intro _ | apply Kept.ite | apply Kept.ite_snd | apply Kept.ite_fst | split | dsimp only)

theorem State.pollBands_kept {σ τ : State} (hk : Kept σ τ) (c : CoreId) (bad : BadSectors) (o : Op) (f : FusedWork) : Kept σ (State.pollBands τ c bad o f) := by
  unfold State.pollBands
  with_reducible repeat' (first | assumption | exact Kept.refl _ | apply State.cycles_kept | apply State.modCnv_kept | apply State.withBands_kept | refine Kept.of_snd (by assumption) ?_ | refine Kept.of_snd2 (by assumption) ?_ | refine Kept.of_fst (by assumption) ?_ | refine Kept.of_some (by assumption) ?_ | intro _ | apply Kept.ite | apply Kept.ite_snd | apply Kept.ite_fst | split | dsimp only)

theorem State.pollRdone_kept {σ τ : State} (hk : Kept σ τ) (c : CoreId) (o : Op) (f : FusedWork) : Kept σ (State.pollRdone τ c o f) := by
  unfold State.pollRdone
  with_reducible repeat' (first | assumption | exact Kept.refl _ | apply State.modCnv_kept | apply State.finish_kept | intro _ | apply Kept.ite | apply Kept.ite_snd | apply Kept.ite_fst | split | dsimp only)

/-! ### Objects.lean -/

theorem State.putObj_kept {σ τ : State} (hk : Kept σ τ) (slot : Nat) (r : ObjRec) : Kept σ (State.putObj τ slot r) := by
  unfold State.putObj
  with_reducible repeat' (first | assumption | exact Kept.refl _ | apply State.write_kept | intro _ | dsimp only)

theorem State.modObj_kept {σ τ : State} (hk : Kept σ τ) (slot : Nat) (f : ObjRec → ObjRec) : Kept σ (State.modObj τ slot f) := by
  unfold State.modObj
  with_reducible repeat' (first | assumption | exact Kept.refl _ | apply State.putObj_kept | intro _ | dsimp only)

theorem State.recharge_kept {σ τ : State} (hk : Kept σ τ) : Kept σ (State.recharge τ) := by
  unfold State.recharge
  with_reducible repeat' (first | assumption | exact Kept.refl _ | apply State.modPart_kept | apply Kept.each | intro _ | dsimp only)

theorem State.setSlowObj_kept {σ τ : State} (hk : Kept σ τ) (x : SlowObj) : Kept σ (State.setSlowObj τ x) := by
  unfold State.setSlowObj
  with_reducible repeat' (first | assumption | exact Kept.refl _ | apply State.modTier_kept | intro _ | dsimp only)

theorem State.modSlow_kept {σ τ : State} (hk : Kept σ τ) (c : Fin 8) (f : SlowChan → SlowChan) : Kept σ (State.modSlow τ c f) := by
  unfold State.modSlow
  with_reducible repeat' (first | assumption | exact Kept.refl _ | apply State.modTier_kept | intro _ | dsimp only)

theorem State.modFlash_kept {σ τ : State} (hk : Kept σ τ) (c : Fin 8) (d : Fin 16) (n : Nat) (f : FlashBlock → FlashBlock) : Kept σ (State.modFlash τ c d n f) := by
  unfold State.modFlash
  with_reducible repeat' (first | assumption | exact Kept.refl _ | apply State.modSlow_kept | intro _ | dsimp only)

theorem State.newStripe_kept {σ τ : State} (hk : Kept σ τ) : Kept σ (State.newStripe τ) := by
  unfold State.newStripe
  with_reducible repeat' (first | assumption | exact Kept.refl _ | apply State.fresh_kept | apply State.modTier_kept | refine Kept.of_snd (by assumption) ?_ | refine Kept.of_snd2 (by assumption) ?_ | refine Kept.of_fst (by assumption) ?_ | refine Kept.of_some (by assumption) ?_ | intro _ | split | dsimp only | simp only [Kept.upd_iff])

theorem State.addPage_kept {σ τ ω : State} {id : BitVec 48} {page : Nat} (ek : State.addPage τ id page = some ω) (hk : Kept σ τ) : Kept σ ω := by
  unfold State.addPage at ek
  repeat' (first | split at ek | (injection ek with ek; subst ek) | cases ek | dsimp only at ek)
  all_goals with_reducible repeat' (first | assumption | exact Kept.refl _ | apply State.modTier_kept | refine Kept.of_snd (by assumption) ?_ | refine Kept.of_snd2 (by assumption) ?_ | refine Kept.of_fst (by assumption) ?_ | refine Kept.of_some (by assumption) ?_ | intro _ | apply Kept.ite | apply Kept.ite_snd | apply Kept.ite_fst | split | dsimp only)

theorem State.placePage_kept {σ τ : State} (hk : Kept σ τ) (id : BitVec 48) (page : Nat) : Kept σ (State.placePage τ id page) := by
  unfold State.placePage
  with_reducible repeat' (first | assumption | exact Kept.refl _ | refine State.addPage_kept (by assumption) ?_ | apply State.newStripe_kept | refine Kept.of_snd (by assumption) ?_ | refine Kept.of_snd2 (by assumption) ?_ | refine Kept.of_fst (by assumption) ?_ | refine Kept.of_some (by assumption) ?_ | intro _ | split | dsimp only)

theorem State.dropPages_kept {σ τ : State} (hk : Kept σ τ) (p : BitVec 48 → Nat → Bool) : Kept σ (State.dropPages τ p) := by
  unfold State.dropPages
  with_reducible repeat' (first | assumption | exact Kept.refl _ | apply State.modTier_kept | refine Kept.of_snd (by assumption) ?_ | refine Kept.of_snd2 (by assumption) ?_ | refine Kept.of_fst (by assumption) ?_ | refine Kept.of_some (by assumption) ?_ | intro _ | apply Kept.ite | apply Kept.ite_snd | apply Kept.ite_fst | split | dsimp only)

theorem State.movePage_kept {σ τ : State} (hk : Kept σ τ) (id : BitVec 48) (page : Nat) : Kept σ (State.movePage τ id page) := by
  unfold State.movePage
  with_reducible repeat' (first | assumption | exact Kept.refl _ | apply State.dropPages_kept | apply State.placePage_kept | intro _ | dsimp only)

theorem State.moveStripe_kept {σ τ : State} (hk : Kept σ τ) (num : Nat) : Kept σ (State.moveStripe τ num) := by
  unfold State.moveStripe
  with_reducible repeat' (first | assumption | exact Kept.refl _ | apply State.modTier_kept | apply State.placePage_kept | apply Kept.each | refine Kept.of_snd (by assumption) ?_ | refine Kept.of_snd2 (by assumption) ?_ | refine Kept.of_fst (by assumption) ?_ | refine Kept.of_some (by assumption) ?_ | intro _ | split | dsimp only)

theorem State.placeExtent_kept {σ τ : State} (hk : Kept σ τ) (id : BitVec 48) (e : Nat) : Kept σ (State.placeExtent τ id e) := by
  unfold State.placeExtent
  with_reducible repeat' (first | assumption | exact Kept.refl _ | apply State.movePage_kept | apply Kept.each | intro _ | dsimp only)

theorem State.countReads_kept {σ τ : State} (hk : Kept σ τ) (p : PageUse → Bool) : Kept σ (State.countReads τ p) := by
  unfold State.countReads
  with_reducible repeat' (first | assumption | exact Kept.refl _ | apply State.modFlash_kept | apply Kept.each | intro _ | apply Kept.ite | apply Kept.ite_snd | apply Kept.ite_fst | split | dsimp only)

theorem State.countExtentReads_kept {σ τ : State} (hk : Kept σ τ) (id : BitVec 48) (es : List Nat) : Kept σ (State.countExtentReads τ id es) := by
  unfold State.countExtentReads
  with_reducible repeat' (first | assumption | exact Kept.refl _ | apply State.countReads_kept | refine Kept.of_snd (by assumption) ?_ | refine Kept.of_snd2 (by assumption) ?_ | refine Kept.of_fst (by assumption) ?_ | refine Kept.of_some (by assumption) ?_ | intro _ | split | dsimp only)

theorem State.eraseBlock_kept {σ τ : State} (hk : Kept σ τ) (c : Fin 8) (d : Fin 16) (n : Nat) : Kept σ (State.eraseBlock τ c d n) := by
  unfold State.eraseBlock
  with_reducible repeat' (first | assumption | exact Kept.refl _ | apply State.fresh_kept | apply State.modFlash_kept | apply State.modSlow_kept | refine Kept.of_snd (by assumption) ?_ | refine Kept.of_snd2 (by assumption) ?_ | refine Kept.of_fst (by assumption) ?_ | refine Kept.of_some (by assumption) ?_ | intro _ | apply Kept.ite | apply Kept.ite_snd | apply Kept.ite_fst | split | dsimp only | simp only [Kept.upd_iff])

theorem State.scrubBlock_kept {σ τ : State} (hk : Kept σ τ) (c : Fin 8) (d : Fin 16) (n : Nat) : Kept σ (State.scrubBlock τ c d n) := by
  unfold State.scrubBlock
  with_reducible repeat' (first | assumption | exact Kept.refl _ | apply State.moveStripe_kept | apply State.eraseBlock_kept | apply Kept.each | intro _ | dsimp only)

theorem State.dropSlowObj_kept {σ τ : State} (hk : Kept σ τ) (id : Nat) : Kept σ (State.dropSlowObj τ id) := by
  unfold State.dropSlowObj
  with_reducible repeat' (first | assumption | exact Kept.refl _ | apply State.dropPages_kept | apply State.modTier_kept | intro _ | dsimp only)

theorem State.writeExtent_kept {σ τ : State} (hk : Kept σ τ) (id e : Nat) (bs : List Byte) : Kept σ (State.writeExtent τ id e bs) := by
  unfold State.writeExtent
  with_reducible repeat' (first | assumption | exact Kept.refl _ | apply State.placeExtent_kept | apply State.setSlowObj_kept | refine Kept.of_snd (by assumption) ?_ | refine Kept.of_snd2 (by assumption) ?_ | refine Kept.of_fst (by assumption) ?_ | refine Kept.of_some (by assumption) ?_ | intro _ | apply Kept.ite | apply Kept.ite_snd | apply Kept.ite_fst | split | dsimp only)

theorem State.retireDie_kept {σ τ : State} (hk : Kept σ τ) (c : Fin 8) (d : Fin 16) (cls : Nat) : Kept σ (State.retireDie τ c d cls) := by
  unfold State.retireDie
  with_reducible repeat' (first | assumption | exact Kept.refl _ | apply State.modTier_kept | apply State.latchFault_kept | apply State.modSlow_kept | apply State.tierEvent_kept | apply State.noteRetired_kept | intro _ | apply Kept.ite | apply Kept.ite_snd | apply Kept.ite_fst | split | dsimp only)

theorem State.dieFails_kept {σ τ : State} (hk : Kept σ τ) (fs : DieFails) : Kept σ (State.dieFails τ fs) := by
  unfold State.dieFails
  with_reducible repeat' (first | assumption | exact Kept.refl _ | apply State.modSlow_kept | apply State.crosses_kept | apply State.retireDie_kept | apply Kept.each | refine Kept.of_snd (by assumption) ?_ | refine Kept.of_snd2 (by assumption) ?_ | refine Kept.of_fst (by assumption) ?_ | refine Kept.of_some (by assumption) ?_ | intro _ | apply Kept.ite | apply Kept.ite_snd | apply Kept.ite_fst | split | dsimp only)

theorem State.rewritePage_kept {σ τ : State} (hk : Kept σ τ) (r : PageRead) : Kept σ (State.rewritePage τ r) := by
  unfold State.rewritePage
  with_reducible repeat' (first | assumption | exact Kept.refl _ | apply State.movePage_kept | apply State.moveStripe_kept | refine Kept.of_snd (by assumption) ?_ | refine Kept.of_snd2 (by assumption) ?_ | refine Kept.of_fst (by assumption) ?_ | refine Kept.of_some (by assumption) ?_ | intro _ | split | dsimp only)

theorem State.retireBlock_kept {σ τ : State} (hk : Kept σ τ) (c : Fin 8) (d : Fin 16) (n : Nat) : Kept σ (State.retireBlock τ c d n) := by
  unfold State.retireBlock
  with_reducible repeat' (first | assumption | exact Kept.refl _ | apply State.modFlash_kept | apply State.modSlow_kept | apply State.ledger_kept | intro _ | apply Kept.ite | apply Kept.ite_snd | apply Kept.ite_fst | split | dsimp only)

theorem State.pageRead_kept {σ τ : State} (hk : Kept σ τ) (r : PageRead) : Kept σ (State.pageRead τ r) := by
  unfold State.pageRead
  with_reducible repeat' (first | assumption | exact Kept.refl _ | apply State.modFlash_kept | apply State.modSlow_kept | apply State.retireBlock_kept | apply State.crosses_kept | apply State.rewritePage_kept | apply State.retireDie_kept | refine Kept.of_snd (by assumption) ?_ | refine Kept.of_snd2 (by assumption) ?_ | refine Kept.of_fst (by assumption) ?_ | refine Kept.of_some (by assumption) ?_ | intro _ | apply Kept.ite | apply Kept.ite_snd | apply Kept.ite_fst | split | dsimp only)

theorem State.pagesRead_kept {σ τ : State} (hk : Kept σ τ) (rs : List PageRead) : Kept σ (State.pagesRead τ rs) := by
  unfold State.pagesRead
  with_reducible repeat' (first | assumption | exact Kept.refl _ | apply State.pageRead_kept | apply Kept.each | intro _ | dsimp only)

theorem State.readSlow_kept {σ τ : State} (hk : Kept σ τ) (rs : List PageRead) (id : BitVec 48) (es : List Nat) : Kept σ (State.readSlow τ rs id es) := by
  unfold State.readSlow
  with_reducible repeat' (first | assumption | exact Kept.refl _ | apply State.countExtentReads_kept | apply State.pagesRead_kept | intro _ | apply Kept.ite | apply Kept.ite_snd | apply Kept.ite_fst | split | dsimp only)

theorem State.setDirtyTo_kept {σ τ : State} (hk : Kept σ τ) (slot : Nat) (es : List Nat) : Kept σ (State.setDirtyTo τ slot es) := by
  unfold State.setDirtyTo
  with_reducible repeat' (first | assumption | exact Kept.refl _ | apply State.wipe_kept | apply State.write_kept | apply State.modObj_kept | intro _ | apply Kept.ite | apply Kept.ite_snd | apply Kept.ite_fst | split | dsimp only)

theorem State.setAllDirty_kept {σ τ : State} (hk : Kept σ τ) (slot : Nat) (v : Bool) : Kept σ (State.setAllDirty τ slot v) := by
  unfold State.setAllDirty
  with_reducible repeat' (first | assumption | exact Kept.refl _ | apply State.setDirtyTo_kept | intro _ | apply Kept.ite | apply Kept.ite_snd | apply Kept.ite_fst | split | dsimp only)

theorem State.writeExtents_kept {σ τ : State} (hk : Kept σ τ) (id a : Nat) (es : List Nat) : Kept σ (State.writeExtents τ id a es) := by
  unfold State.writeExtents
  with_reducible repeat' (first | assumption | exact Kept.refl _ | apply State.writeExtent_kept | apply Kept.each | intro _ | dsimp only)

theorem State.writeBack_kept {σ τ ω : State} {slot : Nat} {bad : BadSectors} (ek : State.writeBack τ slot bad = some ω) (hk : Kept σ τ) : Kept σ ω := by
  unfold State.writeBack at ek
  repeat' (first | split at ek | (injection ek with ek; subst ek) | cases ek | dsimp only at ek)
  all_goals with_reducible repeat' (first | assumption | exact Kept.refl _ | apply State.writeExtents_kept | apply State.setAllDirty_kept | intro _ | apply Kept.ite | apply Kept.ite_snd | apply Kept.ite_fst | split | dsimp only)

theorem State.objReply_kept {σ τ : State} (hk : Kept σ τ) (w : Waiter) (st : Status) (result : BitVec 128) : Kept σ (State.objReply τ w st result) := by
  unfold State.objReply
  with_reducible repeat' (first | assumption | exact Kept.refl _ | apply State.finish_kept | apply State.modOp_kept | refine Kept.of_snd (by assumption) ?_ | refine Kept.of_snd2 (by assumption) ?_ | refine Kept.of_fst (by assumption) ?_ | refine Kept.of_some (by assumption) ?_ | intro _ | apply Kept.ite | apply Kept.ite_snd | apply Kept.ite_fst | split | dsimp only)

theorem State.objDone_kept {σ τ : State} (hk : Kept σ τ) (w : Waiter) (slot : Nat) (st : Status) (w1 : Nat) : Kept σ (State.objDone τ w slot st w1) := by
  unfold State.objDone
  with_reducible repeat' (first | assumption | exact Kept.refl _ | apply State.objReply_kept | intro _ | dsimp only)

theorem State.objFail_kept {σ τ : State} (hk : Kept σ τ) (w : Waiter) (st : Status) : Kept σ (State.objFail τ w st) := by
  unfold State.objFail
  with_reducible repeat' (first | assumption | exact Kept.refl _ | apply State.objReply_kept | intro _ | dsimp only)

theorem State.dropMove_kept {σ τ : State} (hk : Kept σ τ) (slot : Nat) : Kept σ (State.dropMove τ slot) := by
  unfold State.dropMove
  with_reducible repeat' (first | assumption | exact Kept.refl _ | apply State.modTier_kept | intro _ | dsimp only)

theorem State.addWaiter_kept {σ τ : State} (hk : Kept σ τ) (slot : Nat) (w : Waiter) (joined : Bool) : Kept σ (State.addWaiter τ slot w joined) := by
  unfold State.addWaiter
  with_reducible repeat' (first | assumption | exact Kept.refl _ | apply State.modTier_kept | refine Kept.of_snd (by assumption) ?_ | refine Kept.of_snd2 (by assumption) ?_ | refine Kept.of_fst (by assumption) ?_ | refine Kept.of_some (by assumption) ?_ | intro _ | apply Kept.ite | apply Kept.ite_snd | apply Kept.ite_fst | split | dsimp only)

theorem State.poisonObj_kept {σ τ : State} (hk : Kept σ τ) (slot : Nat) : Kept σ (State.poisonObj τ slot) := by
  unfold State.poisonObj
  with_reducible repeat' (first | assumption | exact Kept.refl _ | apply State.setAllDirty_kept | apply State.modObj_kept | apply State.dropMove_kept | apply State.recharge_kept | apply State.tierEvent_kept | apply State.notify_kept | apply Kept.each | intro _ | apply Kept.ite | apply Kept.ite_snd | apply Kept.ite_fst | split | dsimp only)

theorem State.addPin_kept {σ τ : State} (hk : Kept σ τ) (slot : Nat) (p : PartId) (n : Int) : Kept σ (State.addPin τ slot p n) := by
  unfold State.addPin
  with_reducible repeat' (first | assumption | exact Kept.refl _ | apply State.modObj_kept | apply State.recharge_kept | intro _ | dsimp only)

theorem State.startObjMove_kept {σ τ : State} (hk : Kept σ τ) (slot : Nat) (up : Bool) (src dest : Nat) (srcAddr dstAddr : Nat) (create : Bool) (wrote : List Nat) (w : Waiter) : Kept σ (State.startObjMove τ slot up src dest srcAddr dstAddr create wrote w) := by
  unfold State.startObjMove
  with_reducible repeat' (first | assumption | exact Kept.refl _ | apply State.modObj_kept | apply State.modTier_kept | apply State.recharge_kept | intro _ | apply Kept.ite | apply Kept.ite_snd | apply Kept.ite_fst | split | dsimp only)

theorem State.objCreate_kept {σ τ : State} (hk : Kept σ τ) (p : PartId) (id : Nat) (w : Waiter) : Kept σ (State.objCreate τ p id w) := by
  unfold State.objCreate
  with_reducible repeat' (first | assumption | exact Kept.refl _ | apply State.objFail_kept | apply State.modTier_kept | apply State.setSlowObj_kept | apply State.putObj_kept | apply State.startObjMove_kept | apply State.setAllDirty_kept | apply State.recharge_kept | apply State.objDone_kept | refine Kept.of_snd (by assumption) ?_ | refine Kept.of_snd2 (by assumption) ?_ | refine Kept.of_fst (by assumption) ?_ | refine Kept.of_some (by assumption) ?_ | intro _ | apply Kept.ite | apply Kept.ite_snd | apply Kept.ite_fst | split | dsimp only)

theorem State.objPromote_kept {σ τ : State} (hk : Kept σ τ) (p : PartId) (slot : Nat) (w : Waiter) : Kept σ (State.objPromote τ p slot w) := by
  unfold State.objPromote
  with_reducible repeat' (first | assumption | exact Kept.refl _ | apply State.addPin_kept | apply State.objDone_kept | apply State.objFail_kept | apply State.modObj_kept | apply State.startObjMove_kept | refine Kept.of_snd (by assumption) ?_ | refine Kept.of_snd2 (by assumption) ?_ | refine Kept.of_fst (by assumption) ?_ | refine Kept.of_some (by assumption) ?_ | intro _ | apply Kept.ite | apply Kept.ite_snd | apply Kept.ite_fst | split | dsimp only)

theorem State.objEvict_kept {σ τ : State} (hk : Kept σ τ) (slot : Nat) (bad : BadSectors) (w : Waiter) : Kept σ (State.objEvict τ slot bad w) := by
  unfold State.objEvict
  with_reducible repeat' (first | assumption | exact Kept.refl _ | apply State.recharge_kept | apply State.objDone_kept | apply State.objFail_kept | apply State.writeExtents_kept | apply State.setDirtyTo_kept | apply State.startObjMove_kept | refine Kept.of_snd (by assumption) ?_ | refine Kept.of_snd2 (by assumption) ?_ | refine Kept.of_fst (by assumption) ?_ | refine Kept.of_some (by assumption) ?_ | intro _ | apply Kept.ite | apply Kept.ite_snd | apply Kept.ite_fst | split | dsimp only)

theorem State.freeRecord_kept {σ τ : State} (hk : Kept σ τ) (slot : Nat) : Kept σ (State.freeRecord τ slot) := by
  unfold State.freeRecord
  with_reducible repeat' (first | assumption | exact Kept.refl _ | apply State.modTier_kept | apply State.dropSlowObj_kept | apply State.wipe_kept | apply State.recharge_kept | intro _ | dsimp only)

theorem State.objDelete_kept {σ τ : State} (hk : Kept σ τ) (p : PartId) (slot : Nat) (w : Waiter) : Kept σ (State.objDelete τ p slot w) := by
  unfold State.objDelete
  with_reducible repeat' (first | assumption | exact Kept.refl _ | apply State.objDone_kept | apply State.freeRecord_kept | apply State.objReply_kept | intro _ | apply Kept.ite | apply Kept.ite_snd | apply Kept.ite_fst | split | dsimp only)

theorem State.objPin_kept {σ τ : State} (hk : Kept σ τ) (p : PartId) (slot : Nat) (w : Waiter) : Kept σ (State.objPin τ p slot w) := by
  unfold State.objPin
  with_reducible repeat' (first | assumption | exact Kept.refl _ | apply State.objFail_kept | apply State.addPin_kept | apply State.objDone_kept | refine Kept.of_snd (by assumption) ?_ | refine Kept.of_snd2 (by assumption) ?_ | refine Kept.of_fst (by assumption) ?_ | refine Kept.of_some (by assumption) ?_ | intro _ | apply Kept.ite | apply Kept.ite_snd | apply Kept.ite_fst | split | dsimp only)

theorem State.objWriteback_kept {σ τ : State} (hk : Kept σ τ) (slot : Nat) (bad : BadSectors) (w : Waiter) : Kept σ (State.objWriteback τ slot bad w) := by
  unfold State.objWriteback
  with_reducible repeat' (first | assumption | exact Kept.refl _ | apply State.objDone_kept | apply State.objFail_kept | refine State.writeBack_kept (by assumption) ?_ | apply State.poisonObj_kept | refine Kept.of_snd (by assumption) ?_ | refine Kept.of_snd2 (by assumption) ?_ | refine Kept.of_fst (by assumption) ?_ | refine Kept.of_some (by assumption) ?_ | intro _ | apply Kept.ite | apply Kept.ite_snd | apply Kept.ite_fst | split | dsimp only)

theorem State.abandonMove_kept {σ τ : State} (hk : Kept σ τ) (slot : Nat) (m : ObjMove) : Kept σ (State.abandonMove τ slot m) := by
  unfold State.abandonMove
  with_reducible repeat' (first | assumption | exact Kept.refl _ | apply State.modObj_kept | apply State.dropMove_kept | apply State.recharge_kept | apply State.objDone_kept | apply Kept.each | intro _ | apply Kept.ite | apply Kept.ite_snd | apply Kept.ite_fst | split | dsimp only)

theorem State.objStep_kept {σ τ : State} (hk : Kept σ τ) (bad : BadSectors) (id : Nat) (w : Waiter) : Kept σ (State.objStep τ bad id w).1 := by
  unfold State.objStep
  with_reducible repeat' (first | assumption | exact Kept.refl _ | apply State.objFail_kept | apply State.objCreate_kept | apply State.objDone_kept | apply State.objDelete_kept | apply State.objPromote_kept | apply State.objEvict_kept | apply State.objPin_kept | apply State.objWriteback_kept | apply State.addPin_kept | apply State.addWaiter_kept | apply State.abandonMove_kept | refine Kept.of_snd (by assumption) ?_ | refine Kept.of_snd2 (by assumption) ?_ | refine Kept.of_fst (by assumption) ?_ | refine Kept.of_some (by assumption) ?_ | intro _ | apply Kept.ite | apply Kept.ite_snd | apply Kept.ite_fst | split | dsimp only)

theorem State.objAct_kept {σ τ : State} (hk : Kept σ τ) (bad : BadSectors) (id : Nat) (w : Waiter) : Kept σ (State.objAct τ bad id w) := by
  unfold State.objAct
  with_reducible repeat' (first | assumption | exact Kept.refl _ | apply State.noteUncorrectable_kept | apply State.objFail_kept | apply State.objStep_kept | apply State.objDone_kept | apply Kept.each | refine Kept.of_snd (by assumption) ?_ | refine Kept.of_snd2 (by assumption) ?_ | refine Kept.of_fst (by assumption) ?_ | refine Kept.of_some (by assumption) ?_ | intro _ | apply Kept.ite | apply Kept.ite_snd | apply Kept.ite_fst | split | dsimp only)

theorem State.endMove_kept {σ τ : State} (hk : Kept σ τ) (m : ObjMove) (st : Status) (lostWords : Nat) : Kept σ (State.endMove τ m st lostWords) := by
  unfold State.endMove
  with_reducible repeat' (first | assumption | exact Kept.refl _ | apply State.dropMove_kept | apply State.recharge_kept | apply State.objDone_kept | apply State.objAct_kept | apply Kept.each | intro _ | apply Kept.ite | apply Kept.ite_snd | apply Kept.ite_fst | split | dsimp only)

theorem State.movedTo_kept {σ τ : State} (hk : Kept σ τ) (m : ObjMove) (bytes : List (List Byte)) : Kept σ (State.movedTo τ m bytes) := by
  unfold State.movedTo
  with_reducible repeat' (first | assumption | exact Kept.refl _ | apply State.modObj_kept | apply State.store_kept | apply Kept.each | intro _ | apply Kept.ite | apply Kept.ite_snd | apply Kept.ite_fst | split | dsimp only)

theorem State.createdSlow_kept {σ τ : State} (hk : Kept σ τ) (m : ObjMove) (fails : DieFails) : Kept σ (State.createdSlow τ m fails) := by
  unfold State.createdSlow
  with_reducible repeat' (first | assumption | exact Kept.refl _ | apply State.writeExtents_kept | apply State.dieFails_kept | apply State.modObj_kept | apply State.endMove_kept | intro _ | dsimp only)

theorem State.uncreate_kept {σ τ : State} (hk : Kept σ τ) (m : ObjMove) : Kept σ (State.uncreate τ m) := by
  unfold State.uncreate
  with_reducible repeat' (first | assumption | exact Kept.refl _ | apply State.dropMove_kept | apply State.freeRecord_kept | apply State.objFail_kept | apply State.objAct_kept | apply Kept.each | intro _ | apply Kept.ite | apply Kept.ite_snd | apply Kept.ite_fst | split | dsimp only)

theorem State.evicted_kept {σ τ : State} (hk : Kept σ τ) (m : ObjMove) (pages : List PageRead) (bad : BadSectors) (fails : DieFails) : Kept σ (State.evicted τ m pages bad fails) := by
  unfold State.evicted
  with_reducible repeat' (first | assumption | exact Kept.refl _ | apply State.readSlow_kept | apply State.poisonObj_kept | apply State.endMove_kept | apply State.writeExtents_kept | apply State.dieFails_kept | apply State.setAllDirty_kept | apply State.movedTo_kept | apply State.modObj_kept | intro _ | apply Kept.ite | apply Kept.ite_snd | apply Kept.ite_fst | split | dsimp only)

theorem State.startObj_kept {σ τ : State} (hk : Kept σ τ) (c : CoreId) (opc : Nat) (bad : BadSectors) : Kept σ (State.startObj τ c opc bad) := by
  unfold State.startObj
  with_reducible repeat' (first | assumption | exact Kept.refl _ | apply State.startOp_kept | apply State.badDesc_kept | apply State.unless_kept | apply State.modOp_kept | apply State.objAct_kept | refine Kept.of_snd (by assumption) ?_ | refine Kept.of_snd2 (by assumption) ?_ | refine Kept.of_fst (by assumption) ?_ | refine Kept.of_some (by assumption) ?_ | intro _ | apply Kept.ite | apply Kept.ite_snd | apply Kept.ite_fst | split | dsimp only)

theorem State.pfStart_kept {σ τ : State} (hk : Kept σ τ) (c : CoreId) (o : Op) (i : Nat) : Kept σ (State.pfStart τ c o i) := by
  unfold State.pfStart
  with_reducible repeat' (first | assumption | exact Kept.refl _ | apply State.modOp_kept | apply State.objFail_kept | apply State.addPin_kept | apply State.objAct_kept | refine Kept.of_snd (by assumption) ?_ | refine Kept.of_snd2 (by assumption) ?_ | refine Kept.of_fst (by assumption) ?_ | refine Kept.of_some (by assumption) ?_ | intro _ | apply Kept.ite | apply Kept.ite_snd | apply Kept.ite_fst | split | dsimp only)

theorem State.pfStarts_kept {σ τ : State} (hk : Kept σ τ) (c : CoreId) (ticket : BitVec 32) (prog : Nat) (x0 : Nat) : Kept σ (State.pfStarts τ c ticket prog x0) := by
  induction x0 generalizing τ c ticket prog with
  | zero =>
    unfold State.pfStarts
    with_reducible repeat' (first | assumption | exact Kept.refl _ | apply State.pfStart_kept | refine Kept.of_snd (by assumption) ?_ | refine Kept.of_snd2 (by assumption) ?_ | refine Kept.of_fst (by assumption) ?_ | refine Kept.of_some (by assumption) ?_ | intro _ | apply Kept.ite | apply Kept.ite_snd | apply Kept.ite_fst | split | dsimp only)
  | succ n ih =>
    unfold State.pfStarts
    with_reducible repeat' (first | assumption | exact Kept.refl _ | apply ih | apply State.pfStart_kept | refine Kept.of_snd (by assumption) ?_ | refine Kept.of_snd2 (by assumption) ?_ | refine Kept.of_fst (by assumption) ?_ | refine Kept.of_some (by assumption) ?_ | intro _ | apply Kept.ite | apply Kept.ite_snd | apply Kept.ite_fst | split | dsimp only)

theorem State.loseObjects_kept {σ τ : State} (hk : Kept σ τ) (ids : List (BitVec 48)) : Kept σ (State.loseObjects τ ids) := by
  unfold State.loseObjects
  with_reducible repeat' (first | assumption | exact Kept.refl _ | apply State.poisonObj_kept | apply State.endMove_kept | apply Kept.each | refine Kept.of_snd (by assumption) ?_ | refine Kept.of_snd2 (by assumption) ?_ | refine Kept.of_fst (by assumption) ?_ | refine Kept.of_some (by assumption) ?_ | intro _ | apply Kept.ite | apply Kept.ite_snd | apply Kept.ite_fst | split | dsimp only)

/-! ### Near.lean -/

theorem State.placePoison_kept {σ τ : State} (hk : Kept σ τ) (xs : List Nat) : Kept σ (State.placePoison τ xs) := by
  unfold State.placePoison
  with_reducible repeat' (first | assumption | exact Kept.refl _ | apply State.modChan_kept | apply State.tierEvent_kept | apply State.crossChan_kept | apply State.ledgerPoison_kept | apply Kept.each | intro _ | apply Kept.ite | apply Kept.ite_snd | apply Kept.ite_fst | split | dsimp only | simp only [Kept.upd_iff])

theorem State.unpoison_kept {σ τ : State} (hk : Kept σ τ) (xs : List Nat) : Kept σ (State.unpoison τ xs) := by
  unfold State.unpoison
  with_reducible repeat' (first | assumption | exact Kept.refl _ | apply State.ledgerPoison_kept | intro _ | dsimp only | simp only [Kept.upd_iff])

theorem State.copyGranule_kept {σ τ : State} (hk : Kept σ τ) (e : Evac) (g : Nat) (bad : BadSectors) : Kept σ (State.copyGranule τ e g bad) := by
  unfold State.copyGranule
  with_reducible repeat' (first | assumption | exact Kept.refl _ | apply State.unpoison_kept | apply State.modTier_kept | apply State.placePoison_kept | refine Kept.of_snd (by assumption) ?_ | refine Kept.of_snd2 (by assumption) ?_ | refine Kept.of_fst (by assumption) ?_ | refine Kept.of_some (by assumption) ?_ | intro _ | apply Kept.ite | apply Kept.ite_snd | apply Kept.ite_fst | split | dsimp only)

theorem State.tgStart_kept {σ τ : State} (hk : Kept σ τ) (m : Master) (ch : ChanId) : Kept σ (State.tgStart τ m ch) := by
  unfold State.tgStart
  with_reducible repeat' (first | assumption | exact Kept.refl _ | apply State.modChan_kept | refine Kept.of_snd (by assumption) ?_ | refine Kept.of_snd2 (by assumption) ?_ | refine Kept.of_fst (by assumption) ?_ | refine Kept.of_some (by assumption) ?_ | intro _ | apply Kept.ite | apply Kept.ite_snd | apply Kept.ite_fst | split | dsimp only)

theorem State.tgStopRun_kept {σ τ : State} (hk : Kept σ τ) (m : Master) (ch : ChanId) : Kept σ (State.tgStopRun τ m ch) := by
  unfold State.tgStopRun
  with_reducible repeat' (first | assumption | exact Kept.refl _ | apply State.modChan_kept | intro _ | apply Kept.ite | apply Kept.ite_snd | apply Kept.ite_fst | split | dsimp only)

theorem State.tgWrite_kept {σ τ : State} (hk : Kept σ τ) (ch : ChanId) (n : Nat) : Kept σ (State.tgWrite τ ch n) := by
  unfold State.tgWrite
  with_reducible repeat' (first | assumption | exact Kept.refl _ | apply State.write_kept | apply Kept.each | refine Kept.of_snd (by assumption) ?_ | refine Kept.of_snd2 (by assumption) ?_ | refine Kept.of_fst (by assumption) ?_ | refine Kept.of_some (by assumption) ?_ | intro _ | split | dsimp only)

theorem State.retireFn_kept {σ τ : State} (hk : Kept σ τ) (fn : Fin 32) : Kept σ (State.retireFn τ fn) := by
  unfold State.retireFn
  with_reducible repeat' (first | assumption | exact Kept.refl _ | apply State.modRep_kept | apply State.endCmd_kept | apply Kept.each | intro _ | dsimp only)

theorem State.loseFar_kept {σ τ : State} (hk : Kept σ τ) (i : Nat) : Kept σ (State.loseFar τ i) := by
  unfold State.loseFar
  with_reducible repeat' (first | assumption | exact Kept.refl _ | apply State.modObj_kept | apply State.recharge_kept | apply State.poisonObj_kept | intro _ | apply Kept.ite | apply Kept.ite_snd | apply Kept.ite_fst | split | dsimp only)

theorem State.loseFarCopy_kept {σ τ : State} (hk : Kept σ τ) (i : Nat) : Kept σ (State.loseFarCopy τ i) := by
  unfold State.loseFarCopy
  with_reducible repeat' (first | assumption | exact Kept.refl _ | apply State.loseFar_kept | apply State.endMove_kept | apply State.dropMove_kept | apply State.recharge_kept | apply State.objAct_kept | apply Kept.each | refine Kept.of_snd (by assumption) ?_ | refine Kept.of_snd2 (by assumption) ?_ | refine Kept.of_fst (by assumption) ?_ | refine Kept.of_some (by assumption) ?_ | intro _ | apply Kept.ite | apply Kept.ite_snd | apply Kept.ite_fst | split | dsimp only)

theorem State.retireFar_kept {σ τ : State} (hk : Kept σ τ) (p : PortId) : Kept σ (State.retireFar τ p) := by
  unfold State.retireFar
  with_reducible repeat' (first | assumption | exact Kept.refl _ | apply State.modFar_kept | apply State.loseFarCopy_kept | apply State.tierEvent_kept | apply State.noteRetired_kept | apply State.retireFn_kept | apply Kept.each | refine Kept.of_snd (by assumption) ?_ | refine Kept.of_snd2 (by assumption) ?_ | refine Kept.of_fst (by assumption) ?_ | refine Kept.of_some (by assumption) ?_ | intro _ | apply Kept.ite | apply Kept.ite_snd | apply Kept.ite_fst | split | dsimp only)

/-! ### Tumbler.lean -/

theorem State.memredFinish_kept {σ τ : State} (hk : Kept σ τ) (c : CoreId) (o : Op) (st : Status) (elements : Nat) : Kept σ (State.memredFinish τ c o st elements) := by
  unfold State.memredFinish
  with_reducible repeat' (first | assumption | exact Kept.refl _ | apply State.finish_kept | intro _ | dsimp only)

theorem State.memredDone_kept {σ τ : State} (hk : Kept σ τ) (c : CoreId) (o : Op) : Kept σ (State.memredDone τ c o) := by
  unfold State.memredDone
  with_reducible repeat' (first | assumption | exact Kept.refl _ | apply State.memredFinish_kept | intro _ | dsimp only)

theorem State.memredFailed_kept {σ τ : State} (hk : Kept σ τ) (c : CoreId) (o : Op) (st : Status) : Kept σ (State.memredFailed τ c o st) := by
  unfold State.memredFailed
  with_reducible repeat' (first | assumption | exact Kept.refl _ | apply State.memredFinish_kept | intro _ | dsimp only)

theorem State.takeClaim_kept {σ τ : State} (hk : Kept σ τ) (c : CoreId) (tumb : Nat) : Kept σ (State.takeClaim τ c tumb).2 := by
  unfold State.takeClaim
  with_reducible repeat' (first | assumption | exact Kept.refl _ | apply State.setClaim_kept | apply State.writeN_kept | refine Kept.of_snd (by assumption) ?_ | refine Kept.of_snd2 (by assumption) ?_ | refine Kept.of_fst (by assumption) ?_ | refine Kept.of_some (by assumption) ?_ | intro _ | apply Kept.ite | apply Kept.ite_snd | apply Kept.ite_fst | split | dsimp only)

/-! ### Stop.lean -/

theorem State.dropUnsent_kept {σ τ : State} (hk : Kept σ τ) (c : CoreId) (ticket : BitVec 32) : Kept σ (State.dropUnsent τ c ticket) := by
  unfold State.dropUnsent
  with_reducible repeat' (first | assumption | exact Kept.refl _ | apply State.modFab_kept | intro _ | dsimp only)

theorem State.stopCtl_kept {σ τ : State} (hk : Kept σ τ) (c : CoreId) (o : Op) (w : CtlWork) (st : Status) : Kept σ (State.stopCtl τ c o w st) := by
  unfold State.stopCtl
  with_reducible repeat' (first | assumption | exact Kept.refl _ | apply State.setCtl_kept | apply State.finish_kept | intro _ | apply Kept.ite | apply Kept.ite_snd | apply Kept.ite_fst | split | dsimp only)

theorem State.stopOp_kept {σ τ : State} (hk : Kept σ τ) (c : CoreId) (o : Op) (st : Status) : Kept σ (State.stopOp τ c o st) := by
  unfold State.stopOp
  with_reducible repeat' (first | assumption | exact Kept.refl _ | apply State.dropUnsent_kept | apply State.appEnd_kept | apply State.finish_kept | apply State.stopCtl_kept | apply State.fusedFail_kept | apply State.abandon_kept | apply State.collEnd_kept | apply State.shardStop_kept | apply State.pubFail_kept | apply State.copyFailed_kept | apply State.memredFailed_kept | refine Kept.of_snd (by assumption) ?_ | refine Kept.of_snd2 (by assumption) ?_ | refine Kept.of_fst (by assumption) ?_ | refine Kept.of_some (by assumption) ?_ | intro _ | apply Kept.ite | apply Kept.ite_snd | apply Kept.ite_fst | split | dsimp only)

theorem State.stopOps_kept {σ τ : State} (hk : Kept σ τ) (c : CoreId) (st : Status) (queued : Bool) (keep : Op → Bool) : Kept σ (State.stopOps τ c st queued keep) := by
  unfold State.stopOps
  with_reducible repeat' (first | assumption | exact Kept.refl _ | apply State.stopOp_kept | apply State.finish_kept | apply Kept.each | refine Kept.of_snd (by assumption) ?_ | refine Kept.of_snd2 (by assumption) ?_ | refine Kept.of_fst (by assumption) ?_ | refine Kept.of_some (by assumption) ?_ | intro _ | apply Kept.ite | apply Kept.ite_snd | apply Kept.ite_fst | split | dsimp only)

/-! ### ThreadMem.lean -/

theorem State.retireAcc_kept {σ τ : State} (hk : Kept σ τ) (c : CoreId) (t : ThreadId) (eff : Thread → Thread) : Kept σ (State.retireAcc τ c t eff) := by
  unfold State.retireAcc
  with_reducible repeat' (first | assumption | exact Kept.refl _ | apply State.modThread_kept | apply State.idleThread_kept | apply State.advance_kept | apply State.stayFrozen_kept | intro _ | apply Kept.ite | apply Kept.ite_snd | apply Kept.ite_fst | split | dsimp only)

theorem State.semDone_kept {σ τ : State} (hk : Kept σ τ) (c : CoreId) (t : ThreadId) (a : Acc) (slot : Option (Fin 64)) (acq : Bool) (pd : BitVec 3) (ok xp freed : Bool) : Kept σ (State.semDone τ c t a slot acq pd ok xp freed) := by
  unfold State.semDone
  with_reducible repeat' (first | assumption | exact Kept.refl _ | apply State.freezeThread_kept | apply State.modPart_kept | apply State.retireAcc_kept | refine Kept.of_snd (by assumption) ?_ | refine Kept.of_snd2 (by assumption) ?_ | refine Kept.of_fst (by assumption) ?_ | refine Kept.of_some (by assumption) ?_ | intro _ | apply Kept.ite | apply Kept.ite_snd | apply Kept.ite_fst | split | dsimp only)

theorem State.semExpired_kept {σ τ : State} (hk : Kept σ τ) (c : CoreId) (t : ThreadId) (a : Acc) (pd : BitVec 3) : Kept σ (State.semExpired τ c t a pd) := by
  unfold State.semExpired
  with_reducible repeat' (first | assumption | exact Kept.refl _ | apply State.modPart_kept | apply State.retireAcc_kept | refine Kept.of_snd (by assumption) ?_ | refine Kept.of_snd2 (by assumption) ?_ | refine Kept.of_fst (by assumption) ?_ | refine Kept.of_some (by assumption) ?_ | intro _ | split | dsimp only)

theorem State.sendAcc_kept {σ τ : State} (hk : Kept σ τ) (c : CoreId) (t : ThreadId) (a : Acc) : Kept σ (State.sendAcc τ c t a) := by
  unfold State.sendAcc
  with_reducible repeat' (first | assumption | exact Kept.refl _ | apply State.request_kept | apply State.modThread_kept | refine Kept.of_snd (by assumption) ?_ | refine Kept.of_snd2 (by assumption) ?_ | refine Kept.of_fst (by assumption) ?_ | refine Kept.of_some (by assumption) ?_ | intro _ | apply Kept.ite | apply Kept.ite_snd | apply Kept.ite_fst | split | dsimp only)

theorem State.kickAcc_kept {σ τ : State} (hk : Kept σ τ) (c : CoreId) (t : ThreadId) : Kept σ (State.kickAcc τ c t) := by
  unfold State.kickAcc
  with_reducible repeat' (first | assumption | exact Kept.refl _ | apply State.semExpired_kept | apply State.sendAcc_kept | refine Kept.of_snd (by assumption) ?_ | refine Kept.of_snd2 (by assumption) ?_ | refine Kept.of_fst (by assumption) ?_ | refine Kept.of_some (by assumption) ?_ | intro _ | apply Kept.ite | apply Kept.ite_snd | apply Kept.ite_fst | split | dsimp only)

theorem State.issueAcc_kept {σ τ : State} (hk : Kept σ τ) (c : CoreId) (t : ThreadId) (w : IWord) (form : AccForm) (n : Nat) (g : Word) (kind : AccKind) : Kept σ (State.issueAcc τ c t w form n g kind) := by
  unfold State.issueAcc
  with_reducible repeat' (first | assumption | exact Kept.refl _ | apply State.freezeThread_kept | apply State.modThread_kept | apply State.kickAcc_kept | refine Kept.of_snd (by assumption) ?_ | refine Kept.of_snd2 (by assumption) ?_ | refine Kept.of_fst (by assumption) ?_ | refine Kept.of_some (by assumption) ?_ | intro _ | split | dsimp only)

theorem State.loadInstr_kept {σ τ : State} (hk : Kept σ τ) (c : CoreId) (t : ThreadId) (i : IName) (w : IWord) (n : Nat) (signed : Bool) : Kept σ (State.loadInstr τ c t i w n signed) := by
  unfold State.loadInstr
  with_reducible repeat' (first | assumption | exact Kept.refl _ | apply State.issueInstr_kept | apply State.issueAcc_kept | intro _ | dsimp only)

theorem State.addStore_kept {σ τ : State} (hk : Kept σ τ) (c : CoreId) (t : ThreadId) (y : Store) : Kept σ (State.addStore τ c t y) := by
  unfold State.addStore
  with_reducible repeat' (first | assumption | exact Kept.refl _ | apply State.modThread_kept | apply State.request_kept | refine Kept.of_snd (by assumption) ?_ | refine Kept.of_snd2 (by assumption) ?_ | refine Kept.of_fst (by assumption) ?_ | refine Kept.of_some (by assumption) ?_ | intro _ | apply Kept.ite | apply Kept.ite_snd | apply Kept.ite_fst | split | dsimp only)

theorem State.storeInstr_kept {σ τ : State} (hk : Kept σ τ) (c : CoreId) (t : ThreadId) (i : IName) (w : IWord) (n : Nat) : Kept σ (State.storeInstr τ c t i w n) := by
  unfold State.storeInstr
  with_reducible repeat' (first | assumption | exact Kept.refl _ | apply State.issueInstr_kept | apply State.store_kept | apply State.freezeThread_kept | apply State.addStore_kept | apply State.advance_kept | apply State.modThread_kept | refine Kept.of_snd (by assumption) ?_ | refine Kept.of_snd2 (by assumption) ?_ | refine Kept.of_fst (by assumption) ?_ | refine Kept.of_some (by assumption) ?_ | intro _ | apply Kept.ite | apply Kept.ite_snd | apply Kept.ite_fst | split | dsimp only)

theorem State.storeGone_kept {σ τ : State} (hk : Kept σ τ) (c : CoreId) (t : ThreadId) (i : Nat) : Kept σ (State.storeGone τ c t i) := by
  unfold State.storeGone
  with_reducible repeat' (first | assumption | exact Kept.refl _ | apply State.modThread_kept | apply State.addStore_kept | apply State.retireAcc_kept | apply State.kickAcc_kept | refine Kept.of_snd (by assumption) ?_ | refine Kept.of_snd2 (by assumption) ?_ | refine Kept.of_fst (by assumption) ?_ | refine Kept.of_some (by assumption) ?_ | intro _ | split | dsimp only)

theorem State.atomicInstr_kept {σ τ : State} (hk : Kept σ τ) (c : CoreId) (t : ThreadId) (i : IName) (w : IWord) (form : AccForm) (n : Nat) (kind : AccKind) : Kept σ (State.atomicInstr τ c t i w form n kind) := by
  unfold State.atomicInstr
  with_reducible repeat' (first | assumption | exact Kept.refl _ | apply State.issueInstr_kept | apply State.issueAcc_kept | intro _ | dsimp only)

theorem State.withSector_kept {σ τ : State} (hk : Kept σ τ) (c : CoreId) (t : ThreadId) (bad : BadSectors) (a n : Nat) (f : State → State) (hf : ∀ (v0 : State), Kept σ v0 → Kept σ (f v0)) : Kept σ (State.withSector τ c t bad a n f) := by
  unfold State.withSector
  with_reducible repeat' (first | assumption | exact Kept.refl _ | apply State.noteUncorrectable_kept | apply State.freezeThread_kept | apply hf | refine Kept.of_snd (by assumption) ?_ | refine Kept.of_snd2 (by assumption) ?_ | refine Kept.of_fst (by assumption) ?_ | refine Kept.of_some (by assumption) ?_ | intro _ | split | dsimp only)

theorem State.atomicHere_kept {σ τ : State} (hk : Kept σ τ) (c : CoreId) (t : ThreadId) (bad : BadSectors) (a : Acc) (n : Nat) (f : Nat → Nat) : Kept σ (State.atomicHere τ c t bad a n f) := by
  unfold State.atomicHere
  with_reducible repeat' (first | assumption | exact Kept.refl _ | apply State.withSector_kept | apply State.storeN_kept | apply State.retireAcc_kept | intro _ | dsimp only)

theorem State.semHere_kept {σ τ : State} (hk : Kept σ τ) (c : CoreId) (t : ThreadId) (bad : BadSectors) (a : Acc) (acq : Bool) (pd : BitVec 3) : Kept σ (State.semHere τ c t bad a acq pd) := by
  unfold State.semHere
  with_reducible repeat' (first | assumption | exact Kept.refl _ | apply State.semExpired_kept | apply State.withSector_kept | apply State.storeN_kept | apply State.semDone_kept | intro _ | apply Kept.ite | apply Kept.ite_snd | apply Kept.ite_fst | split | dsimp only)

theorem State.tickChan_kept {σ τ : State} (hk : Kept σ τ) (ch : ChanId) : Kept σ (State.tickChan τ ch) := by
  unfold State.tickChan
  with_reducible repeat' (first | assumption | exact Kept.refl _ | apply State.fresh_kept | apply State.modChan_kept | refine Kept.of_snd (by assumption) ?_ | refine Kept.of_snd2 (by assumption) ?_ | refine Kept.of_fst (by assumption) ?_ | refine Kept.of_some (by assumption) ?_ | intro _ | apply Kept.ite | apply Kept.ite_snd | apply Kept.ite_fst | split | dsimp only | simp only [Kept.upd_iff])

theorem State.tickFar_kept {σ τ : State} (hk : Kept σ τ) (p : PortId) : Kept σ (State.tickFar τ p) := by
  unfold State.tickFar
  with_reducible repeat' (first | assumption | exact Kept.refl _ | apply State.fresh_kept | apply State.modFar_kept | refine Kept.of_snd (by assumption) ?_ | refine Kept.of_snd2 (by assumption) ?_ | refine Kept.of_fst (by assumption) ?_ | refine Kept.of_some (by assumption) ?_ | intro _ | apply Kept.ite | apply Kept.ite_snd | apply Kept.ite_fst | split | dsimp only | simp only [Kept.upd_iff])

theorem State.tickEth_kept {σ τ : State} (hk : Kept σ τ) (p : PortId) : Kept σ (State.tickEth τ p) := by
  unfold State.tickEth
  with_reducible repeat' (first | assumption | exact Kept.refl _ | apply State.fresh_kept | apply State.modEth_kept | refine Kept.of_snd (by assumption) ?_ | refine Kept.of_snd2 (by assumption) ?_ | refine Kept.of_fst (by assumption) ?_ | refine Kept.of_some (by assumption) ?_ | intro _ | apply Kept.ite | apply Kept.ite_snd | apply Kept.ite_fst | split | dsimp only | simp only [Kept.upd_iff])

theorem State.sampleReg_kept {σ τ : State} (hk : Kept σ τ) (a : Nat) : Kept σ (State.sampleReg τ a) := by
  unfold State.sampleReg
  with_reducible repeat' (first | assumption | exact Kept.refl _ | apply State.tickCore_kept | apply State.modReg_kept | apply State.tickEth_kept | apply State.tickFar_kept | apply State.tickChan_kept | refine Kept.of_snd (by assumption) ?_ | refine Kept.of_snd2 (by assumption) ?_ | refine Kept.of_fst (by assumption) ?_ | refine Kept.of_some (by assumption) ?_ | intro _ | apply Kept.ite | apply Kept.ite_snd | apply Kept.ite_fst | split | dsimp only)

theorem State.returnAcc_kept {σ τ : State} (hk : Kept σ τ) (c : CoreId) (t : ThreadId) (bad : BadSectors) (a : Acc) : Kept σ (State.returnAcc τ c t bad a) := by
  unfold State.returnAcc
  with_reducible repeat' (first | assumption | exact Kept.refl _ | apply State.sampleReg_kept | apply State.retireAcc_kept | apply State.freezeThread_kept | apply State.withSector_kept | apply State.atomicHere_kept | apply State.semHere_kept | refine Kept.of_snd (by assumption) ?_ | refine Kept.of_snd2 (by assumption) ?_ | refine Kept.of_fst (by assumption) ?_ | refine Kept.of_some (by assumption) ?_ | intro _ | apply Kept.ite | apply Kept.ite_snd | apply Kept.ite_fst | split | dsimp only)

end Sys2Proof.Machine
end

