-- ==== Sys2Proof/Laws/KeptModule.lean ====
section
/-! SUPPORT. What the operations of the fabric, of sessions, images, repair and power on State keep: the form of the memory,
the queue and the fuses. -/

namespace Sys2Proof.Machine

/-! ### Fabric.lean -/

theorem State.toPair_kept {σ τ : State} (hk : Kept σ τ) (l : LinkId) : Kept σ (State.toPair τ l) := by
  unfold State.toPair
  with_reducible repeat' (first | assumption | exact Kept.refl _ | apply State.modLink_kept | apply State.pump_kept | apply State.enqueue_kept | apply State.forward_kept | apply Kept.each | intro _ | apply Kept.ite | apply Kept.ite_snd | apply Kept.ite_fst | split | dsimp only)

theorem State.refuseQueued_kept {σ τ : State} (hk : Kept σ τ) (l : LinkId) : Kept σ (State.refuseQueued τ l) := by
  unfold State.refuseQueued
  with_reducible repeat' (first | assumption | exact Kept.refl _ | apply State.modLink_kept | apply State.forward_kept | apply Kept.each | intro _ | apply Kept.ite | apply Kept.ite_snd | apply Kept.ite_fst | split | dsimp only)

theorem State.retireLink_kept {σ τ : State} (hk : Kept σ τ) (l : LinkId) (cls : Nat) : Kept σ (State.retireLink τ l cls) := by
  unfold State.retireLink
  with_reducible repeat' (first | assumption | exact Kept.refl _ | apply State.modLink_kept | apply State.toPair_kept | apply State.refuseQueued_kept | apply State.noteRetired_kept | apply State.retireFn_kept | refine Kept.of_snd (by assumption) ?_ | refine Kept.of_snd2 (by assumption) ?_ | refine Kept.of_fst (by assumption) ?_ | refine Kept.of_some (by assumption) ?_ | intro _ | split | dsimp only)

theorem State.retrainLink_kept {σ τ : State} (hk : Kept σ τ) (l : LinkId) : Kept σ (State.retrainLink τ l) := by
  unfold State.retrainLink
  with_reducible repeat' (first | assumption | exact Kept.refl _ | apply State.modLink_kept | apply State.toPair_kept | apply State.sendTrain_kept | apply State.crosses_kept | apply State.retireLink_kept | refine Kept.of_snd (by assumption) ?_ | refine Kept.of_snd2 (by assumption) ?_ | refine Kept.of_fst (by assumption) ?_ | refine Kept.of_some (by assumption) ?_ | intro _ | apply Kept.ite | apply Kept.ite_snd | apply Kept.ite_fst | split | dsimp only)

theorem State.takeAck_kept {σ τ : State} (hk : Kept σ τ) (l : LinkId) (a : BitVec 12) : Kept σ (State.takeAck τ l a) := by
  unfold State.takeAck
  with_reducible repeat' (first | assumption | exact Kept.refl _ | apply State.modLink_kept | intro _ | apply Kept.ite | apply Kept.ite_snd | apply Kept.ite_fst | split | dsimp only)

theorem State.flitHeader_kept {σ τ : State} (hk : Kept σ τ) (l : LinkId) (f : Flit) : Kept σ (State.flitHeader τ l f) := by
  unfold State.flitHeader
  with_reducible repeat' (first | assumption | exact Kept.refl _ | apply State.takeAck_kept | apply State.modLink_kept | intro _ | apply Kept.ite | apply Kept.ite_snd | apply Kept.ite_fst | split | dsimp only)

theorem State.countFec_kept {σ τ : State} (hk : Kept σ τ) (l : LinkId) (f : Flit) : Kept σ (State.countFec τ l f) := by
  unfold State.countFec
  with_reducible repeat' (first | assumption | exact Kept.refl _ | apply State.modLink_kept | refine Kept.of_snd (by assumption) ?_ | refine Kept.of_snd2 (by assumption) ?_ | refine Kept.of_fst (by assumption) ?_ | refine Kept.of_some (by assumption) ?_ | intro _ | split | dsimp only)

theorem State.discardFlit_kept {σ τ : State} (hk : Kept σ τ) (l : LinkId) (f : Flit) : Kept σ (State.discardFlit τ l f) := by
  unfold State.discardFlit
  with_reducible repeat' (first | assumption | exact Kept.refl _ | apply State.countFec_kept | apply State.sendRetry_kept | intro _ | dsimp only)

theorem State.latchViol_kept {σ τ : State} (hk : Kept σ τ) (l : LinkId) (cause : Nat) (m : Msg) : Kept σ (State.latchViol τ l cause m) := by
  unfold State.latchViol
  with_reducible repeat' (first | assumption | exact Kept.refl _ | apply State.modLink_kept | intro _ | apply Kept.ite | apply Kept.ite_snd | apply Kept.ite_fst | split | dsimp only)

theorem State.returnSlots_kept {σ τ : State} (hk : Kept σ τ) (l : LinkId) (m : Msg) (n : Nat) : Kept σ (State.returnSlots τ l m n) := by
  unfold State.returnSlots
  with_reducible repeat' (first | assumption | exact Kept.refl _ | apply State.modLink_kept | intro _ | dsimp only)

theorem State.deliver_kept {σ τ : State} (hk : Kept σ τ) (l : LinkId) (b : List Byte) : Kept σ (State.deliver τ l b) := by
  unfold State.deliver
  with_reducible repeat' (first | assumption | exact Kept.refl _ | apply State.latchViol_kept | apply State.returnSlots_kept | apply State.modFab_kept | apply State.forward_kept | refine Kept.of_snd (by assumption) ?_ | refine Kept.of_snd2 (by assumption) ?_ | refine Kept.of_fst (by assumption) ?_ | refine Kept.of_some (by assumption) ?_ | intro _ | apply Kept.ite | apply Kept.ite_snd | apply Kept.ite_fst | split | dsimp only)

theorem State.dataFlit_kept {σ τ : State} (hk : Kept σ τ) (l : LinkId) (f : Flit) : Kept σ (State.dataFlit τ l f) := by
  unfold State.dataFlit
  with_reducible repeat' (first | assumption | exact Kept.refl _ | apply State.discardFlit_kept | apply State.countFec_kept | apply State.flitHeader_kept | apply State.modLink_kept | apply State.deliver_kept | apply State.pump_kept | apply Kept.each | refine Kept.of_snd (by assumption) ?_ | refine Kept.of_snd2 (by assumption) ?_ | refine Kept.of_fst (by assumption) ?_ | refine Kept.of_some (by assumption) ?_ | intro _ | apply Kept.ite | apply Kept.ite_snd | apply Kept.ite_fst | split | dsimp only)

theorem State.tellPeers_kept {σ τ : State} (hk : Kept σ τ) : Kept σ (State.tellPeers τ) := by
  unfold State.tellPeers
  with_reducible repeat' (first | assumption | exact Kept.refl _ | apply State.sendTrain_kept | apply Kept.each | refine Kept.of_snd (by assumption) ?_ | refine Kept.of_snd2 (by assumption) ?_ | refine Kept.of_fst (by assumption) ?_ | refine Kept.of_some (by assumption) ?_ | intro _ | apply Kept.ite | apply Kept.ite_snd | apply Kept.ite_fst | split | dsimp only)

theorem State.establish_kept {σ τ : State} (hk : Kept σ τ) : Kept σ (State.establish τ) := by
  unfold State.establish
  with_reducible repeat' (first | assumption | exact Kept.refl _ | apply State.modFab_kept | apply State.tellPeers_kept | refine Kept.of_snd (by assumption) ?_ | refine Kept.of_snd2 (by assumption) ?_ | refine Kept.of_fst (by assumption) ?_ | refine Kept.of_some (by assumption) ?_ | intro _ | apply Kept.ite | apply Kept.ite_snd | apply Kept.ite_fst | split | dsimp only)

theorem State.linkUp_kept {σ τ : State} (hk : Kept σ τ) (l : LinkId) : Kept σ (State.linkUp τ l) := by
  unfold State.linkUp
  with_reducible repeat' (first | assumption | exact Kept.refl _ | apply State.modLink_kept | apply State.ledger_kept | apply State.pump_kept | intro _ | apply Kept.ite | apply Kept.ite_snd | apply Kept.ite_fst | split | dsimp only)

theorem State.checkLink_kept {σ τ : State} (hk : Kept σ τ) (l : LinkId) : Kept σ (State.checkLink τ l) := by
  unfold State.checkLink
  with_reducible repeat' (first | assumption | exact Kept.refl _ | apply State.modLink_kept | apply State.linkUp_kept | apply State.notify_kept | refine Kept.of_snd (by assumption) ?_ | refine Kept.of_snd2 (by assumption) ?_ | refine Kept.of_fst (by assumption) ?_ | refine Kept.of_some (by assumption) ?_ | intro _ | apply Kept.ite | apply Kept.ite_snd | apply Kept.ite_fst | split | dsimp only)

theorem State.takeMsg_kept {σ τ : State} (hk : Kept σ τ) (i : Nat) (l : LinkId) (m : Msg) : Kept σ (State.takeMsg τ i l m) := by
  unfold State.takeMsg
  with_reducible repeat' (first | assumption | exact Kept.refl _ | apply State.modFab_kept | apply State.returnSlots_kept | apply State.pump_kept | intro _ | dsimp only)

theorem State.answer_kept {σ τ : State} (hk : Kept σ τ) (m : Msg) (op fn : Byte) (data : List Byte) : Kept σ (State.answer τ m op fn data) := by
  unfold State.answer
  with_reducible repeat' (first | assumption | exact Kept.refl _ | apply State.forward_kept | intro _ | dsimp only)

theorem State.refuse_kept {σ τ : State} (hk : Kept σ τ) (l : LinkId) (m : Msg) (cause : Byte) : Kept σ (State.refuse τ l m cause) := by
  unfold State.refuse
  with_reducible repeat' (first | assumption | exact Kept.refl _ | apply State.latchViol_kept | apply State.answer_kept | apply State.modFab_kept | apply State.noticeFrozen_kept | refine Kept.of_snd (by assumption) ?_ | refine Kept.of_snd2 (by assumption) ?_ | refine Kept.of_fst (by assumption) ?_ | refine Kept.of_some (by assumption) ?_ | intro _ | apply Kept.ite | apply Kept.ite_snd | apply Kept.ite_fst | split | dsimp only)

theorem State.serve_kept {σ τ : State} (hk : Kept σ τ) (i : Nat) (op : Byte) (n : Msg → Nat) (bad : BadSectors) (rd wr atomic : Bool) (f : State → Msg → State) (hf : ∀ (v0 : State) (v1 : Msg), Kept σ v0 → Kept σ (f v0 v1)) : Kept σ (State.serve τ i op n bad rd wr atomic f) := by
  unfold State.serve
  with_reducible repeat' (first | assumption | exact Kept.refl _ | apply State.takeMsg_kept | apply State.noteUncorrectable_kept | apply State.refuse_kept | apply hf | refine Kept.of_snd (by assumption) ?_ | refine Kept.of_snd2 (by assumption) ?_ | refine Kept.of_fst (by assumption) ?_ | refine Kept.of_some (by assumption) ?_ | intro _ | apply Kept.ite | apply Kept.ite_snd | apply Kept.ite_fst | split | dsimp only)

theorem State.failOp_kept {σ τ : State} (hk : Kept σ τ) (c : CoreId) (o : Op) (st : Status) : Kept σ (State.failOp τ c o st) := by
  unfold State.failOp
  with_reducible repeat' (first | assumption | exact Kept.refl _ | apply State.stopOp_kept | intro _ | dsimp only)

theorem State.xfersDone_kept {σ τ : State} (hk : Kept σ τ) (c : CoreId) (o : Op) : Kept σ (State.xfersDone τ c o) := by
  unfold State.xfersDone
  with_reducible repeat' (first | assumption | exact Kept.refl _ | apply State.pubGo_kept | apply State.collStepDone_kept | apply State.a2aDone_kept | apply State.memredDone_kept | apply State.finish_kept | apply State.copyDone_kept | refine Kept.of_snd (by assumption) ?_ | refine Kept.of_snd2 (by assumption) ?_ | refine Kept.of_fst (by assumption) ?_ | refine Kept.of_some (by assumption) ?_ | intro _ | apply Kept.ite | apply Kept.ite_snd | apply Kept.ite_fst | split | dsimp only)

theorem State.goOn_kept {σ τ : State} (hk : Kept σ τ) (c : CoreId) (o : Op) (xs : List Xfer) : Kept σ (State.goOn τ c o xs) := by
  unfold State.goOn
  with_reducible repeat' (first | assumption | exact Kept.refl _ | apply State.runXfers_kept | apply State.xfersDone_kept | apply State.noteUncorrectable_kept | apply State.failOp_kept | refine Kept.of_snd (by assumption) ?_ | refine Kept.of_snd2 (by assumption) ?_ | refine Kept.of_fst (by assumption) ?_ | refine Kept.of_some (by assumption) ?_ | intro _ | split | dsimp only)

theorem State.dropReq_kept {σ τ : State} (hk : Kept σ τ) (tag : BitVec 16) : Kept σ (State.dropReq τ tag) := by
  unfold State.dropReq
  with_reducible repeat' (first | assumption | exact Kept.refl _ | apply State.modFab_kept | intro _ | dsimp only)

theorem State.opOf_kept {σ τ : State} (hk : Kept σ τ) (c : CoreId) (ticket : BitVec 32) (tag : BitVec 16) : Kept σ (State.opOf τ c ticket tag).2 := by
  unfold State.opOf
  with_reducible repeat' (first | assumption | exact Kept.refl _ | apply State.modOp_kept | intro _ | dsimp only)

theorem State.opData_kept {σ τ : State} (hk : Kept σ τ) (c : CoreId) (o : Op) (b : List Byte) : Kept σ (State.opData τ c o b) := by
  unfold State.opData
  with_reducible repeat' (first | assumption | exact Kept.refl _ | apply State.store_kept | apply State.goOn_kept | apply State.opRequest_kept | apply State.addInto_kept | apply State.countScript_kept | apply State.collSees_kept | apply State.pubAnswer_kept | refine Kept.of_snd (by assumption) ?_ | refine Kept.of_snd2 (by assumption) ?_ | refine Kept.of_fst (by assumption) ?_ | refine Kept.of_some (by assumption) ?_ | intro _ | apply Kept.ite | apply Kept.ite_snd | apply Kept.ite_fst | split | dsimp only)

theorem State.opAcked_kept {σ τ : State} (hk : Kept σ τ) (c : CoreId) (o : Op) : Kept σ (State.opAcked τ c o) := by
  unfold State.opAcked
  with_reducible repeat' (first | assumption | exact Kept.refl _ | apply State.ringPages_kept | apply State.goOn_kept | refine Kept.of_snd (by assumption) ?_ | refine Kept.of_snd2 (by assumption) ?_ | refine Kept.of_fst (by assumption) ?_ | refine Kept.of_some (by assumption) ?_ | intro _ | apply Kept.ite | apply Kept.ite_snd | apply Kept.ite_fst | split | dsimp only)

theorem State.accData_kept {σ τ : State} (hk : Kept σ τ) (c : CoreId) (t : ThreadId) (a : Acc) (b : List Byte) : Kept σ (State.accData τ c t a b) := by
  unfold State.accData
  with_reducible repeat' (first | assumption | exact Kept.refl _ | apply State.retireAcc_kept | apply State.semDone_kept | refine Kept.of_snd (by assumption) ?_ | refine Kept.of_snd2 (by assumption) ?_ | refine Kept.of_fst (by assumption) ?_ | refine Kept.of_some (by assumption) ?_ | intro _ | split | dsimp only)

theorem State.leaseAnswer_kept {σ τ : State} (hk : Kept σ τ) (p : PartId) (slot : Fin 64) (hit : Bool) : Kept σ (State.leaseAnswer τ p slot hit) := by
  unfold State.leaseAnswer
  with_reducible repeat' (first | assumption | exact Kept.refl _ | apply State.modPart_kept | intro _ | apply Kept.ite | apply Kept.ite_snd | apply Kept.ite_fst | split | dsimp only)

theorem State.nackThread_kept {σ τ : State} (hk : Kept σ τ) (c : CoreId) (t : ThreadId) (fn : Byte) (a : Nat) : Kept σ (State.nackThread τ c t fn a) := by
  unfold State.nackThread
  with_reducible repeat' (first | assumption | exact Kept.refl _ | apply State.freezeThread_kept | refine Kept.of_snd (by assumption) ?_ | refine Kept.of_snd2 (by assumption) ?_ | refine Kept.of_fst (by assumption) ?_ | refine Kept.of_some (by assumption) ?_ | intro _ | apply Kept.ite | apply Kept.ite_snd | apply Kept.ite_fst | split | dsimp only)

theorem State.nackOp_kept {σ τ : State} (hk : Kept σ τ) (c : CoreId) (o : Op) (tag : BitVec 16) (fn : Byte) : Kept σ (State.nackOp τ c o tag fn) := by
  unfold State.nackOp
  with_reducible repeat' (first | assumption | exact Kept.refl _ | apply State.finish_kept | apply State.noticeFrozen_kept | apply State.entResponse_kept | apply State.entFailed_kept | apply State.failOp_kept | intro _ | apply Kept.ite | apply Kept.ite_snd | apply Kept.ite_fst | split | dsimp only)

/-! ### Transport.lean -/

theorem State.countRx_kept {σ τ : State} (hk : Kept σ τ) (p : PortId) : Kept σ (State.countRx τ p) := by
  unfold State.countRx
  with_reducible repeat' (first | assumption | exact Kept.refl _ | apply State.modEth_kept | intro _ | dsimp only)

theorem State.countTx_kept {σ τ : State} (hk : Kept σ τ) (p : PortId) : Kept σ (State.countTx τ p) := by
  unfold State.countTx
  with_reducible repeat' (first | assumption | exact Kept.refl _ | apply State.modEth_kept | intro _ | dsimp only)

theorem State.countOther_kept {σ τ : State} (hk : Kept σ τ) (p : PortId) : Kept σ (State.countOther τ p) := by
  unfold State.countOther
  with_reducible repeat' (first | assumption | exact Kept.refl _ | apply State.modEth_kept | intro _ | dsimp only)

theorem State.sendOther_kept {σ τ : State} (hk : Kept σ τ) (p : PortId) (f : EthFrame) : Kept σ (State.sendOther τ p f) := by
  unfold State.sendOther
  with_reducible repeat' (first | assumption | exact Kept.refl _ | apply State.modFct_kept | apply State.countTx_kept | intro _ | dsimp only)

theorem State.answered_kept {σ τ : State} (hk : Kept σ τ) (p : PortId) (answer : Option EthFrame) : Kept σ (State.answered τ p answer) := by
  unfold State.answered
  with_reducible repeat' (first | assumption | exact Kept.refl _ | apply State.answer_kept | apply State.countRx_kept | apply State.sendOther_kept | apply State.countOther_kept | refine Kept.of_snd (by assumption) ?_ | refine Kept.of_snd2 (by assumption) ?_ | refine Kept.of_fst (by assumption) ?_ | refine Kept.of_some (by assumption) ?_ | intro _ | apply Kept.ite | apply Kept.ite_snd | apply Kept.ite_fst | split | dsimp only)

theorem State.pumpBulkN_kept {σ τ : State} (hk : Kept σ τ) (i : Fin 64) (x0 : Nat) : Kept σ (State.pumpBulkN τ i x0) := by
  induction x0 generalizing τ i with
  | zero =>
    unfold State.pumpBulkN
    with_reducible repeat' (first | assumption | exact Kept.refl _ | apply State.modSess_kept | apply State.sendFrame_kept | refine Kept.of_snd (by assumption) ?_ | refine Kept.of_snd2 (by assumption) ?_ | refine Kept.of_fst (by assumption) ?_ | refine Kept.of_some (by assumption) ?_ | intro _ | apply Kept.ite | apply Kept.ite_snd | apply Kept.ite_fst | split | dsimp only)
  | succ n ih =>
    unfold State.pumpBulkN
    with_reducible repeat' (first | assumption | exact Kept.refl _ | apply ih | apply State.modSess_kept | apply State.sendFrame_kept | refine Kept.of_snd (by assumption) ?_ | refine Kept.of_snd2 (by assumption) ?_ | refine Kept.of_fst (by assumption) ?_ | refine Kept.of_some (by assumption) ?_ | intro _ | apply Kept.ite | apply Kept.ite_snd | apply Kept.ite_fst | split | dsimp only)

theorem State.pumpBulk_kept {σ τ : State} (hk : Kept σ τ) (i : Fin 64) : Kept σ (State.pumpBulk τ i) := by
  unfold State.pumpBulk
  with_reducible repeat' (first | assumption | exact Kept.refl _ | apply State.pumpBulkN_kept | intro _ | dsimp only)

theorem State.pumpPort_kept {σ τ : State} (hk : Kept σ τ) (p : PortId) : Kept σ (State.pumpPort τ p) := by
  unfold State.pumpPort
  with_reducible repeat' (first | assumption | exact Kept.refl _ | apply State.pumpBulk_kept | apply Kept.each | intro _ | apply Kept.ite | apply Kept.ite_snd | apply Kept.ite_fst | split | dsimp only)

theorem State.sendData_kept {σ τ : State} (hk : Kept σ τ) (h : BitVec 32) (bs : List Byte) : Kept σ (State.sendData τ h bs) := by
  unfold State.sendData
  with_reducible repeat' (first | assumption | exact Kept.refl _ | apply State.modCmd_kept | apply State.modSess_kept | apply State.pumpBulk_kept | refine Kept.of_snd (by assumption) ?_ | refine Kept.of_snd2 (by assumption) ?_ | refine Kept.of_fst (by assumption) ?_ | refine Kept.of_some (by assumption) ?_ | intro _ | split | dsimp only)

theorem State.rawFrame_kept {σ τ : State} (hk : Kept σ τ) (p : Pkt) (type : Byte) (payload : List Byte) : Kept σ (State.rawFrame τ p type payload) := by
  unfold State.rawFrame
  with_reducible repeat' (first | assumption | exact Kept.refl _ | apply State.modFct_kept | apply State.countTx_kept | intro _ | dsimp only)

theorem State.closeSession_kept {σ τ : State} (hk : Kept σ τ) (i : Fin 64) : Kept σ (State.closeSession τ i) := by
  unfold State.closeSession
  with_reducible repeat' (first | assumption | exact Kept.refl _ | apply State.modFct_kept | apply State.modSess_kept | apply State.endCmd_kept | apply Kept.each | intro _ | apply Kept.ite | apply Kept.ite_snd | apply Kept.ite_fst | split | dsimp only)

theorem State.dropSetup_kept {σ τ : State} (hk : Kept σ τ) (i : Fin 64) : Kept σ (State.dropSetup τ i) := by
  unfold State.dropSetup
  with_reducible repeat' (first | assumption | exact Kept.refl _ | apply State.modFct_kept | apply State.modSess_kept | intro _ | dsimp only)

theorem State.countClass_kept {σ τ : State} (hk : Kept σ τ) (p : Pkt) : Kept σ (State.countClass τ p) := by
  unfold State.countClass
  with_reducible repeat' (first | assumption | exact Kept.refl _ | apply State.modEth_kept | refine Kept.of_snd (by assumption) ?_ | refine Kept.of_snd2 (by assumption) ?_ | refine Kept.of_fst (by assumption) ?_ | refine Kept.of_some (by assumption) ?_ | intro _ | split | dsimp only)

theorem State.followPfc_kept {σ τ : State} (hk : Kept σ τ) (port : PortId) : Kept σ (State.followPfc τ port) := by
  unfold State.followPfc
  with_reducible repeat' (first | assumption | exact Kept.refl _ | apply State.modEth_kept | apply State.sendOther_kept | intro _ | apply Kept.ite | apply Kept.ite_snd | apply Kept.ite_fst | split | dsimp only)

theorem State.buffer_kept {σ τ : State} (hk : Kept σ τ) (p : Pkt) : Kept σ (State.buffer τ p) := by
  unfold State.buffer
  with_reducible repeat' (first | assumption | exact Kept.refl _ | apply State.countClass_kept | apply State.modFct_kept | apply State.modRep_kept | apply State.followPfc_kept | refine Kept.of_snd (by assumption) ?_ | refine Kept.of_snd2 (by assumption) ?_ | refine Kept.of_fst (by assumption) ?_ | refine Kept.of_some (by assumption) ?_ | intro _ | apply Kept.ite | apply Kept.ite_snd | apply Kept.ite_fst | split | dsimp only)

theorem State.withPacket_kept {σ τ : State} (hk : Kept σ τ) (p : Pkt) (type : Byte) (f : State → State) (hf : ∀ (v0 : State), Kept σ v0 → Kept σ (f v0)) : Kept σ (State.withPacket τ p type f) := by
  unfold State.withPacket
  with_reducible repeat' (first | assumption | exact Kept.refl _ | apply State.countOther_kept | apply State.countClass_kept | apply State.buffer_kept | apply State.countRx_kept | apply hf | refine Kept.of_snd (by assumption) ?_ | refine Kept.of_snd2 (by assumption) ?_ | refine Kept.of_fst (by assumption) ?_ | refine Kept.of_some (by assumption) ?_ | intro _ | apply Kept.ite | apply Kept.ite_snd | apply Kept.ite_fst | split | dsimp only)

theorem State.withSession_kept {σ τ : State} (hk : Kept σ τ) (p : Pkt) (f : State → Fin 64 → State) (hf : ∀ (v0 : State) (v1 : Fin 64), Kept σ v0 → Kept σ (f v0 v1)) : Kept σ (State.withSession τ p f) := by
  unfold State.withSession
  with_reducible repeat' (first | assumption | exact Kept.refl _ | apply State.modSess_kept | apply State.modFct_kept | apply State.closeSession_kept | apply hf | refine Kept.of_snd (by assumption) ?_ | refine Kept.of_snd2 (by assumption) ?_ | refine Kept.of_fst (by assumption) ?_ | refine Kept.of_some (by assumption) ?_ | intro _ | apply Kept.ite | apply Kept.ite_snd | apply Kept.ite_fst | split | dsimp only)

theorem State.endReads_kept {σ τ : State} (hk : Kept σ τ) (i : Fin 64) : Kept σ (State.endReads τ i) := by
  unfold State.endReads
  with_reducible repeat' (first | assumption | exact Kept.refl _ | apply State.endCmd_kept | apply Kept.each | refine Kept.of_snd (by assumption) ?_ | refine Kept.of_snd2 (by assumption) ?_ | refine Kept.of_fst (by assumption) ?_ | refine Kept.of_some (by assumption) ?_ | intro _ | apply Kept.ite | apply Kept.ite_snd | apply Kept.ite_fst | split | dsimp only)

theorem State.freeReported_kept {σ τ : State} (hk : Kept σ τ) (i : Fin 64) (ackc : Word) : Kept σ (State.freeReported τ i ackc) := by
  unfold State.freeReported
  with_reducible repeat' (first | assumption | exact Kept.refl _ | apply State.modFct_kept | intro _ | apply Kept.ite | apply Kept.ite_snd | apply Kept.ite_fst | split | dsimp only)

theorem State.takeAcks_kept {σ τ : State} (hk : Kept σ τ) (i : Fin 64) (ackc ackb : Word) : Kept σ (State.takeAcks τ i ackc ackb) := by
  unfold State.takeAcks
  with_reducible repeat' (first | assumption | exact Kept.refl _ | apply State.freeReported_kept | apply State.modSess_kept | apply State.modCmd_kept | apply State.sendFrame_kept | apply State.endReads_kept | apply State.pumpBulk_kept | apply State.closeSession_kept | apply Kept.each | refine Kept.of_snd (by assumption) ?_ | refine Kept.of_snd2 (by assumption) ?_ | refine Kept.of_fst (by assumption) ?_ | refine Kept.of_some (by assumption) ?_ | intro _ | apply Kept.ite | apply Kept.ite_snd | apply Kept.ite_fst | split | dsimp only)

theorem State.ackBack_kept {σ τ : State} (hk : Kept σ τ) (i : Fin 64) (before : Nat) : Kept σ (State.ackBack τ i before) := by
  unfold State.ackBack
  with_reducible repeat' (first | assumption | exact Kept.refl _ | apply State.sendFrame_kept | intro _ | apply Kept.ite | apply Kept.ite_snd | apply Kept.ite_fst | split | dsimp only)

theorem State.ackPacket_kept {σ τ : State} (hk : Kept σ τ) (p : Pkt) : Kept σ (State.ackPacket τ p) := by
  unfold State.ackPacket
  with_reducible repeat' (first | assumption | exact Kept.refl _ | apply State.withPacket_kept | apply State.withSession_kept | apply State.takeAcks_kept | intro _ | dsimp only)

theorem State.randomBytes_kept {σ τ : State} (hk : Kept σ τ) (n : Nat) : Kept σ (State.randomBytes τ n).2 := by
  unfold State.randomBytes
  with_reducible repeat' (first | assumption | exact Kept.refl _ | apply State.fresh_kept | refine Kept.of_snd (by assumption) ?_ | refine Kept.of_snd2 (by assumption) ?_ | refine Kept.of_fst (by assumption) ?_ | refine Kept.of_some (by assumption) ?_ | intro _ | split | dsimp only | simp only [Kept.upd_iff])

theorem State.pickSid_kept {σ τ : State} (hk : Kept σ τ) : Kept σ (State.pickSid τ).2 := by
  unfold State.pickSid
  with_reducible repeat' (first | assumption | exact Kept.refl _ | apply State.fresh_kept | refine Kept.of_snd (by assumption) ?_ | refine Kept.of_snd2 (by assumption) ?_ | refine Kept.of_fst (by assumption) ?_ | refine Kept.of_some (by assumption) ?_ | intro _ | split | dsimp only | simp only [Kept.upd_iff])

theorem State.reject_kept {σ τ : State} (hk : Kept σ τ) (p : Pkt) (st : Status) : Kept σ (State.reject τ p st) := by
  unfold State.reject
  with_reducible repeat' (first | assumption | exact Kept.refl _ | apply State.modFct_kept | apply State.rawFrame_kept | intro _ | apply Kept.ite | apply Kept.ite_snd | apply Kept.ite_fst | split | dsimp only)

theorem State.startSetup_kept {σ τ : State} (hk : Kept σ τ) (p : Pkt) (h : Hello) (i : Fin 64) (key : Fin 8 × Bool) (quota : Nat) : Kept σ (State.startSetup τ p h i key quota) := by
  unfold State.startSetup
  with_reducible repeat' (first | assumption | exact Kept.refl _ | apply State.pickSid_kept | apply State.randomBytes_kept | apply State.fresh_kept | apply State.modFct_kept | apply State.modSess_kept | apply State.sendFrame_kept | refine Kept.of_snd (by assumption) ?_ | refine Kept.of_snd2 (by assumption) ?_ | refine Kept.of_fst (by assumption) ?_ | refine Kept.of_some (by assumption) ?_ | intro _ | split | dsimp only | simp only [Kept.upd_iff])

theorem State.hello_kept {σ τ : State} (hk : Kept σ τ) (p : Pkt) : Kept σ (State.hello τ p) := by
  unfold State.hello
  with_reducible repeat' (first | assumption | exact Kept.refl _ | apply State.withPacket_kept | apply State.modSess_kept | apply State.sendFrame_kept | apply State.reject_kept | apply State.startSetup_kept | refine Kept.of_snd (by assumption) ?_ | refine Kept.of_snd2 (by assumption) ?_ | refine Kept.of_fst (by assumption) ?_ | refine Kept.of_some (by assumption) ?_ | intro _ | apply Kept.ite | apply Kept.ite_snd | apply Kept.ite_fst | split | dsimp only)

theorem State.finishSetup_kept {σ τ : State} (hk : Kept σ τ) (p : Pkt) : Kept σ (State.finishSetup τ p) := by
  unfold State.finishSetup
  with_reducible repeat' (first | assumption | exact Kept.refl _ | apply State.withPacket_kept | apply State.hello_kept | apply State.modSess_kept | apply State.sendFrame_kept | apply State.dropSetup_kept | apply State.reject_kept | refine Kept.of_snd (by assumption) ?_ | refine Kept.of_snd2 (by assumption) ?_ | refine Kept.of_fst (by assumption) ?_ | refine Kept.of_some (by assumption) ?_ | intro _ | apply Kept.ite | apply Kept.ite_snd | apply Kept.ite_fst | split | dsimp only)

theorem State.takeHandle_kept {σ τ : State} (hk : Kept σ τ) (i : Fin 64) : Kept σ (State.takeHandle τ i).2 := by
  unfold State.takeHandle
  with_reducible repeat' (first | assumption | exact Kept.refl _ | apply State.modFct_kept | refine Kept.of_snd (by assumption) ?_ | refine Kept.of_snd2 (by assumption) ?_ | refine Kept.of_fst (by assumption) ?_ | refine Kept.of_some (by assumption) ?_ | intro _ | apply Kept.ite | apply Kept.ite_snd | apply Kept.ite_fst | split | dsimp only)

theorem State.acceptCmd_kept {σ τ : State} (hk : Kept σ τ) (i : Fin 64) (b : List Byte) : Kept σ (State.acceptCmd τ i b) := by
  unfold State.acceptCmd
  with_reducible repeat' (first | assumption | exact Kept.refl _ | apply State.modSess_kept | apply State.takeHandle_kept | apply State.modSlot_kept | apply State.queueControl_kept | apply State.modFct_kept | apply State.endCmd_kept | apply State.freezeSession_kept | refine Kept.of_snd (by assumption) ?_ | refine Kept.of_snd2 (by assumption) ?_ | refine Kept.of_fst (by assumption) ?_ | refine Kept.of_some (by assumption) ?_ | intro _ | apply Kept.ite | apply Kept.ite_snd | apply Kept.ite_fst | split | dsimp only)

theorem State.controlPacket_kept {σ τ : State} (hk : Kept σ τ) (p : Pkt) : Kept σ (State.controlPacket τ p) := by
  unfold State.controlPacket
  with_reducible repeat' (first | assumption | exact Kept.refl _ | apply State.withPacket_kept | apply State.withSession_kept | apply State.takeAcks_kept | apply State.ackBack_kept | apply State.modSess_kept | apply State.freezeSession_kept | apply State.acceptCmd_kept | apply Kept.each | refine Kept.of_snd (by assumption) ?_ | refine Kept.of_snd2 (by assumption) ?_ | refine Kept.of_fst (by assumption) ?_ | refine Kept.of_some (by assumption) ?_ | intro _ | apply Kept.ite | apply Kept.ite_snd | apply Kept.ite_fst | split | dsimp only)

theorem State.performWrite_kept {σ τ : State} (hk : Kept σ τ) (c : HCmd) (off : Nat) (bs : List Byte) : Kept σ (State.performWrite τ c off bs) := by
  unfold State.performWrite
  with_reducible repeat' (first | assumption | exact Kept.refl _ | apply State.store_kept | apply State.endCmd_kept | intro _ | apply Kept.ite | apply Kept.ite_snd | apply Kept.ite_fst | split | dsimp only)

theorem State.takeData_kept {σ τ : State} (hk : Kept σ τ) (c : HCmd) (off : Nat) (bs : List Byte) : Kept σ (State.takeData τ c off bs) := by
  unfold State.takeData
  with_reducible repeat' (first | assumption | exact Kept.refl _ | apply State.endCmd_kept | apply State.modCmd_kept | apply State.performWrite_kept | refine Kept.of_snd (by assumption) ?_ | refine Kept.of_snd2 (by assumption) ?_ | refine Kept.of_fst (by assumption) ?_ | refine Kept.of_some (by assumption) ?_ | intro _ | apply Kept.ite | apply Kept.ite_snd | apply Kept.ite_fst | split | dsimp only)

theorem State.dataPacket_kept {σ τ : State} (hk : Kept σ τ) (p : Pkt) : Kept σ (State.dataPacket τ p) := by
  unfold State.dataPacket
  with_reducible repeat' (first | assumption | exact Kept.refl _ | apply State.withPacket_kept | apply State.withSession_kept | apply State.takeAcks_kept | apply State.ackBack_kept | apply State.modSess_kept | apply State.takeData_kept | refine Kept.of_snd (by assumption) ?_ | refine Kept.of_snd2 (by assumption) ?_ | refine Kept.of_fst (by assumption) ?_ | refine Kept.of_some (by assumption) ?_ | intro _ | apply Kept.ite | apply Kept.ite_snd | apply Kept.ite_fst | split | dsimp only)

/-! ### Hasp.lean -/

theorem State.unqueue_kept {σ τ : State} (hk : Kept σ τ) (h : BitVec 32) : Kept σ (State.unqueue τ h) := by
  unfold State.unqueue
  with_reducible repeat' (first | assumption | exact Kept.refl _ | apply State.modEsp_kept | intro _ | dsimp only)

theorem State.abortCmd_kept {σ τ : State} (hk : Kept σ τ) (c : HCmd) : Kept σ (State.abortCmd τ c) := by
  unfold State.abortCmd
  with_reducible repeat' (first | assumption | exact Kept.refl _ | apply State.modSess_kept | apply State.unqueue_kept | apply State.endCmd_kept | refine Kept.of_snd (by assumption) ?_ | refine Kept.of_snd2 (by assumption) ?_ | refine Kept.of_fst (by assumption) ?_ | refine Kept.of_some (by assumption) ?_ | intro _ | apply Kept.ite | apply Kept.ite_snd | apply Kept.ite_fst | split | dsimp only)

theorem State.stopPart_kept {σ τ : State} (hk : Kept σ τ) (p : PartId) : Kept σ (State.stopPart τ p) := by
  unfold State.stopPart
  with_reducible repeat' (first | assumption | exact Kept.refl _ | apply State.stopOps_kept | apply State.abortCmd_kept | apply Kept.each | intro _ | dsimp only)

theorem State.resumePart_kept {σ τ : State} (hk : Kept σ τ) (p : PartId) : Kept σ (State.resumePart τ p) := by
  unfold State.resumePart
  with_reducible repeat' (first | assumption | exact Kept.refl _ | apply State.pumpBulk_kept | apply State.releaseWaiting_kept | apply Kept.each | refine Kept.of_snd (by assumption) ?_ | refine Kept.of_snd2 (by assumption) ?_ | refine Kept.of_fst (by assumption) ?_ | refine Kept.of_some (by assumption) ?_ | intro _ | apply Kept.ite | apply Kept.ite_snd | apply Kept.ite_fst | split | dsimp only)

theorem State.setSrc_kept {σ τ : State} (hk : Kept σ τ) (p : PartId) (src : BitVec 4) (hid : Option (BitVec 32)) : Kept σ (State.setSrc τ p src hid) := by
  unfold State.setSrc
  with_reducible repeat' (first | assumption | exact Kept.refl _ | apply State.modPart_kept | apply State.notify_kept | apply State.stopPart_kept | apply State.resumePart_kept | refine Kept.of_snd (by assumption) ?_ | refine Kept.of_snd2 (by assumption) ?_ | refine Kept.of_fst (by assumption) ?_ | refine Kept.of_some (by assumption) ?_ | intro _ | apply Kept.ite | apply Kept.ite_snd | apply Kept.ite_fst | split | dsimp only)

theorem State.srcBit_kept {σ τ : State} (hk : Kept σ τ) (p : PartId) (bit : Nat) (on : Bool) (hid : Option (BitVec 32)) : Kept σ (State.srcBit τ p bit on hid) := by
  unfold State.srcBit
  with_reducible repeat' (first | assumption | exact Kept.refl _ | apply State.setSrc_kept | refine Kept.of_snd (by assumption) ?_ | refine Kept.of_snd2 (by assumption) ?_ | refine Kept.of_fst (by assumption) ?_ | refine Kept.of_some (by assumption) ?_ | intro _ | apply Kept.ite | apply Kept.ite_snd | apply Kept.ite_fst | split | dsimp only)

theorem State.haspMsg_kept {σ τ : State} (hk : Kept σ τ) (l : LinkId) (vc : BitVec 1) (data : List Byte) : Kept σ (State.haspMsg τ l vc data) := by
  unfold State.haspMsg
  with_reducible repeat' (first | assumption | exact Kept.refl _ | apply State.enqueue_kept | intro _ | dsimp only)

theorem State.spreadHasp_kept {σ τ : State} (hk : Kept σ τ) (action target radius : Nat) (hid : BitVec 32) (origin : Nat) (except' : Option LinkId) : Kept σ (State.spreadHasp τ action target radius hid origin except') := by
  unfold State.spreadHasp
  with_reducible repeat' (first | assumption | exact Kept.refl _ | apply State.haspMsg_kept | apply Kept.each | intro _ | apply Kept.ite | apply Kept.ite_snd | apply Kept.ite_fst | split | dsimp only)

theorem State.seeHid_kept {σ τ : State} (hk : Kept σ τ) (hid : BitVec 32) : Kept σ (State.seeHid τ hid) := by
  unfold State.seeHid
  with_reducible repeat' (first | assumption | exact Kept.refl _ | apply State.modFab_kept | intro _ | dsimp only)

theorem State.haspAck_kept {σ τ : State} (hk : Kept σ τ) (i : Fin 64) (seq : Word) (hid : BitVec 32) (result : Nat) (bits : Nat) : Kept σ (State.haspAck τ i seq hid result bits) := by
  unfold State.haspAck
  with_reducible repeat' (first | assumption | exact Kept.refl _ | apply State.sendFrame_kept | intro _ | dsimp only)

theorem State.sessionHasp_kept {σ τ : State} (hk : Kept σ τ) (i : Fin 64) (stop : Bool) : Kept σ (State.sessionHasp τ i stop) := by
  unfold State.sessionHasp
  with_reducible repeat' (first | assumption | exact Kept.refl _ | apply State.modSess_kept | apply State.abortCmd_kept | apply State.pumpBulk_kept | apply Kept.each | intro _ | apply Kept.ite | apply Kept.ite_snd | apply Kept.ite_fst | split | dsimp only)

theorem State.actHasp_kept {σ τ : State} (hk : Kept σ τ) (i : Fin 64) (seq : Word) (b : List Byte) : Kept σ (State.actHasp τ i seq b) := by
  unfold State.actHasp
  with_reducible repeat' (first | assumption | exact Kept.refl _ | apply State.modSess_kept | apply State.modFct_kept | apply State.haspAck_kept | apply State.sessionHasp_kept | apply State.seeHid_kept | apply State.srcBit_kept | apply State.spreadHasp_kept | apply Kept.each | refine Kept.of_snd (by assumption) ?_ | refine Kept.of_snd2 (by assumption) ?_ | refine Kept.of_fst (by assumption) ?_ | refine Kept.of_some (by assumption) ?_ | intro _ | apply Kept.ite | apply Kept.ite_snd | apply Kept.ite_fst | split | dsimp only)

theorem State.haspPacket_kept {σ τ : State} (hk : Kept σ τ) (p : Pkt) (release : Bool) : Kept σ (State.haspPacket τ p release) := by
  unfold State.haspPacket
  with_reducible repeat' (first | assumption | exact Kept.refl _ | apply State.withPacket_kept | apply State.withSession_kept | apply State.haspAck_kept | apply State.actHasp_kept | refine Kept.of_snd (by assumption) ?_ | refine Kept.of_snd2 (by assumption) ?_ | refine Kept.of_fst (by assumption) ?_ | refine Kept.of_some (by assumption) ?_ | intro _ | apply Kept.ite | apply Kept.ite_snd | apply Kept.ite_fst | split | dsimp only)

theorem State.syncHold_kept {σ τ : State} (hk : Kept σ τ) : Kept σ (State.syncHold τ) := by
  unfold State.syncHold
  with_reducible repeat' (first | assumption | exact Kept.refl _ | apply State.srcBit_kept | apply Kept.each | intro _ | apply Kept.ite | apply Kept.ite_snd | apply Kept.ite_fst | split | dsimp only)

theorem State.setHold_kept {σ τ : State} (hk : Kept σ τ) (n : PortId) (high : Bool) : Kept σ (State.setHold τ n high) := by
  unfold State.setHold
  with_reducible repeat' (first | assumption | exact Kept.refl _ | apply State.modPwr_kept | apply State.syncHold_kept | intro _ | dsimp only)

/-! ### HostBase.lean -/

theorem State.withCmd_kept {σ τ : State} (hk : Kept σ τ) (h : BitVec 32) (opc : Nat) (f : State → HCmd → State) (hf : ∀ (v0 : State) (v1 : HCmd), Kept σ v0 → Kept σ (f v0 v1)) : Kept σ (State.withCmd τ h opc f) := by
  unfold State.withCmd
  with_reducible repeat' (first | assumption | exact Kept.refl _ | apply hf | refine Kept.of_snd (by assumption) ?_ | refine Kept.of_snd2 (by assumption) ?_ | refine Kept.of_fst (by assumption) ?_ | refine Kept.of_some (by assumption) ?_ | intro _ | split | dsimp only)

theorem State.inTurn_kept {σ τ : State} (hk : Kept σ τ) (h : BitVec 32) (opc : Nat) (f : State → HCmd → State) (hf : ∀ (v0 : State) (v1 : HCmd), Kept σ v0 → Kept σ (f v0 v1)) : Kept σ (State.inTurn τ h opc f) := by
  unfold State.inTurn
  with_reducible repeat' (first | assumption | exact Kept.refl _ | apply State.unqueue_kept | apply State.withCmd_kept | apply State.modCmd_kept | apply State.modEsp_kept | apply hf | refine Kept.of_snd (by assumption) ?_ | refine Kept.of_snd2 (by assumption) ?_ | refine Kept.of_fst (by assumption) ?_ | refine Kept.of_some (by assumption) ?_ | intro _ | apply Kept.ite | apply Kept.ite_snd | apply Kept.ite_fst | split | dsimp only)

theorem State.refuseCmd_kept {σ τ : State} (hk : Kept σ τ) (h : BitVec 32) (cause : Nat) : Kept σ (State.refuseCmd τ h cause) := by
  unfold State.refuseCmd
  with_reducible repeat' (first | assumption | exact Kept.refl _ | apply State.endCmd_kept | intro _ | dsimp only)

theorem State.endHold_kept {σ τ : State} (hk : Kept σ τ) (p : PartId) (gone : Bool) : Kept σ (State.endHold τ p gone) := by
  unfold State.endHold
  with_reducible repeat' (first | assumption | exact Kept.refl _ | apply State.endCmd_kept | apply State.modCmd_kept | apply Kept.each | intro _ | apply Kept.ite | apply Kept.ite_snd | apply Kept.ite_fst | split | dsimp only)

/-! ### Firmware.lean -/

theorem State.fwDone_kept {σ τ : State} (hk : Kept σ τ) (h : BitVec 32) : Kept σ (State.fwDone τ h) := by
  unfold State.fwDone
  with_reducible repeat' (first | assumption | exact Kept.refl _ | apply State.modRep_kept | apply State.ledger_kept | apply State.endCmd_kept | refine Kept.of_snd (by assumption) ?_ | refine Kept.of_snd2 (by assumption) ?_ | refine Kept.of_fst (by assumption) ?_ | refine Kept.of_some (by assumption) ?_ | intro _ | split | dsimp only)

theorem State.fwRevert_kept {σ τ : State} (hk : Kept σ τ) (h : BitVec 32) : Kept σ (State.fwRevert τ h) := by
  unfold State.fwRevert
  with_reducible repeat' (first | assumption | exact Kept.refl _ | apply State.modRep_kept | apply State.modSec_kept | apply State.refuseCmd_kept | intro _ | exact ⟨rfl, rfl, rfl, rfl⟩ | dsimp only)

theorem State.pctlLoad_kept {σ τ : State} (hk : Kept σ τ) (p : PartId) : Kept σ (State.pctlLoad τ p) := by
  unfold State.pctlLoad
  with_reducible repeat' (first | assumption | exact Kept.refl _ | apply State.fresh_kept | apply State.fwRevert_kept | apply State.modRep_kept | apply State.fwDone_kept | refine Kept.of_snd (by assumption) ?_ | refine Kept.of_snd2 (by assumption) ?_ | refine Kept.of_fst (by assumption) ?_ | refine Kept.of_some (by assumption) ?_ | intro _ | apply Kept.ite | apply Kept.ite_snd | apply Kept.ite_fst | split | dsimp only | simp only [Kept.upd_iff])

theorem State.fwActivate_kept {σ τ : State} (hk : Kept σ τ) (c : HCmd) (selfTest : Bool) : Kept σ (State.fwActivate τ c selfTest) := by
  unfold State.fwActivate
  with_reducible repeat' (first | assumption | exact Kept.refl _ | apply State.modRep_kept | apply State.fwDone_kept | apply State.modSec_kept | apply State.refuseCmd_kept | apply State.modCmd_kept | intro _ | apply Kept.ite | apply Kept.ite_snd | apply Kept.ite_fst | exact ⟨rfl, rfl, rfl, rfl⟩ | split | dsimp only)

/-! ### Partition.lean -/

theorem State.fenceStep_kept {σ τ : State} (hk : Kept σ τ) (p : PartId) : Kept σ (State.fenceStep τ p) := by
  unfold State.fenceStep
  with_reducible repeat' (first | assumption | exact Kept.refl _ | apply State.modCore_kept | apply Kept.each | intro _ | dsimp only)

theorem State.unfence_kept {σ τ : State} (hk : Kept σ τ) (p : PartId) : Kept σ (State.unfence τ p) := by
  unfold State.unfence
  with_reducible repeat' (first | assumption | exact Kept.refl _ | apply State.modCore_kept | apply Kept.each | intro _ | dsimp only)

theorem State.openStep_kept {σ τ : State} (hk : Kept σ τ) (p : PartId) : Kept σ (State.openStep τ p) := by
  unfold State.openStep
  with_reducible repeat' (first | assumption | exact Kept.refl _ | apply State.unfence_kept | apply State.modPart_kept | apply State.stage_kept | intro _ | dsimp only)

theorem State.endStep_kept {σ τ : State} (hk : Kept σ τ) (m : Master) (p : PartId) (v : Word) : Kept σ (State.endStep τ m p v) := by
  unfold State.endStep
  with_reducible repeat' (first | assumption | exact Kept.refl _ | apply State.fenceStep_kept | apply State.modPart_kept | apply State.modBound_kept | refine Kept.of_snd (by assumption) ?_ | refine Kept.of_snd2 (by assumption) ?_ | refine Kept.of_fst (by assumption) ?_ | refine Kept.of_some (by assumption) ?_ | intro _ | apply Kept.ite | apply Kept.ite_snd | apply Kept.ite_fst | split | dsimp only)

theorem State.failEntry_kept {σ τ : State} (hk : Kept σ τ) (p : PartId) (e : BEntry) : Kept σ (State.failEntry τ p e) := by
  unfold State.failEntry
  with_reducible repeat' (first | assumption | exact Kept.refl _ | apply State.store_kept | apply State.modReg_kept | refine Kept.of_snd (by assumption) ?_ | refine Kept.of_snd2 (by assumption) ?_ | refine Kept.of_fst (by assumption) ?_ | refine Kept.of_some (by assumption) ?_ | intro _ | apply Kept.ite | apply Kept.ite_snd | apply Kept.ite_fst | split | dsimp only)

theorem State.readList_kept {σ τ : State} (hk : Kept σ τ) (p : PartId) (bad : BadSectors) : Kept σ (State.readList τ p bad) := by
  unfold State.readList
  with_reducible repeat' (first | assumption | exact Kept.refl _ | apply State.modBound_kept | apply State.stage_kept | apply State.failEntry_kept | apply Kept.each | refine Kept.of_snd (by assumption) ?_ | refine Kept.of_snd2 (by assumption) ?_ | refine Kept.of_fst (by assumption) ?_ | refine Kept.of_some (by assumption) ?_ | intro _ | apply Kept.ite | apply Kept.ite_snd | apply Kept.ite_fst | split | dsimp only)

theorem State.issueEntry_kept {σ τ : State} (hk : Kept σ τ) (p : PartId) (out : Nat) (e : BEntry) : Kept σ (State.issueEntry τ p out e) := by
  unfold State.issueEntry
  with_reducible repeat' (first | assumption | exact Kept.refl _ | apply State.modCore_kept | apply State.modBound_kept | refine Kept.of_snd (by assumption) ?_ | refine Kept.of_snd2 (by assumption) ?_ | refine Kept.of_fst (by assumption) ?_ | refine Kept.of_some (by assumption) ?_ | intro _ | apply Kept.ite | apply Kept.ite_snd | apply Kept.ite_fst | split | dsimp only)

theorem State.issueStage_kept {σ τ : State} (hk : Kept σ τ) (p : PartId) : Kept σ (State.issueStage τ p) := by
  unfold State.issueStage
  with_reducible repeat' (first | assumption | exact Kept.refl _ | apply State.stage_kept | apply State.issueEntry_kept | apply State.modBound_kept | apply Kept.foldl_snd | apply Kept.foldl_fst | apply Kept.foldl_drained | apply Kept.foldl_vecOut | apply Kept.foldl_chunkSum | apply Kept.foldl_kvRun | apply Kept.foldl_vec | refine Kept.of_snd (by assumption) ?_ | refine Kept.of_snd2 (by assumption) ?_ | refine Kept.of_fst (by assumption) ?_ | refine Kept.of_some (by assumption) ?_ | intro _ | apply Kept.ite | apply Kept.ite_snd | apply Kept.ite_fst | split | dsimp only)

theorem State.takeBundle_kept {σ τ : State} (hk : Kept σ τ) (p : PartId) (bad : BadSectors) : Kept σ (State.takeBundle τ p bad) := by
  unfold State.takeBundle
  with_reducible repeat' (first | assumption | exact Kept.refl _ | apply State.modBound_kept | refine State.grant_kept (by assumption) ?_ | apply Kept.foldl_snd | apply Kept.foldl_fst | apply Kept.foldl_drained | apply Kept.foldl_vecOut | apply Kept.foldl_chunkSum | apply Kept.foldl_kvRun | apply Kept.foldl_vec | refine Kept.of_snd (by assumption) ?_ | refine Kept.of_snd2 (by assumption) ?_ | refine Kept.of_fst (by assumption) ?_ | refine Kept.of_some (by assumption) ?_ | intro _ | apply Kept.ite | apply Kept.ite_snd | apply Kept.ite_fst | split | dsimp only)

theorem State.endBundle_kept {σ τ : State} (hk : Kept σ τ) (p : PartId) : Kept σ (State.endBundle τ p) := by
  unfold State.endBundle
  with_reducible repeat' (first | assumption | exact Kept.refl _ | apply State.modKv_kept | apply State.modBound_kept | intro _ | dsimp only)

theorem State.setMaps_kept {σ τ : State} (hk : Kept σ τ) (c : CoreId) (act ret : Bool) : Kept σ (State.setMaps τ c act ret) := by
  unfold State.setMaps
  with_reducible repeat' (first | assumption | exact Kept.refl _ | intro _ | dsimp only | simp only [Kept.upd_iff])

theorem State.setSubst_kept {σ τ : State} (hk : Kept σ τ) (c : CoreId) (spare : Option CoreId) : Kept σ (State.setSubst τ c spare) := by
  unfold State.setSubst
  with_reducible repeat' (first | assumption | exact Kept.refl _ | refine Kept.of_snd (by assumption) ?_ | refine Kept.of_snd2 (by assumption) ?_ | refine Kept.of_fst (by assumption) ?_ | refine Kept.of_some (by assumption) ?_ | intro _ | apply Kept.ite | apply Kept.ite_snd | apply Kept.ite_fst | split | dsimp only | simp only [Kept.upd_iff])

theorem State.ilCore_kept {σ τ : State} (hk : Kept σ τ) (p : PartId) (c : CoreId) : Kept σ (State.ilCore τ p c) := by
  unfold State.ilCore
  with_reducible repeat' (first | assumption | exact Kept.refl _ | apply State.modReg_kept | apply State.modSts_kept | intro _ | apply Kept.ite | apply Kept.ite_snd | apply Kept.ite_fst | split | dsimp only)

theorem State.dropHostOps_kept {σ τ : State} (hk : Kept σ τ) (c : CoreId) : Kept σ (State.dropHostOps τ c) := by
  unfold State.dropHostOps
  with_reducible repeat' (first | assumption | exact Kept.refl _ | apply State.endCmd_kept | apply Kept.each | refine Kept.of_snd (by assumption) ?_ | refine Kept.of_snd2 (by assumption) ?_ | refine Kept.of_fst (by assumption) ?_ | refine Kept.of_some (by assumption) ?_ | intro _ | split | dsimp only)

theorem State.zeroSlot_kept {σ τ : State} (hk : Kept σ τ) (c : CoreId) : Kept σ (State.zeroSlot τ c) := by
  unfold State.zeroSlot
  with_reducible repeat' (first | assumption | exact Kept.refl _ | apply State.zero_kept | intro _ | dsimp only | simp only [Kept.upd_iff])

theorem State.damageSlices_kept {σ τ : State} (hk : Kept σ τ) (c : CoreId) (hit : Nat → Nat → Bool) : Kept σ (State.damageSlices τ c hit) := by
  unfold State.damageSlices
  with_reducible repeat' (first | assumption | exact Kept.refl _ | apply State.damage_kept | apply Kept.each | intro _ | dsimp only)

theorem State.substitute_kept {σ τ : State} (hk : Kept σ τ) (c x : CoreId) (bad : BadSectors) : Kept σ (State.substitute τ c x bad) := by
  unfold State.substitute
  with_reducible repeat' (first | assumption | exact Kept.refl _ | apply State.damageSlices_kept | apply State.zero_kept | apply State.setCore_kept | apply State.setMaps_kept | apply State.setSubst_kept | apply State.noteRetired_kept | refine Kept.of_snd (by assumption) ?_ | refine Kept.of_snd2 (by assumption) ?_ | refine Kept.of_fst (by assumption) ?_ | refine Kept.of_some (by assumption) ?_ | intro _ | apply Kept.ite | apply Kept.ite_snd | apply Kept.ite_fst | split | dsimp only | simp only [Kept.upd_iff])

theorem State.shorten_kept {σ τ : State} (hk : Kept σ τ) (c : CoreId) : Kept σ (State.shorten τ c) := by
  unfold State.shorten
  with_reducible repeat' (first | assumption | exact Kept.refl _ | apply State.damageSlices_kept | apply State.dropHostOps_kept | apply State.setCore_kept | apply State.modRep_kept | apply State.setMaps_kept | apply State.modPart_kept | apply State.setSubst_kept | apply State.noteRetired_kept | refine Kept.of_snd (by assumption) ?_ | refine Kept.of_snd2 (by assumption) ?_ | refine Kept.of_fst (by assumption) ?_ | refine Kept.of_some (by assumption) ?_ | intro _ | apply Kept.ite | apply Kept.ite_snd | apply Kept.ite_fst | split | dsimp only | simp only [Kept.upd_iff])

theorem State.genDue_kept {σ τ : State} (hk : Kept σ τ) (p : PartId) : Kept σ (State.genDue τ p) := by
  unfold State.genDue
  with_reducible repeat' (first | assumption | exact Kept.refl _ | apply State.modBound_kept | intro _ | dsimp only)

theorem State.hingeSubst_kept {σ τ : State} (hk : Kept σ τ) (p : PartId) (bad : BadSectors) : Kept σ (State.hingeSubst τ p bad) := by
  unfold State.hingeSubst
  with_reducible repeat' (first | assumption | exact Kept.refl _ | apply State.substitute_kept | apply State.shorten_kept | apply State.genDue_kept | apply Kept.each | refine Kept.of_snd (by assumption) ?_ | refine Kept.of_snd2 (by assumption) ?_ | refine Kept.of_fst (by assumption) ?_ | refine Kept.of_some (by assumption) ?_ | intro _ | split | dsimp only)

theorem State.hingeBypass_kept {σ τ : State} (hk : Kept σ τ) (p : PartId) : Kept σ (State.hingeBypass τ p) := by
  unfold State.hingeBypass
  with_reducible repeat' (first | assumption | exact Kept.refl _ | apply State.modArr_kept | apply State.noteRetired_kept | apply Kept.each | refine Kept.of_snd (by assumption) ?_ | refine Kept.of_snd2 (by assumption) ?_ | refine Kept.of_fst (by assumption) ?_ | refine Kept.of_some (by assumption) ?_ | intro _ | apply Kept.ite | apply Kept.ite_snd | apply Kept.ite_fst | split | dsimp only)

theorem State.lendCore_kept {σ τ : State} (hk : Kept σ τ) (d : PartId) (c n : CoreId) : Kept σ (State.lendCore τ d c n) := by
  unfold State.lendCore
  with_reducible repeat' (first | assumption | exact Kept.refl _ | apply State.dropHostOps_kept | apply State.idleThread_kept | apply State.setCore_kept | apply State.zeroSlot_kept | apply State.modPart_kept | apply State.modRep_kept | apply Kept.each | intro _ | dsimp only | simp only [Kept.upd_iff])

theorem State.hingeLend_kept {σ τ ω : State} {d : PartId} (ek : State.hingeLend τ d = some ω) (hk : Kept σ τ) : Kept σ ω := by
  unfold State.hingeLend at ek
  repeat' (first | split at ek | (injection ek with ek; subst ek) | cases ek | dsimp only at ek)
  all_goals with_reducible repeat' (first | assumption | exact Kept.refl _ | apply State.lendCore_kept | refine Kept.of_snd (by assumption) ?_ | refine Kept.of_snd2 (by assumption) ?_ | refine Kept.of_fst (by assumption) ?_ | refine Kept.of_some (by assumption) ?_ | intro _ | apply Kept.ite | apply Kept.ite_snd | apply Kept.ite_fst | split | dsimp only)

theorem State.hingeTake_kept {σ τ : State} (hk : Kept σ τ) (p : PartId) : Kept σ (State.hingeTake τ p) := by
  unfold State.hingeTake
  with_reducible repeat' (first | assumption | exact Kept.refl _ | apply State.setCore_kept | apply State.zeroSlot_kept | apply State.setSubst_kept | apply State.modPart_kept | apply State.modRep_kept | apply State.ilCore_kept | apply State.genDue_kept | apply Kept.each | refine Kept.of_snd (by assumption) ?_ | refine Kept.of_snd2 (by assumption) ?_ | refine Kept.of_fst (by assumption) ?_ | refine Kept.of_some (by assumption) ?_ | intro _ | split | dsimp only | simp only [Kept.upd_iff])

theorem State.hingeHome_kept {σ τ : State} (hk : Kept σ τ) (p : PartId) : Kept σ (State.hingeHome τ p) := by
  unfold State.hingeHome
  with_reducible repeat' (first | assumption | exact Kept.refl _ | apply State.setSeq_kept | apply Kept.each | refine Kept.of_snd (by assumption) ?_ | refine Kept.of_snd2 (by assumption) ?_ | refine Kept.of_fst (by assumption) ?_ | refine Kept.of_some (by assumption) ?_ | intro _ | apply Kept.ite | apply Kept.ite_snd | apply Kept.ite_fst | split | dsimp only)

theorem State.flushAll_kept {σ τ : State} (hk : Kept σ τ) (p : PartId) (bad : BadSectors) : Kept σ (State.flushAll τ p bad) := by
  unfold State.flushAll
  with_reducible repeat' (first | assumption | exact Kept.refl _ | apply State.markPunnet_kept | apply State.flushLine_kept | apply Kept.each | intro _ | dsimp only)

theorem State.hingeEnd_kept {σ τ : State} (hk : Kept σ τ) (p : PartId) : Kept σ (State.hingeEnd τ p) := by
  unfold State.hingeEnd
  with_reducible repeat' (first | assumption | exact Kept.refl _ | apply State.genDue_kept | apply State.ledger_kept | apply State.modBound_kept | apply State.hingeHome_kept | apply State.modPart_kept | apply State.pctlLoad_kept | apply State.unfence_kept | apply State.openStep_kept | intro _ | apply Kept.ite | apply Kept.ite_snd | apply Kept.ite_fst | split | dsimp only | simp only [Kept.upd_iff])

theorem State.hingeActs_kept {σ τ : State} (hk : Kept σ τ) (p : PartId) (bad : BadSectors) : Kept σ (State.hingeActs τ p bad) := by
  unfold State.hingeActs
  with_reducible repeat' (first | assumption | exact Kept.refl _ | apply State.hingeSubst_kept | apply State.hingeBypass_kept | refine State.hingeLend_kept (by assumption) ?_ | apply State.modPart_kept | apply State.hingeTake_kept | apply State.hingeEnd_kept | refine Kept.of_snd (by assumption) ?_ | refine Kept.of_snd2 (by assumption) ?_ | refine Kept.of_fst (by assumption) ?_ | refine Kept.of_some (by assumption) ?_ | intro _ | split | dsimp only)

theorem State.stepCycles_kept {σ τ : State} (hk : Kept σ τ) (p : PartId) : Kept σ (State.stepCycles τ p).2 := by
  unfold State.stepCycles
  with_reducible repeat' (first | assumption | exact Kept.refl _ | apply State.cycles_kept | refine Kept.of_snd (by assumption) ?_ | refine Kept.of_snd2 (by assumption) ?_ | refine Kept.of_fst (by assumption) ?_ | refine Kept.of_some (by assumption) ?_ | intro _ | apply Kept.ite | apply Kept.ite_snd | apply Kept.ite_fst | split | dsimp only)

theorem State.endBoundary_kept {σ τ : State} (hk : Kept σ τ) (p : PartId) (bad : BadSectors) : Kept σ (State.endBoundary τ p bad) := by
  unfold State.endBoundary
  with_reducible repeat' (first | assumption | exact Kept.refl _ | apply State.flushAll_kept | apply State.modPart_kept | apply State.stage_kept | apply State.openStep_kept | intro _ | apply Kept.ite | apply Kept.ite_snd | apply Kept.ite_fst | split | dsimp only)

theorem State.nextStage_kept {σ τ : State} (hk : Kept σ τ) (p : PartId) (bad : BadSectors) : Kept σ (State.nextStage τ p bad) := by
  unfold State.nextStage
  with_reducible repeat' (first | assumption | exact Kept.refl _ | apply State.endBundle_kept | apply State.stage_kept | apply State.takeBundle_kept | apply State.issueStage_kept | apply State.endBoundary_kept | apply State.modBound_kept | intro _ | apply Kept.ite | apply Kept.ite_snd | apply Kept.ite_fst | split | dsimp only)

theorem State.stopEnding_kept {σ τ : State} (hk : Kept σ τ) (p : PartId) : Kept σ (State.stopEnding τ p) := by
  unfold State.stopEnding
  with_reducible repeat' (first | assumption | exact Kept.refl _ | apply State.stopOps_kept | apply State.finish_kept | apply Kept.each | refine Kept.of_snd (by assumption) ?_ | refine Kept.of_snd2 (by assumption) ?_ | refine Kept.of_fst (by assumption) ?_ | refine Kept.of_some (by assumption) ?_ | intro _ | apply Kept.ite | apply Kept.ite_snd | apply Kept.ite_fst | split | dsimp only)

theorem State.freeLeaseSlot_kept {σ τ : State} (hk : Kept σ τ) (p : PartId) (i : Fin 64) : Kept σ (State.freeLeaseSlot τ p i) := by
  unfold State.freeLeaseSlot
  with_reducible repeat' (first | assumption | exact Kept.refl _ | apply State.modPart_kept | intro _ | dsimp only)

/-! ### Image.lean -/

theorem State.setNearRate_kept {σ τ : State} (hk : Kept σ τ) (r : Nat) : Kept σ (State.setNearRate τ r) := by
  unfold State.setNearRate
  with_reducible repeat' (first | assumption | exact Kept.refl _ | apply State.modPwr_kept | refine Kept.of_snd (by assumption) ?_ | refine Kept.of_snd2 (by assumption) ?_ | refine Kept.of_fst (by assumption) ?_ | refine Kept.of_some (by assumption) ?_ | intro _ | apply Kept.ite | apply Kept.ite_snd | apply Kept.ite_fst | split | dsimp only | simp only [Kept.upd_iff])

theorem State.setModule_kept {σ τ : State} (hk : Kept σ τ) : Kept σ (State.setModule τ) := by
  unfold State.setModule
  with_reducible repeat' (first | assumption | exact Kept.refl _ | apply State.modPwr_kept | apply State.setNearRate_kept | intro _ | apply Kept.ite | apply Kept.ite_snd | apply Kept.ite_fst | split | dsimp only)

theorem State.setTiers_kept {σ τ : State} (hk : Kept σ τ) : Kept σ (State.setTiers τ) := by
  unfold State.setTiers
  with_reducible repeat' (first | assumption | exact Kept.refl _ | apply State.setFarMode_kept | apply State.modTier_kept | intro _ | dsimp only)

theorem State.setFabric_kept {σ τ : State} (hk : Kept σ τ) : Kept σ (State.setFabric τ) := by
  unfold State.setFabric
  with_reducible repeat' (first | assumption | exact Kept.refl _ | apply State.modFab_kept | refine Kept.of_snd (by assumption) ?_ | refine Kept.of_snd2 (by assumption) ?_ | refine Kept.of_fst (by assumption) ?_ | refine Kept.of_some (by assumption) ?_ | intro _ | split | dsimp only)

theorem State.setRetire_kept {σ τ : State} (hk : Kept σ τ) : Kept σ (State.setRetire τ) := by
  unfold State.setRetire
  with_reducible repeat' (first | assumption | exact Kept.refl _ | apply State.modEsp_kept | intro _ | dsimp only)

theorem State.blank_kept {σ τ : State} (hk : Kept σ τ) (a n : Nat) : Kept σ (State.blank τ a n) := by
  unfold State.blank
  with_reducible repeat' (first | assumption | exact Kept.refl _ | apply State.wipe_kept | intro _ | apply Kept.ite | apply Kept.ite_snd | apply Kept.ite_fst | split | dsimp only)

theorem State.blankPools_kept {σ τ : State} (hk : Kept σ τ) (p : PartId) : Kept σ (State.blankPools τ p) := by
  unfold State.blankPools
  with_reducible repeat' (first | assumption | exact Kept.refl _ | apply State.blank_kept | apply State.storeN_kept | apply State.store_kept | apply Kept.each | intro _ | dsimp only)

theorem State.freeCore_kept {σ τ : State} (hk : Kept σ τ) (c : CoreId) : Kept σ (State.freeCore τ c) := by
  unfold State.freeCore
  with_reducible repeat' (first | assumption | exact Kept.refl _ | apply State.setCore_kept | intro _ | apply Kept.ite | apply Kept.ite_snd | apply Kept.ite_fst | split | dsimp only | simp only [Kept.upd_iff])

theorem State.joinCore_kept {σ τ : State} (hk : Kept σ τ) (c : CoreId) : Kept σ (State.joinCore τ c) := by
  unfold State.joinCore
  with_reducible repeat' (first | assumption | exact Kept.refl _ | apply State.freeCore_kept | apply State.zeroSlot_kept | intro _ | dsimp only)

theorem State.openPart_kept {σ τ : State} (hk : Kept σ τ) (p : PartId) : Kept σ (State.openPart τ p) := by
  unfold State.openPart
  with_reducible repeat' (first | assumption | exact Kept.refl _ | apply State.joinCore_kept | apply State.modPart_kept | apply State.stage_kept | apply State.genDue_kept | apply State.ilCore_kept | apply State.blankPools_kept | apply Kept.each | intro _ | apply Kept.ite | apply Kept.ite_snd | apply Kept.ite_fst | split | dsimp only)

theorem State.restoreObjects_kept {σ τ : State} (hk : Kept σ τ) : Kept σ (State.restoreObjects τ) := by
  unfold State.restoreObjects
  with_reducible repeat' (first | assumption | exact Kept.refl _ | apply State.blank_kept | apply State.modPwr_kept | apply State.putObj_kept | apply State.poisonObj_kept | apply State.dropSlowObj_kept | apply Kept.each | intro _ | apply Kept.ite | apply Kept.ite_snd | apply Kept.ite_fst | split | dsimp only)

theorem State.imageNotice_kept {σ τ : State} (hk : Kept σ τ) (staged : Bool) (gen : BitVec 32) : Kept σ (State.imageNotice τ staged gen) := by
  unfold State.imageNotice
  with_reducible repeat' (first | assumption | exact Kept.refl _ | apply State.notify_kept | intro _ | apply Kept.ite | apply Kept.ite_snd | apply Kept.ite_fst | split | dsimp only)

theorem State.raiseFloors_kept {σ τ : State} (hk : Kept σ τ) (new : List Section) : Kept σ (State.raiseFloors τ new) := by
  unfold State.raiseFloors
  with_reducible repeat' (first | assumption | exact Kept.refl _ | apply State.modEsp_kept | apply Kept.each | refine Kept.of_snd (by assumption) ?_ | refine Kept.of_snd2 (by assumption) ?_ | refine Kept.of_fst (by assumption) ?_ | refine Kept.of_some (by assumption) ?_ | intro _ | apply Kept.ite | apply Kept.ite_snd | apply Kept.ite_fst | split | dsimp only)

theorem State.checkLinks_kept {σ τ : State} (hk : Kept σ τ) : Kept σ (State.checkLinks τ) := by
  unfold State.checkLinks
  with_reducible repeat' (first | assumption | exact Kept.refl _ | apply State.establish_kept | apply State.checkLink_kept | apply State.tellPeers_kept | apply Kept.each | intro _ | dsimp only)

theorem State.applyFull_kept {σ τ : State} (hk : Kept σ τ) (img : List Byte) : Kept σ (State.applyFull τ img) := by
  unfold State.applyFull
  with_reducible repeat' (first | assumption | exact Kept.refl _ | apply State.modEsp_kept | apply State.raiseFloors_kept | apply State.ledger_kept | apply State.setModule_kept | apply State.setTiers_kept | apply State.setFabric_kept | apply State.setRetire_kept | apply State.blank_kept | apply State.openPart_kept | apply State.restoreObjects_kept | apply State.recharge_kept | apply State.checkLinks_kept | apply State.syncHold_kept | apply State.imageNotice_kept | apply Kept.each | intro _ | dsimp only)

theorem State.latchEsp_kept {σ τ : State} (hk : Kept σ τ) (r : Refused) : Kept σ (State.latchEsp τ r).2 := by
  unfold State.latchEsp
  with_reducible repeat' (first | assumption | exact Kept.refl _ | apply State.fresh_kept | apply State.modEsp_kept | refine Kept.of_snd (by assumption) ?_ | refine Kept.of_snd2 (by assumption) ?_ | refine Kept.of_fst (by assumption) ?_ | refine Kept.of_some (by assumption) ?_ | intro _ | apply Kept.ite | apply Kept.ite_snd | apply Kept.ite_fst | split | dsimp only | simp only [Kept.upd_iff])

theorem State.imageRefused_kept {σ τ : State} (hk : Kept σ τ) (h : BitVec 32) (r : Refused) : Kept σ (State.imageRefused τ h r) := by
  unfold State.imageRefused
  with_reducible repeat' (first | assumption | exact Kept.refl _ | apply State.latchEsp_kept | apply State.endCmd_kept | refine Kept.of_snd (by assumption) ?_ | refine Kept.of_snd2 (by assumption) ?_ | refine Kept.of_fst (by assumption) ?_ | refine Kept.of_some (by assumption) ?_ | intro _ | split | dsimp only)

theorem State.imageDone_kept {σ τ : State} (hk : Kept σ τ) (h : BitVec 32) : Kept σ (State.imageDone τ h) := by
  unfold State.imageDone
  with_reducible repeat' (first | assumption | exact Kept.refl _ | apply State.endCmd_kept | refine Kept.of_snd (by assumption) ?_ | refine Kept.of_snd2 (by assumption) ?_ | refine Kept.of_fst (by assumption) ?_ | refine Kept.of_some (by assumption) ?_ | intro _ | split | dsimp only)

theorem State.startHold_kept {σ τ : State} (hk : Kept σ τ) (c : HCmd) (rmask : BitVec 16) : Kept σ (State.startHold τ c rmask) := by
  unfold State.startHold
  with_reducible repeat' (first | assumption | exact Kept.refl _ | apply State.modCmd_kept | apply State.modEsp_kept | apply State.modPart_kept | apply Kept.each | refine Kept.of_snd (by assumption) ?_ | refine Kept.of_snd2 (by assumption) ?_ | refine Kept.of_fst (by assumption) ?_ | refine Kept.of_some (by assumption) ?_ | intro _ | split | dsimp only)

theorem State.startImage_kept {σ τ : State} (hk : Kept σ τ) (c : HCmd) : Kept σ (State.startImage τ c) := by
  unfold State.startImage
  with_reducible repeat' (first | assumption | exact Kept.refl _ | apply State.imageRefused_kept | apply State.applyFull_kept | apply State.imageDone_kept | apply State.startHold_kept | apply State.modEsp_kept | apply State.ledger_kept | apply State.imageNotice_kept | refine Kept.of_snd (by assumption) ?_ | refine Kept.of_snd2 (by assumption) ?_ | refine Kept.of_fst (by assumption) ?_ | refine Kept.of_some (by assumption) ?_ | intro _ | apply Kept.ite | apply Kept.ite_snd | apply Kept.ite_fst | split | dsimp only)

theorem State.endAllOps_kept {σ τ : State} (hk : Kept σ τ) (c : CoreId) (st : Status) : Kept σ (State.endAllOps τ c st) := by
  unfold State.endAllOps
  with_reducible repeat' (first | assumption | exact Kept.refl _ | apply State.stopOps_kept | apply State.finish_kept | apply Kept.each | intro _ | apply Kept.ite | apply Kept.ite_snd | apply Kept.ite_fst | split | dsimp only)

theorem State.dropPins_kept {σ τ : State} (hk : Kept σ τ) (p : PartId) : Kept σ (State.dropPins τ p) := by
  unfold State.dropPins
  with_reducible repeat' (first | assumption | exact Kept.refl _ | apply State.modObj_kept | apply Kept.each | intro _ | dsimp only)

theorem State.releaseState_kept {σ τ : State} (hk : Kept σ τ) (p : PartId) : Kept σ (State.releaseState τ p) := by
  unfold State.releaseState
  with_reducible repeat' (first | assumption | exact Kept.refl _ | apply State.dropPins_kept | apply State.blankPools_kept | apply State.modPart_kept | apply State.modCore_kept | apply Kept.each | intro _ | dsimp only)

theorem State.leaveCores_kept {σ τ : State} (hk : Kept σ τ) (p : PartId) (stay : List CoreId) : Kept σ (State.leaveCores τ p stay) := by
  unfold State.leaveCores
  with_reducible repeat' (first | assumption | exact Kept.refl _ | apply State.modRep_kept | apply State.freeCore_kept | apply Kept.each | intro _ | dsimp only)

theorem State.commitLoad_kept {σ τ : State} (hk : Kept σ τ) (l : Load) : Kept σ (State.commitLoad τ l) := by
  unfold State.commitLoad
  with_reducible repeat' (first | assumption | exact Kept.refl _ | apply State.randomBytes_kept | apply State.releaseState_kept | apply State.modEsp_kept | apply State.leaveCores_kept | apply State.raiseFloors_kept | apply State.setRetire_kept | apply State.ledger_kept | apply State.modPart_kept | apply State.openPart_kept | apply State.recharge_kept | apply State.syncHold_kept | apply State.endHold_kept | apply State.imageNotice_kept | apply State.imageDone_kept | apply Kept.each | refine Kept.of_snd (by assumption) ?_ | refine Kept.of_snd2 (by assumption) ?_ | refine Kept.of_fst (by assumption) ?_ | refine Kept.of_some (by assumption) ?_ | intro _ | split | dsimp only)

theorem State.resumeHeld_kept {σ τ : State} (hk : Kept σ τ) (l : Load) (r : Refused) : Kept σ (State.resumeHeld τ l r) := by
  unfold State.resumeHeld
  with_reducible repeat' (first | assumption | exact Kept.refl _ | apply State.modEsp_kept | apply State.openStep_kept | apply State.modPart_kept | apply State.endHold_kept | apply State.imageRefused_kept | apply Kept.each | refine Kept.of_snd (by assumption) ?_ | refine Kept.of_snd2 (by assumption) ?_ | refine Kept.of_fst (by assumption) ?_ | refine Kept.of_some (by assumption) ?_ | intro _ | split | dsimp only)

/-! ### Repair.lean -/

theorem State.fenceClaims_kept {σ τ : State} (hk : Kept σ τ) (p : PartId) (c : CoreId) : Kept σ (State.fenceClaims τ p c) := by
  unfold State.fenceClaims
  with_reducible repeat' (first | assumption | exact Kept.refl _ | apply State.setClaim_kept | apply State.writeN_kept | apply Kept.each | intro _ | apply Kept.ite | apply Kept.ite_snd | apply Kept.ite_fst | split | dsimp only)

theorem State.retireCore_kept {σ τ : State} (hk : Kept σ τ) (c : CoreId) : Kept σ (State.retireCore τ c) := by
  unfold State.retireCore
  with_reducible repeat' (first | assumption | exact Kept.refl _ | apply State.modCore_kept | apply State.fenceClaims_kept | apply State.stopOps_kept | apply State.finish_kept | apply State.noticeFrozen_kept | apply Kept.each | refine Kept.of_snd (by assumption) ?_ | refine Kept.of_snd2 (by assumption) ?_ | refine Kept.of_fst (by assumption) ?_ | refine Kept.of_some (by assumption) ?_ | intro _ | apply Kept.ite | apply Kept.ite_snd | apply Kept.ite_fst | split | dsimp only)

theorem State.freezeCore_kept {σ τ : State} (hk : Kept σ τ) (c : CoreId) (ticket : BitVec 32) : Kept σ (State.freezeCore τ c ticket) := by
  unfold State.freezeCore
  with_reducible repeat' (first | assumption | exact Kept.refl _ | apply State.modCore_kept | apply State.noticeFrozen_kept | refine Kept.of_snd (by assumption) ?_ | refine Kept.of_snd2 (by assumption) ?_ | refine Kept.of_fst (by assumption) ?_ | refine Kept.of_some (by assumption) ?_ | intro _ | apply Kept.ite | apply Kept.ite_snd | apply Kept.ite_fst | split | dsimp only)

theorem State.retireEth_kept {σ τ : State} (hk : Kept σ τ) (port : PortId) : Kept σ (State.retireEth τ port) := by
  unfold State.retireEth
  with_reducible repeat' (first | assumption | exact Kept.refl _ | apply State.modEth_kept | apply State.noteRetired_kept | apply State.retireFn_kept | intro _ | dsimp only)

theorem State.takePacket_kept {σ τ : State} (hk : Kept σ τ) (p : Pkt) : Kept σ (State.takePacket τ p) := by
  unfold State.takePacket
  with_reducible repeat' (first | assumption | exact Kept.refl _ | apply State.hello_kept | apply State.finishSetup_kept | apply State.controlPacket_kept | apply State.ackPacket_kept | apply State.dataPacket_kept | apply State.haspPacket_kept | refine Kept.of_snd (by assumption) ?_ | refine Kept.of_snd2 (by assumption) ?_ | refine Kept.of_fst (by assumption) ?_ | refine Kept.of_some (by assumption) ?_ | intro _ | split | dsimp only)

theorem State.fnBegin_kept {σ τ : State} (hk : Kept σ τ) (k : FnKind) : Kept σ (State.fnBegin τ k) := by
  unfold State.fnBegin
  with_reducible repeat' (first | assumption | exact Kept.refl _ | apply State.modEth_kept | apply State.modFar_kept | apply State.modLink_kept | refine Kept.of_snd (by assumption) ?_ | refine Kept.of_snd2 (by assumption) ?_ | refine Kept.of_fst (by assumption) ?_ | refine Kept.of_some (by assumption) ?_ | intro _ | split | dsimp only)

theorem State.modFn_kept {σ τ : State} (hk : Kept σ τ) (i : Fin 32) (f : Fn → Fn) : Kept σ (State.modFn τ i f) := by
  unfold State.modFn
  with_reducible repeat' (first | assumption | exact Kept.refl _ | apply State.modRep_kept | intro _ | dsimp only)

theorem State.endAll_kept {σ τ : State} (hk : Kept σ τ) (hs : List (BitVec 32)) (st : Status) : Kept σ (State.endAll τ hs st) := by
  unfold State.endAll
  with_reducible repeat' (first | assumption | exact Kept.refl _ | apply State.endCmd_kept | apply Kept.each | intro _ | dsimp only)

theorem State.fnJoin_kept {σ τ : State} (hk : Kept σ τ) (i : Fin 32) (h : List (BitVec 32)) : Kept σ (State.fnJoin τ i h) := by
  unfold State.fnJoin
  with_reducible repeat' (first | assumption | exact Kept.refl _ | apply State.modFn_kept | intro _ | dsimp only)

theorem State.fnStarted_kept {σ τ : State} (hk : Kept σ τ) (i : Fin 32) : Kept σ (State.fnStarted τ i) := by
  unfold State.fnStarted
  with_reducible repeat' (first | assumption | exact Kept.refl _ | apply State.endAll_kept | apply State.modFn_kept | intro _ | apply Kept.ite | apply Kept.ite_snd | apply Kept.ite_fst | split | dsimp only)

theorem State.fnStart_kept {σ τ : State} (hk : Kept σ τ) (i : Fin 32) (h : List (BitVec 32)) : Kept σ (State.fnStart τ i h) := by
  unfold State.fnStart
  with_reducible repeat' (first | assumption | exact Kept.refl _ | apply State.modFn_kept | apply State.fnBegin_kept | apply State.fnStarted_kept | intro _ | apply Kept.ite | apply Kept.ite_snd | apply Kept.ite_fst | split | dsimp only)

theorem State.fnAct_kept {σ τ : State} (hk : Kept σ τ) (i : Fin 32) (on : Bool) (h : List (BitVec 32)) : Kept σ (State.fnAct τ i on h) := by
  unfold State.fnAct
  with_reducible repeat' (first | assumption | exact Kept.refl _ | apply State.modFn_kept | apply State.endAll_kept | apply State.fnStart_kept | apply State.fnJoin_kept | refine Kept.of_snd (by assumption) ?_ | refine Kept.of_snd2 (by assumption) ?_ | refine Kept.of_fst (by assumption) ?_ | refine Kept.of_some (by assumption) ?_ | intro _ | apply Kept.ite | apply Kept.ite_snd | apply Kept.ite_fst | split | dsimp only)

theorem State.fnRequest_kept {σ τ : State} (hk : Kept σ τ) (fn : Nat) (on : Bool) (h : List (BitVec 32)) : Kept σ (State.fnRequest τ fn on h) := by
  unfold State.fnRequest
  with_reducible repeat' (first | assumption | exact Kept.refl _ | apply State.endAll_kept | apply State.modCmd_kept | apply State.modFn_kept | apply State.ledger_kept | apply State.fnAct_kept | apply Kept.each | refine Kept.of_snd (by assumption) ?_ | refine Kept.of_snd2 (by assumption) ?_ | refine Kept.of_fst (by assumption) ?_ | refine Kept.of_some (by assumption) ?_ | intro _ | apply Kept.ite | apply Kept.ite_snd | apply Kept.ite_fst | split | dsimp only)

theorem State.farUp_kept {σ τ : State} (hk : Kept σ τ) (p : PortId) : Kept σ (State.farUp τ p) := by
  unfold State.farUp
  with_reducible repeat' (first | assumption | exact Kept.refl _ | apply State.fresh_kept | apply State.modFar_kept | refine Kept.of_snd (by assumption) ?_ | refine Kept.of_snd2 (by assumption) ?_ | refine Kept.of_fst (by assumption) ?_ | refine Kept.of_some (by assumption) ?_ | intro _ | apply Kept.ite | apply Kept.ite_snd | apply Kept.ite_fst | split | dsimp only | simp only [Kept.upd_iff])

theorem State.fnEndStart_kept {σ τ : State} (hk : Kept σ τ) (k : FnKind) (up : Bool) (cap : BitVec 46) : Kept σ (State.fnEndStart τ k up cap) := by
  unfold State.fnEndStart
  with_reducible repeat' (first | assumption | exact Kept.refl _ | apply State.modEth_kept | apply State.pumpPort_kept | apply State.farUp_kept | apply State.modFar_kept | refine Kept.of_snd (by assumption) ?_ | refine Kept.of_snd2 (by assumption) ?_ | refine Kept.of_fst (by assumption) ?_ | refine Kept.of_some (by assumption) ?_ | intro _ | apply Kept.ite | apply Kept.ite_snd | apply Kept.ite_fst | split | dsimp only)

theorem State.fnEndStop_kept {σ τ : State} (hk : Kept σ τ) (k : FnKind) : Kept σ (State.fnEndStop τ k) := by
  unfold State.fnEndStop
  with_reducible repeat' (first | assumption | exact Kept.refl _ | apply State.modEth_kept | apply State.modFar_kept | apply State.modLink_kept | apply State.toPair_kept | refine Kept.of_snd (by assumption) ?_ | refine Kept.of_snd2 (by assumption) ?_ | refine Kept.of_fst (by assumption) ?_ | refine Kept.of_some (by assumption) ?_ | intro _ | split | dsimp only)

theorem State.releaseThread_kept {σ τ : State} (hk : Kept σ τ) (m : Master) (p : PartId) (c : CoreId) (t : ThreadId) : Kept σ (State.releaseThread τ m p c t) := by
  unfold State.releaseThread
  with_reducible repeat' (first | assumption | exact Kept.refl _ | apply State.resetThread_kept | intro _ | apply Kept.ite | apply Kept.ite_snd | apply Kept.ite_fst | split | dsimp only)

theorem State.releaseList_kept {σ τ : State} (hk : Kept σ τ) (c : CoreId) (move : Bool) : Kept σ (State.releaseList τ c move) := by
  unfold State.releaseList
  with_reducible repeat' (first | assumption | exact Kept.refl _ | apply State.modReg_kept | apply State.finish_kept | apply Kept.each | intro _ | apply Kept.ite | apply Kept.ite_snd | apply Kept.ite_fst | split | dsimp only)

theorem State.releaseCore_kept {σ τ : State} (hk : Kept σ τ) (m : Master) (p : PartId) (c : CoreId) : Kept σ (State.releaseCore τ m p c) := by
  unfold State.releaseCore
  with_reducible repeat' (first | assumption | exact Kept.refl _ | apply State.modCore_kept | intro _ | apply Kept.ite | apply Kept.ite_snd | apply Kept.ite_fst | split | dsimp only)

theorem State.releaseSession_kept {σ τ : State} (hk : Kept σ τ) (m : Master) (sid : BitVec 32) : Kept σ (State.releaseSession τ m sid) := by
  unfold State.releaseSession
  with_reducible repeat' (first | assumption | exact Kept.refl _ | apply State.modSess_kept | refine Kept.of_snd (by assumption) ?_ | refine Kept.of_snd2 (by assumption) ?_ | refine Kept.of_fst (by assumption) ?_ | refine Kept.of_some (by assumption) ?_ | intro _ | apply Kept.ite | apply Kept.ite_snd | apply Kept.ite_fst | split | dsimp only)

theorem State.releaseRemote_kept {σ τ : State} (hk : Kept σ τ) (m : Master) (module : BitVec 18) (p : PartId) : Kept σ (State.releaseRemote τ m module p) := by
  unfold State.releaseRemote
  with_reducible repeat' (first | assumption | exact Kept.refl _ | apply State.modFab_kept | intro _ | apply Kept.ite | apply Kept.ite_snd | apply Kept.ite_fst | split | dsimp only)

theorem State.writeSlot_kept {σ τ : State} (hk : Kept σ τ) (n : Fin 202) (mismatches : Nat) : Kept σ (State.writeSlot τ n mismatches) := by
  unfold State.writeSlot
  with_reducible repeat' (first | assumption | exact Kept.refl _ | apply State.ledger_kept | apply State.putSlot_kept | apply State.modRep_kept | apply State.noteRetired_kept | refine Kept.of_snd (by assumption) ?_ | refine Kept.of_snd2 (by assumption) ?_ | refine Kept.of_fst (by assumption) ?_ | refine Kept.of_some (by assumption) ?_ | intro _ | apply Kept.ite | apply Kept.ite_snd | apply Kept.ite_fst | split | dsimp only)

/-! ### Power.lean -/

theorem State.cold_kept {σ τ : State} (hk : Kept σ τ) (run : RunSt) : Kept σ (State.cold τ run) := by
  refine hk.trans ⟨fun _ => rfl, rfl, fun x => ⟨x, rfl⟩, fun x => x, Nat.le_refl _⟩

theorem State.writeCause_kept {σ τ : State} (hk : Kept σ τ) (cause : BitVec 4) : Kept σ (State.writeCause τ cause) := by
  unfold State.writeCause
  with_reducible repeat' (first | assumption | exact Kept.refl _ | apply State.putSlot_kept | refine Kept.of_snd (by assumption) ?_ | refine Kept.of_snd2 (by assumption) ?_ | refine Kept.of_fst (by assumption) ?_ | refine Kept.of_some (by assumption) ?_ | intro _ | apply Kept.ite | apply Kept.ite_snd | apply Kept.ite_fst | split | dsimp only)

theorem State.stopAll_kept {σ τ : State} (hk : Kept σ τ) (cause : BitVec 4) (run : RunSt) : Kept σ (State.stopAll τ cause run) := by
  unfold State.stopAll
  with_reducible repeat' (first | assumption | exact Kept.refl _ | apply State.writeCause_kept | apply State.cold_kept | intro _ | apply Kept.ite | apply Kept.ite_snd | apply Kept.ite_fst | split | dsimp only)

theorem State.powerLoss_kept {σ τ : State} (hk : Kept σ τ) (cause : BitVec 4) (latched : Bool) : Kept σ (State.powerLoss τ cause latched) := by
  unfold State.powerLoss
  with_reducible repeat' (first | assumption | exact Kept.refl _ | apply State.stopAll_kept | apply State.modPwr_kept | refine Kept.of_snd (by assumption) ?_ | refine Kept.of_snd2 (by assumption) ?_ | refine Kept.of_fst (by assumption) ?_ | refine Kept.of_some (by assumption) ?_ | intro _ | apply Kept.ite | apply Kept.ite_snd | apply Kept.ite_fst | split | dsimp only)

theorem State.takeBody_kept {σ τ : State} (hk : Kept σ τ) (body : SlotBody) : Kept σ (State.takeBody τ body) := by
  unfold State.takeBody
  with_reducible repeat' (first | assumption | exact Kept.refl _ | apply State.modFct_kept | apply State.modFab_kept | apply State.modRep_kept | apply State.modTier_kept | apply State.modEsp_kept | apply State.modPwr_kept | refine Kept.of_snd (by assumption) ?_ | refine Kept.of_snd2 (by assumption) ?_ | refine Kept.of_fst (by assumption) ?_ | refine Kept.of_some (by assumption) ?_ | intro _ | apply Kept.ite | apply Kept.ite_snd | apply Kept.ite_fst | split | dsimp only | simp only [Kept.upd_iff])

theorem State.lostBody_kept {σ τ : State} (hk : Kept σ τ) (n : Nat) : Kept σ (State.lostBody τ n) := by
  unfold State.lostBody
  with_reducible repeat' (first | assumption | exact Kept.refl _ | apply State.takeBody_kept | apply State.modEsp_kept | apply State.modTier_kept | refine Kept.of_snd (by assumption) ?_ | refine Kept.of_snd2 (by assumption) ?_ | refine Kept.of_fst (by assumption) ?_ | refine Kept.of_some (by assumption) ?_ | intro _ | split | dsimp only)

theorem State.readLedger_kept {σ τ : State} (hk : Kept σ τ) (bad : List (PortId × Nat)) : Kept σ (State.readLedger τ bad) := by
  unfold State.readLedger
  with_reducible repeat' (first | assumption | exact Kept.refl _ | apply State.takeBody_kept | apply State.lostBody_kept | apply State.modRep_kept | apply Kept.each | apply Kept.foldl_snd | apply Kept.foldl_fst | apply Kept.foldl_drained | apply Kept.foldl_vecOut | apply Kept.foldl_chunkSum | apply Kept.foldl_kvRun | apply Kept.foldl_vec | refine Kept.of_snd (by assumption) ?_ | refine Kept.of_snd2 (by assumption) ?_ | refine Kept.of_fst (by assumption) ?_ | refine Kept.of_some (by assumption) ?_ | intro _ | apply Kept.ite | apply Kept.ite_snd | apply Kept.ite_fst | split | dsimp only)

theorem State.takeRing_kept {σ τ : State} (hk : Kept σ τ) (bad : List (PortId × Nat)) : Kept σ (State.takeRing τ bad) := by
  unfold State.takeRing
  with_reducible repeat' (first | assumption | exact Kept.refl _ | apply State.modSec_kept | apply State.ledger_kept | refine Kept.of_snd (by assumption) ?_ | refine Kept.of_snd2 (by assumption) ?_ | refine Kept.of_fst (by assumption) ?_ | refine Kept.of_some (by assumption) ?_ | intro _ | exact ⟨rfl, rfl, rfl, rfl⟩ | split | dsimp only)

theorem State.takeFirmware_kept {σ τ : State} (hk : Kept σ τ) (bad : List (PortId × Nat)) : Kept σ (State.takeFirmware τ bad) := by
  unfold State.takeFirmware
  with_reducible repeat' (first | assumption | exact Kept.refl _ | apply State.modRep_kept | apply State.ledger_kept | refine Kept.of_snd (by assumption) ?_ | refine Kept.of_snd2 (by assumption) ?_ | refine Kept.of_fst (by assumption) ?_ | refine Kept.of_some (by assumption) ?_ | intro _ | apply Kept.ite | apply Kept.ite_snd | apply Kept.ite_fst | split | dsimp only)

theorem State.bootMode_kept {σ τ : State} (hk : Kept σ τ) : Kept σ (State.bootMode τ) := by
  unfold State.bootMode
  with_reducible repeat' (first | assumption | exact Kept.refl _ | apply State.modRep_kept | apply State.modSec_kept | intro _ | apply Kept.ite | apply Kept.ite_snd | apply Kept.ite_fst | exact ⟨rfl, rfl, rfl, rfl⟩ | split | dsimp only)

theorem State.startFail_kept {σ τ : State} (hk : Kept σ τ) (step : Nat) : Kept σ (State.startFail τ step) := by
  unfold State.startFail
  with_reducible repeat' (first | assumption | exact Kept.refl _ | apply State.modPwr_kept | refine Kept.of_snd (by assumption) ?_ | refine Kept.of_snd2 (by assumption) ?_ | refine Kept.of_fst (by assumption) ?_ | refine Kept.of_some (by assumption) ?_ | intro _ | split | dsimp only)

theorem State.failIf_kept {σ τ : State} (hk : Kept σ τ) (step : Nat) (b : Bool) : Kept σ (State.failIf τ step b) := by
  unfold State.failIf
  with_reducible repeat' (first | assumption | exact Kept.refl _ | apply State.startFail_kept | intro _ | apply Kept.ite | apply Kept.ite_snd | apply Kept.ite_fst | split | dsimp only)

theorem State.trainNear_kept {σ τ : State} (hk : Kept σ τ) (bad : List ChanId) : Kept σ (State.trainNear τ bad) := by
  unfold State.trainNear
  with_reducible repeat' (first | assumption | exact Kept.refl _ | apply State.modChan_kept | apply State.modTier_kept | apply State.noteRetired_kept | apply State.ledger_kept | apply State.latchFault_kept | apply Kept.each | intro _ | apply Kept.ite | apply Kept.ite_snd | apply Kept.ite_fst | split | dsimp only)

theorem State.testCores_kept {σ τ : State} (hk : Kept σ τ) (bad : List CoreId) : Kept σ (State.testCores τ bad) := by
  unfold State.testCores
  with_reducible repeat' (first | assumption | exact Kept.refl _ | apply State.modReg_kept | apply State.setSubst_kept | apply State.setMaps_kept | apply State.noteRetired_kept | apply Kept.each | refine Kept.of_snd (by assumption) ?_ | refine Kept.of_snd2 (by assumption) ?_ | refine Kept.of_fst (by assumption) ?_ | refine Kept.of_some (by assumption) ?_ | intro _ | apply Kept.ite | apply Kept.ite_snd | apply Kept.ite_fst | split | dsimp only)

theorem State.setFn_kept {σ τ : State} (hk : Kept σ τ) (fn : Fin 32) (st : FnSt) : Kept σ (State.setFn τ fn st) := by
  unfold State.setFn
  with_reducible repeat' (first | assumption | exact Kept.refl _ | apply State.modFn_kept | intro _ | dsimp only)

theorem State.retiredFns_kept {σ τ : State} (hk : Kept σ τ) : Kept σ (State.retiredFns τ) := by
  unfold State.retiredFns
  with_reducible repeat' (first | assumption | exact Kept.refl _ | apply State.setFn_kept | apply Kept.each | intro _ | apply Kept.ite | apply Kept.ite_snd | apply Kept.ite_fst | split | dsimp only)

theorem State.startFar_kept {σ τ : State} (hk : Kept σ τ) (e : StartEnv) : Kept σ (State.startFar τ e) := by
  unfold State.startFar
  with_reducible repeat' (first | assumption | exact Kept.refl _ | apply State.setFn_kept | apply State.modFar_kept | apply State.farUp_kept | apply Kept.each | intro _ | apply Kept.ite | apply Kept.ite_snd | apply Kept.ite_fst | split | dsimp only)

theorem State.startSlow_kept {σ τ : State} (hk : Kept σ τ) (e : StartEnv) : Kept σ (State.startSlow τ e) := by
  unfold State.startSlow
  with_reducible repeat' (first | assumption | exact Kept.refl _ | apply State.setFn_kept | apply State.modTier_kept | intro _ | apply Kept.ite | apply Kept.ite_snd | apply Kept.ite_fst | split | dsimp only)

theorem State.startLinks_kept {σ τ : State} (hk : Kept σ τ) (e : StartEnv) : Kept σ (State.startLinks τ e) := by
  unfold State.startLinks
  with_reducible repeat' (first | assumption | exact Kept.refl _ | apply State.setFn_kept | apply State.modLink_kept | apply State.sendTrain_kept | apply State.modEth_kept | apply Kept.each | intro _ | apply Kept.ite | apply Kept.ite_snd | apply Kept.ite_fst | split | dsimp only)

theorem State.startImages_kept {σ τ : State} (hk : Kept σ τ) : Kept σ (State.startImages τ) := by
  unfold State.startImages
  with_reducible repeat' (first | assumption | exact Kept.refl _ | apply State.startFail_kept | apply State.applyFull_kept | apply State.latchEsp_kept | apply State.modEsp_kept | refine Kept.of_snd (by assumption) ?_ | refine Kept.of_snd2 (by assumption) ?_ | refine Kept.of_fst (by assumption) ?_ | refine Kept.of_some (by assumption) ?_ | intro _ | split | dsimp only)

theorem State.testPairs_kept {σ τ : State} (hk : Kept σ τ) : Kept σ (State.testPairs τ) := by
  unfold State.testPairs
  with_reducible repeat' (first | assumption | exact Kept.refl _ | apply State.fresh_kept | apply State.modRep_kept | apply Kept.each | refine Kept.of_snd (by assumption) ?_ | refine Kept.of_snd2 (by assumption) ?_ | refine Kept.of_fst (by assumption) ?_ | refine Kept.of_some (by assumption) ?_ | intro _ | apply Kept.ite | apply Kept.ite_snd | apply Kept.ite_fst | split | dsimp only | simp only [Kept.upd_iff])

theorem State.startUp_kept {σ τ : State} (hk : Kept σ τ) (e : StartEnv) : Kept σ (State.startUp τ e) := by
  unfold State.startUp
  with_reducible repeat' (first | assumption | exact Kept.refl _ | apply State.modPwr_kept | apply State.testPairs_kept | apply State.takeRing_kept | apply State.takeFirmware_kept | apply State.bootMode_kept | apply State.failIf_kept | apply State.modRep_kept | apply State.readLedger_kept | apply State.retiredFns_kept | apply State.trainNear_kept | apply State.testCores_kept | apply State.startFar_kept | apply State.startSlow_kept | apply State.startLinks_kept | apply State.startImages_kept | apply State.latchFault_kept | refine Kept.of_snd (by assumption) ?_ | refine Kept.of_snd2 (by assumption) ?_ | refine Kept.of_fst (by assumption) ?_ | refine Kept.of_some (by assumption) ?_ | intro _ | apply Kept.ite | apply Kept.ite_snd | apply Kept.ite_fst | split | dsimp only)

theorem State.lower_kept {σ τ : State} (hk : Kept σ τ) : Kept σ (State.lower τ) := by
  unfold State.lower
  with_reducible repeat' (first | assumption | exact Kept.refl _ | apply State.modPwr_kept | apply State.setNearRate_kept | intro _ | apply Kept.ite | apply Kept.ite_snd | apply Kept.ite_fst | split | dsimp only | simp only [Kept.upd_iff])

theorem State.raise_kept {σ τ : State} (hk : Kept σ τ) : Kept σ (State.raise τ) := by
  unfold State.raise
  with_reducible repeat' (first | assumption | exact Kept.refl _ | apply State.modPwr_kept | apply State.setNearRate_kept | intro _ | apply Kept.ite | apply Kept.ite_snd | apply Kept.ite_fst | split | dsimp only | simp only [Kept.upd_iff])

theorem State.holdFloors_kept {σ τ : State} (hk : Kept σ τ) : Kept σ (State.holdFloors τ) := by
  unfold State.holdFloors
  with_reducible repeat' (first | assumption | exact Kept.refl _ | apply State.setNearRate_kept | apply State.modPwr_kept | intro _ | dsimp only | simp only [Kept.upd_iff])

theorem State.setTemp_kept {σ τ : State} (hk : Kept σ τ) (die : PortId) (temp : BitVec 16) : Kept σ (State.setTemp τ die temp) := by
  unfold State.setTemp
  with_reducible repeat' (first | assumption | exact Kept.refl _ | apply State.modPwr_kept | intro _ | apply Kept.ite | apply Kept.ite_snd | apply Kept.ite_fst | split | dsimp only)

theorem State.writeCap_kept {σ τ : State} (hk : Kept σ τ) (v : Word) : Kept σ (State.writeCap τ v) := by
  unfold State.writeCap
  with_reducible repeat' (first | assumption | exact Kept.refl _ | apply State.modPwr_kept | apply State.holdFloors_kept | intro _ | apply Kept.ite | apply Kept.ite_snd | apply Kept.ite_fst | split | dsimp only)

theorem State.beginShutdown_kept {σ τ : State} (hk : Kept σ τ) (h : List (BitVec 32)) : Kept σ (State.beginShutdown τ h) := by
  unfold State.beginShutdown
  with_reducible repeat' (first | assumption | exact Kept.refl _ | apply State.endAll_kept | apply State.modCmd_kept | apply State.modPwr_kept | apply State.stopPart_kept | apply Kept.each | intro _ | apply Kept.ite | apply Kept.ite_snd | apply Kept.ite_fst | split | dsimp only)

theorem State.refuseWaiting_kept {σ τ : State} (hk : Kept σ τ) (reqs : List (BitVec 32)) : Kept σ (State.refuseWaiting τ reqs) := by
  unfold State.refuseWaiting
  with_reducible repeat' (first | assumption | exact Kept.refl _ | apply State.unqueue_kept | apply State.endCmd_kept | apply Kept.each | intro _ | dsimp only)

/-! ### Security.lean -/

theorem State.withData_kept {σ τ : State} (hk : Kept σ τ) (h : BitVec 32) (opc : Nat) (lens : List Nat) (f : State → HCmd → State) (hf : ∀ (v0 : State) (v1 : HCmd), Kept σ v0 → Kept σ (f v0 v1)) : Kept σ (State.withData τ h opc lens f) := by
  unfold State.withData
  with_reducible repeat' (first | assumption | exact Kept.refl _ | apply State.withCmd_kept | apply State.refuseCmd_kept | apply hf | intro _ | apply Kept.ite | apply Kept.ite_snd | apply Kept.ite_fst | split | dsimp only)

theorem State.installRing_kept {σ τ : State} (hk : Kept σ τ) (h : BitVec 32) (k : Keyring) : Kept σ (State.installRing τ h k) := by
  unfold State.installRing
  with_reducible repeat' (first | assumption | exact Kept.refl _ | apply State.modSec_kept | apply State.ledger_kept | apply State.endCmd_kept | intro _ | exact ⟨rfl, rfl, rfl, rfl⟩ | dsimp only)

theorem State.rotRefused_kept {σ τ : State} (hk : Kept σ τ) (h : BitVec 32) (cause : Nat) : Kept σ (State.rotRefused τ h cause) := by
  unfold State.rotRefused
  with_reducible repeat' (first | assumption | exact Kept.refl _ | apply State.modSec_kept | apply State.refuseCmd_kept | intro _ | exact ⟨rfl, rfl, rfl, rfl⟩ | dsimp only)

theorem State.dropSessions_kept {σ τ : State} (hk : Kept σ τ) (h : BitVec 32) : Kept σ (State.dropSessions τ h) := by
  unfold State.dropSessions
  with_reducible repeat' (first | assumption | exact Kept.refl _ | apply State.hello_kept | apply State.dropSetup_kept | apply State.modSess_kept | apply State.closeSession_kept | apply Kept.each | refine Kept.of_snd (by assumption) ?_ | refine Kept.of_snd2 (by assumption) ?_ | refine Kept.of_fst (by assumption) ?_ | refine Kept.of_some (by assumption) ?_ | intro _ | apply Kept.ite | apply Kept.ite_snd | apply Kept.ite_fst | split | dsimp only)

theorem State.ledger_sec (s : State) (n : Fin 202) : (s.ledger n).sec = s.sec := by
  unfold State.ledger
  split
  · rfl
  · cases s.bankFor n <;> rfl

/-- A rotation raises RING_VER, which `rotation` allows below 64 only. -/
theorem State.rotate_kept {σ τ : State} (hk : Kept σ τ) (h : BitVec 32) (k : Keyring) (fuseOk : Bool)
    (hv : τ.sec.ringVer.toNat < 64) : Kept σ (State.rotate τ h k fuseOk) := by
  have up : ∀ u : State, Kept σ u → u.sec.ringVer = τ.sec.ringVer →
      Kept σ (u.modSec fun x => { x with ringVer := x.ringVer + 1, keyring := some k, keyPending := none }) := by
    intro u hu e
    refine hu.trans ⟨fun x => State.memOk_of_mem x rfl, rfl, fun x => ⟨x, rfl⟩, fun x => x, ?_⟩
    show u.sec.ringVer.toNat ≤ (u.sec.ringVer + 1).toNat
    rw [e]; bv_omega
  have first : Kept σ ((τ.modSec fun x => { x with keyPending := some k }).ledger 6) :=
    State.ledger_kept (State.modSec_kept hk (fun x => { x with keyPending := some k }) fun _ => ⟨rfl, rfl, rfl, rfl⟩) 6
  unfold State.rotate
  split
  · exact State.rotRefused_kept (State.modSec_kept first (fun x => { x with keyPending := none }) fun _ => ⟨rfl, rfl, rfl, rfl⟩) _ _
  · refine State.endCmd_kept (State.dropSessions_kept (State.ledger_kept (up _ first ?_) _) _) _ _ _
    rw [State.ledger_sec, State.modSec]

theorem State.debugRefused_kept {σ τ : State} (hk : Kept σ τ) (h : BitVec 32) (cause : Nat) : Kept σ (State.debugRefused τ h cause) := by
  unfold State.debugRefused
  with_reducible repeat' (first | assumption | exact Kept.refl _ | apply State.modSec_kept | apply State.refuseCmd_kept | intro _ | exact ⟨rfl, rfl, rfl, rfl⟩ | dsimp only)

/-! ### HostCmd.lean -/

theorem State.cmdViolation_kept {σ τ : State} (hk : Kept σ τ) (c : HCmd) : Kept σ (State.cmdViolation τ c) := by
  unfold State.cmdViolation
  with_reducible repeat' (first | assumption | exact Kept.refl _ | apply State.endCmd_kept | apply State.freezeSession_kept | intro _ | apply Kept.ite | apply Kept.ite_snd | apply Kept.ite_fst | split | dsimp only)

theorem State.hostIssue_kept {σ τ : State} (hk : Kept σ τ) (c : HCmd) (core : CoreId) (d : Desc) (after : Option (Option (BitVec 32) × Status)) (t : BitVec 7) : Kept σ (State.hostIssue τ c core d after t) := by
  unfold State.hostIssue
  with_reducible repeat' (first | assumption | exact Kept.refl _ | apply State.modCore_kept | apply State.modCmd_kept | refine Kept.of_snd (by assumption) ?_ | refine Kept.of_snd2 (by assumption) ?_ | refine Kept.of_fst (by assumption) ?_ | refine Kept.of_some (by assumption) ?_ | intro _ | split | dsimp only)

theorem State.cmdWaits_kept {σ τ : State} (hk : Kept σ τ) (h : BitVec 32) : Kept σ (State.cmdWaits τ h) := by
  unfold State.cmdWaits
  with_reducible repeat' (first | assumption | exact Kept.refl _ | apply State.modCmd_kept | intro _ | dsimp only)

theorem State.issueOn_kept {σ τ : State} (hk : Kept σ τ) (c : HCmd) (core : CoreId) : Kept σ (State.issueOn τ c core) := by
  unfold State.issueOn
  with_reducible repeat' (first | assumption | exact Kept.refl _ | apply State.endCmd_kept | apply State.cmdWaits_kept | apply State.hostIssue_kept | refine Kept.of_snd (by assumption) ?_ | refine Kept.of_snd2 (by assumption) ?_ | refine Kept.of_fst (by assumption) ?_ | refine Kept.of_some (by assumption) ?_ | intro _ | apply Kept.ite | apply Kept.ite_snd | apply Kept.ite_fst | split | dsimp only)

theorem State.withRange_kept {σ τ : State} (hk : Kept σ τ) (c : HCmd) (wr : Bool) (f : State → Nat → Nat → State) (hf : ∀ (v0 : State) (v1 : Nat) (v2 : Nat), Kept σ v0 → Kept σ (f v0 v1 v2)) : Kept σ (State.withRange τ c wr f) := by
  unfold State.withRange
  with_reducible repeat' (first | assumption | exact Kept.refl _ | apply State.endCmd_kept | apply State.cmdViolation_kept | apply hf | refine Kept.of_snd (by assumption) ?_ | refine Kept.of_snd2 (by assumption) ?_ | refine Kept.of_fst (by assumption) ?_ | refine Kept.of_some (by assumption) ?_ | intro _ | apply Kept.ite | apply Kept.ite_snd | apply Kept.ite_fst | split | dsimp only)

/-! ### RegWrite.lean -/

theorem State.threadRegWrite_kept {σ τ : State} (hk : Kept σ τ) (m : Master) (c : CoreId) (t : ThreadId) (off : Nat) (v : Word) : Kept σ (State.threadRegWrite τ m c t off v) := by
  unfold State.threadRegWrite
  with_reducible repeat' (first | assumption | exact Kept.refl _ | apply State.writeThrCtl_kept | apply State.modThread_kept | refine Kept.of_snd (by assumption) ?_ | refine Kept.of_snd2 (by assumption) ?_ | refine Kept.of_fst (by assumption) ?_ | refine Kept.of_some (by assumption) ?_ | intro _ | apply Kept.ite | apply Kept.ite_snd | apply Kept.ite_fst | split | dsimp only)

theorem State.coreRegWrite_kept {σ τ : State} (hk : Kept σ τ) (m : Master) (c : CoreId) (u off : Nat) (v : Word) : Kept σ (State.coreRegWrite τ m c u off v) := by
  unfold State.coreRegWrite
  with_reducible repeat' (first | assumption | exact Kept.refl _ | apply State.modReg_kept | apply State.modArr_kept | apply State.threadRegWrite_kept | apply State.modSts_kept | apply State.modKvc_kept | apply State.modCnv_kept | refine Kept.of_snd (by assumption) ?_ | refine Kept.of_snd2 (by assumption) ?_ | refine Kept.of_fst (by assumption) ?_ | refine Kept.of_some (by assumption) ?_ | intro _ | apply Kept.ite | apply Kept.ite_snd | apply Kept.ite_fst | split | dsimp only)

theorem State.writeFnCtl_kept {σ τ : State} (hk : Kept σ τ) (v : Word) (h : List (BitVec 32)) : Kept σ (State.writeFnCtl τ v h) := by
  unfold State.writeFnCtl
  with_reducible repeat' (first | assumption | exact Kept.refl _ | apply State.fnRequest_kept | apply State.endAll_kept | refine Kept.of_snd (by assumption) ?_ | refine Kept.of_snd2 (by assumption) ?_ | refine Kept.of_fst (by assumption) ?_ | refine Kept.of_some (by assumption) ?_ | intro _ | apply Kept.ite | apply Kept.ite_snd | apply Kept.ite_fst | split | dsimp only)

theorem State.writeModRelease_kept {σ τ : State} (hk : Kept σ τ) (m : Master) (v : Word) : Kept σ (State.writeModRelease τ m v) := by
  unfold State.writeModRelease
  with_reducible repeat' (first | assumption | exact Kept.refl _ | apply State.releaseSession_kept | apply State.releaseRemote_kept | intro _ | apply Kept.ite | apply Kept.ite_snd | apply Kept.ite_fst | split | dsimp only)

theorem State.modBlockWrite_kept {σ τ : State} (hk : Kept σ τ) (m : Master) (off : Nat) (v : Word) (h : List (BitVec 32)) : Kept σ (State.modBlockWrite τ m off v h) := by
  unfold State.modBlockWrite
  with_reducible repeat' (first | assumption | exact Kept.refl _ | apply State.writeFnCtl_kept | apply State.writeModRelease_kept | apply State.modRep_kept | intro _ | apply Kept.ite | apply Kept.ite_snd | apply Kept.ite_fst | split | dsimp only)

theorem State.pwrBlockWrite_kept {σ τ : State} (hk : Kept σ τ) (m : Master) (off : Nat) (v : Word) (h : List (BitVec 32)) : Kept σ (State.pwrBlockWrite τ m off v h) := by
  unfold State.pwrBlockWrite
  with_reducible repeat' (first | assumption | exact Kept.refl _ | apply State.writeCap_kept | apply State.beginShutdown_kept | intro _ | apply Kept.ite | apply Kept.ite_snd | apply Kept.ite_fst | split | dsimp only)

theorem State.fctBlockWrite_kept {σ τ : State} (hk : Kept σ τ) (off : Nat) (v : Word) : Kept σ (State.fctBlockWrite τ off v) := by
  unfold State.fctBlockWrite
  with_reducible repeat' (first | assumption | exact Kept.refl _ | apply State.modFct_kept | apply State.ledger_kept | intro _ | apply Kept.ite | apply Kept.ite_snd | apply Kept.ite_fst | split | dsimp only)

theorem State.ethBlockWrite_kept {σ τ : State} (hk : Kept σ τ) (p : PortId) (off : Nat) (v : Word) : Kept σ (State.ethBlockWrite τ p off v) := by
  unfold State.ethBlockWrite
  with_reducible repeat' (first | assumption | exact Kept.refl _ | apply State.modEth_kept | apply State.ledger_kept | intro _ | apply Kept.ite | apply Kept.ite_snd | apply Kept.ite_fst | split | dsimp only)

theorem State.writeTgCtl_kept {σ τ : State} (hk : Kept σ τ) (m : Master) (ch : ChanId) (v : Word) : Kept σ (State.writeTgCtl τ m ch v) := by
  unfold State.writeTgCtl
  with_reducible repeat' (first | assumption | exact Kept.refl _ | apply State.modChan_kept | apply State.tgStopRun_kept | apply State.tgStart_kept | intro _ | apply Kept.ite | apply Kept.ite_snd | apply Kept.ite_fst | split | dsimp only)

theorem State.chanBlockWrite_kept {σ τ : State} (hk : Kept σ τ) (m : Master) (ch : ChanId) (off : Nat) (v : Word) : Kept σ (State.chanBlockWrite τ m ch off v) := by
  unfold State.chanBlockWrite
  with_reducible repeat' (first | assumption | exact Kept.refl _ | apply State.modChan_kept | apply State.writeTgCtl_kept | intro _ | apply Kept.ite | apply Kept.ite_snd | apply Kept.ite_fst | split | dsimp only)

theorem State.fabBlockWrite_kept {σ τ : State} (hk : Kept σ τ) (l : LinkId) (off : Nat) (v : Word) : Kept σ (State.fabBlockWrite τ l off v) := by
  unfold State.fabBlockWrite
  with_reducible repeat' (first | assumption | exact Kept.refl _ | apply State.modFab_kept | apply State.ledger_kept | apply State.checkLinks_kept | apply State.modLink_kept | intro _ | apply Kept.ite | apply Kept.ite_snd | apply Kept.ite_fst | split | dsimp only)

theorem State.writePartRelease_kept {σ τ : State} (hk : Kept σ τ) (m : Master) (p : PartId) (v : Word) : Kept σ (State.writePartRelease τ m p v) := by
  unfold State.writePartRelease
  with_reducible repeat' (first | assumption | exact Kept.refl _ | apply State.releaseThread_kept | apply State.releaseList_kept | apply State.releaseCore_kept | refine Kept.of_snd (by assumption) ?_ | refine Kept.of_snd2 (by assumption) ?_ | refine Kept.of_fst (by assumption) ?_ | refine Kept.of_some (by assumption) ?_ | intro _ | apply Kept.ite | apply Kept.ite_snd | apply Kept.ite_fst | split | dsimp only)

theorem State.partBlockWrite_kept {σ τ : State} (hk : Kept σ τ) (m : Master) (p : PartId) (off : Nat) (v : Word) : Kept σ (State.partBlockWrite τ m p off v) := by
  unfold State.partBlockWrite
  with_reducible repeat' (first | assumption | exact Kept.refl _ | apply State.modBound_kept | apply State.endStep_kept | apply State.modPart_kept | apply State.writePartRelease_kept | intro _ | apply Kept.ite | apply Kept.ite_snd | apply Kept.ite_fst | split | dsimp only)

theorem State.moduleWrite_kept {σ τ : State} (hk : Kept σ τ) (m : Master) (b off : Nat) (v : Word) (h : List (BitVec 32)) : Kept σ (State.moduleWrite τ m b off v h) := by
  unfold State.moduleWrite
  with_reducible repeat' (first | assumption | exact Kept.refl _ | apply State.modBlockWrite_kept | apply State.pwrBlockWrite_kept | apply State.modSec_kept | apply State.modEsp_kept | apply State.fctBlockWrite_kept | apply State.ethBlockWrite_kept | apply State.modTier_kept | apply State.modFar_kept | apply State.chanBlockWrite_kept | apply State.fabBlockWrite_kept | refine Kept.of_snd (by assumption) ?_ | refine Kept.of_snd2 (by assumption) ?_ | refine Kept.of_fst (by assumption) ?_ | refine Kept.of_some (by assumption) ?_ | intro _ | apply Kept.ite | apply Kept.ite_snd | apply Kept.ite_fst | exact ⟨rfl, rfl, rfl, rfl⟩ | split | dsimp only)

theorem State.regWrite_kept {σ τ : State} (hk : Kept σ τ) (m : Master) (a : Nat) (v : Word) (h : List (BitVec 32)) : Kept σ (State.regWrite τ m a v h) := by
  unfold State.regWrite
  with_reducible repeat' (first | assumption | exact Kept.refl _ | apply State.coreRegWrite_kept | apply State.modReg_kept | apply State.partBlockWrite_kept | apply State.moduleWrite_kept | refine Kept.of_snd (by assumption) ?_ | refine Kept.of_snd2 (by assumption) ?_ | refine Kept.of_fst (by assumption) ?_ | refine Kept.of_some (by assumption) ?_ | intro _ | apply Kept.ite | apply Kept.ite_snd | apply Kept.ite_fst | split | dsimp only)

/-! ### What the meanings that program a fuse rest on -/

theorem State.takeResponse_kept {σ τ ω : State} {i : Nat} {op : Byte} {r : Req} {l : LinkId} {m : Msg}
    (ek : State.takeResponse τ i op = some (r, l, m, ω)) (hk : Kept σ τ) : Kept σ ω := by
  unfold State.takeResponse at ek
  split at ek
  · cases ek
  · split at ek <;> cases ek
    · exact State.takeMsg_kept hk _ _ _
    · exact State.dropReq_kept (State.takeMsg_kept hk _ _ _) _

/-- A rotation is allowed below the last bit of RING_VER only (R413). -/
theorem State.rotation_ringVer {s : State} {b : List Byte} {k : Keyring} (h : s.rotation b = .ok k) : s.sec.ringVer.toNat < 64 := by
  unfold State.rotation at h
  split at h
  · cases h
  · split at h
    · cases h
    · split at h
      · cases h
      · dsimp only at h
        split at h
        · cases h
        · split at h
          · cases h
          · split at h
            · cases h
            · omega

end Sys2Proof.Machine
end

