-- ==== Sys2Proof/Laws/Thread.lean ====
section
/-! SUPPORT. What issuing an instruction does: one lemma for each shared operation of Thread.lean, over `State.issued`. -/

namespace Sys2Proof.Machine

/-! ### `State.issued` -/

@[simp] theorem State.issued_thread (s : State) (c : CoreId) (t : ThreadId) (x : Thread) : (s.issued c t x).thread c t = x := by
  simp [State.issued, State.thread]

theorem State.issued_core (s : State) (c : CoreId) (t : ThreadId) (x : Thread) :
    (s.issued c t x).core c = { s.core c with lastThread := t, threads := vset (s.core c).threads t x } := by
  simp [State.issued]

@[simp] theorem State.issued_reg (s : State) (c : CoreId) (t : ThreadId) (x : Thread) :
    ((s.issued c t x).core c).reg = (s.core c).reg := by
  simp [State.issued]

@[simp] theorem State.issued_ops (s : State) (c : CoreId) (t : ThreadId) (x : Thread) :
    ((s.issued c t x).core c).ops = (s.core c).ops := by
  simp [State.issued]

@[simp] theorem State.issued_tokens (s : State) (c : CoreId) (t : ThreadId) (x : Thread) :
    ((s.issued c t x).core c).tokens = (s.core c).tokens := by
  simp [State.issued]

@[simp] theorem State.issued_next (s : State) (c : CoreId) (t : ThreadId) (x : Thread) :
    ((s.issued c t x).core c).next = (s.core c).next := by
  simp [State.issued]

@[simp] theorem State.issued_owner (s : State) (c : CoreId) (t : ThreadId) (x : Thread) (d : CoreId) :
    (s.issued c t x).owner d = s.owner d := by
  by_cases h : c = d
  · subst h; simp [State.owner]
  · simp [State.owner, State.issued, State.core_setCore_ne s _ h]

@[simp] theorem State.issued_fab (s : State) (c : CoreId) (t : ThreadId) (x : Thread) : (s.issued c t x).fab = s.fab := rfl

@[simp] theorem State.issued_mem (s : State) (c : CoreId) (t : ThreadId) (x : Thread) : (s.issued c t x).mem = s.mem := rfl

@[simp] theorem State.issued_modThread (s : State) (c : CoreId) (t : ThreadId) (x : Thread) (f : Thread → Thread) :
    (s.issued c t x).modThread c t f = s.issued c t (f x) := by
  simp [State.issued, State.modThread, State.setThread, State.modCore, State.thread]

theorem State.issued_self (s : State) (c : CoreId) (t : ThreadId) (f : Thread → Thread) :
    (s.modCore c fun k => { k with lastThread := t }).modThread c t f = s.issued c t (f (s.thread c t)) := by
  simp [State.issued, State.modThread, State.setThread, State.modCore, State.thread]

/-! ### Notices touch sessions and ports only -/

theorem State.sendFrame_fct (s : State) (i : Fin 64) (ty : Byte) (pcp : BitVec 3) (q : Word) (pl : List Byte) :
    s.sendFrame i ty pcp q pl = { s with fct := (s.sendFrame i ty pcp q pl).fct } := by
  simp only [State.sendFrame]
  split <;> rfl

theorem State.queueControl_fct (s : State) (i : Fin 64) (e : List Byte) :
    s.queueControl i e = { s with fct := (s.queueControl i e).fct } := by
  simp only [State.queueControl]
  split
  · rw [State.sendFrame_fct]; rfl
  · rfl

theorem State.noticeTo_fct (s : State) (i : Fin 64) (n : Notice) :
    s.noticeTo i n = { s with fct := (s.noticeTo i n).fct } := by
  simp only [State.noticeTo]
  split
  · rfl
  · rw [State.queueControl_fct]; rfl

/-- A fold that changes one field of the state only. -/
theorem State.each_fct {α : Type} (s : State) (xs : List α) (f : State → α → State)
    (hf : ∀ s x, f s x = { s with fct := (f s x).fct }) : s.each xs f = { s with fct := (s.each xs f).fct } := by
  unfold State.each
  induction xs generalizing s with
  | nil => rfl
  | cons x r ih =>
    simp only [List.foldl_cons]
    rw [ih (f s x), hf s x]

theorem State.notify_fct (s : State) (n : Notice) : s.notify n = { s with fct := (s.notify n).fct } :=
  State.each_fct s _ _ fun s i => by
    split
    · exact State.noticeTo_fct s i n
    · rfl

theorem State.freezeThread_fct (s : State) (c : CoreId) (t : ThreadId) (cause : Byte) (a : Nat) :
    s.freezeThread c t cause a = { s.modThread c t (fun x =>
      { x with st := .frozen, resetPend := false, acc := none, held := none,
               fault := { valid := true, cause := cause, addr := BitVec.ofNat 46 a } }) with
      fct := (s.freezeThread c t cause a).fct } := by
  simp only [State.freezeThread, State.noticeFrozen]
  rw [State.notify_fct]

/-- A violation met while an instruction issues. -/
theorem State.froze_issued (s : State) (c : CoreId) (t : ThreadId) (x : Thread) (cause : Byte) (a : Nat)
    (h : x = { s.thread c t with yielded := false }) : Froze s ((s.issued c t x).freezeThread c t cause a) c t cause a := by
  subst h
  unfold Froze
  rw [State.freezeThread_fct, State.issued_modThread]
  rfl

/-! ### Issue -/

/-- What a fetched word's fetch does not meet. -/
theorem State.fetchLost_of_fetched {s : State} {c : CoreId} {t : ThreadId} {w : IWord} (h : s.fetched c t w = true) :
    s.fetchLost c t w = none := by
  simp only [State.fetched, Bool.and_eq_true, Bool.not_eq_true', Option.isNone_iff_eq_none] at h
  simp [State.fetchLost, h.1, h.2]

/-- An instruction that its thread fetches, and whose guard is met, is executed. -/
theorem State.issueInstr_runs {s : State} {c : CoreId} {t : ThreadId} {n : IName} {w : IWord} (eff : State → State)
    (h : s.runs c t w = true) (hn : instrOf w = some n) :
    s.issueInstr c t n w eff = eff (s.issued c t { s.thread c t with yielded := false }) := by
  simp only [State.runs, Bool.and_eq_true, beq_iff_eq, Bool.not_eq_true'] at h
  obtain ⟨⟨⟨h1, h2⟩, h4⟩, h3⟩ := h
  have hm : s.mayIssue c t = true := by simp [State.mayIssue, h1, h2]
  have hg : ({ s.thread c t with yielded := false } : Thread).guard w = true := h3
  simp [State.issueInstr, hm, State.issued_self, hg, State.fetchLost_of_fetched h4, hn]

theorem State.advance_issued {s : State} {c : CoreId} {t : ThreadId} {x : Thread} (h : x.pc ≠ 0xFFFFF) :
    (s.issued c t x).advance c t = s.issued c t { x with pc := x.pc + 1 } := by
  simp only [State.advance, State.issued_thread, if_neg h, State.issued_modThread]

theorem Thread.setReg_pc (x : Thread) (r : BitVec 6) (v : Word) : (x.setReg r v).pc = x.pc := by
  unfold Thread.setReg; split <;> rfl

theorem Thread.setPred_pc (x : Thread) (p : Nat) (v : Bool) : (x.setPred p v).pc = x.pc := by
  unfold Thread.setPred; split <;> rfl

theorem Thread.setReg_next (x : Thread) (r : BitVec 6) (v : Word) :
    { ({ x with yielded := false } : Thread).setReg r v with pc := x.pc + 1 } = x.next.setReg r v := by
  unfold Thread.setReg Thread.next; split <;> rfl

theorem Thread.setPred_next (x : Thread) (p : Nat) (v : Bool) :
    { ({ x with yielded := false } : Thread).setPred p v with pc := x.pc + 1 } = x.next.setPred p v := by
  unfold Thread.setPred Thread.next; split <;> rfl

/-- A register result of an instruction that goes on. -/
theorem State.putReg_issued {s : State} {c : CoreId} {t : ThreadId} (r : BitVec 6) (v : Word) (h : (s.thread c t).pc ≠ 0xFFFFF) :
    (s.issued c t { s.thread c t with yielded := false }).putReg c t r v =
      s.issued c t ((s.thread c t).next.setReg r v) := by
  have h' : (({ s.thread c t with yielded := false } : Thread).setReg r v).pc ≠ 0xFFFFF := by
    rw [Thread.setReg_pc]; exact h
  rw [State.putReg, State.issued_modThread, State.advance_issued h', ← Thread.setReg_next, Thread.setReg_pc]

theorem State.putPred_issued {s : State} {c : CoreId} {t : ThreadId} (p : Nat) (v : Bool) (h : (s.thread c t).pc ≠ 0xFFFFF) :
    (s.issued c t { s.thread c t with yielded := false }).putPred c t p v =
      s.issued c t ((s.thread c t).next.setPred p v) := by
  have h' : (({ s.thread c t with yielded := false } : Thread).setPred p v).pc ≠ 0xFFFFF := by
    rw [Thread.setPred_pc]; exact h
  rw [State.putPred, State.issued_modThread, State.advance_issued h', ← Thread.setPred_next, Thread.setPred_pc]

end Sys2Proof.Machine
end

