-- ==== Sys2Proof/WellFormed.lean ====
section
/-! DEFINITION. Which commands are well-formed: what the specification lets arrive in an event's operands. A command that
is not well-formed names something that cannot happen; its meaning is still total. -/

namespace Sys2Proof

/-- Both addresses are of one version of IP. -/
def sameVersion (a b : IpAddr) : Bool :=
  match a, b with
  | .v4 _, .v4 _ => true
  | .v6 _, .v6 _ => true
  | _, _ => false

/-- An FCT packet fits its LEN field and an IP packet of 8,960 bytes (R345): at most 8,960 − 48 − 40 − 8 bytes. -/
def Pkt.wf (p : Pkt) : Bool := decide (p.payload.length ≤ 8864) && sameVersion p.src p.dst

/-- A DATA flit has 13 message slots (R265). -/
def Flit.wf (f : Flit) : Bool := decide (f.slots.length = 13)

/-- Every page of an arrival has the same size, with its count of live rows (R292). -/
def KvArrival.wf (a : KvArrival) : Bool :=
  a.pages.all fun x => decide (x.1.length = ((a.pages.head?).map fun y => y.1.length).getD 0)

/-- A maintenance write of MOD_FNCTL names a function of R381. -/
def fnNumber (fn : BitVec 6) : Bool := decide (fn.toNat ≤ 4) || (decide (8 ≤ fn.toNat) && decide (fn.toNat ≤ 0x1F))

/-- The command is well-formed. -/
def Instr.wf (i : Instr) : Bool :=
  match i with
  | .registerWrite _ a _ => decide (a.toNat % 8 = 0)
  | .kvRingArrival a => a.wf
  | .dataFlitReceive _ f => f.wf
  | .tgRunEnd _ checked failing => decide (failing.length ≤ checked.toNat)
  | .setupHello p => p.wf && p.type == 0x01
  | .setupFinish p => p.wf && p.type == 0x03
  | .control p => p.wf && p.type == 0x10
  | .ack p => p.wf && p.type == 0x11 && p.payload.isEmpty
  | .data p => p.wf && p.type == 0x12
  | .haspStop p => p.wf && p.type == 0x20 && p.payload.headD 2 == 0
  | .haspRelease p => p.wf && p.type == 0x20 && p.payload.headD 2 == 1
  | .echoRequest _ _ src dst _ => sameVersion src dst
  | .fnStartFinished fn _ _ => fnNumber fn
  | .fnStopFinished fn => fnNumber fn
  | _ => true

end Sys2Proof
end

