-- ==== Sys2Proof/Tests/Slice0.lean ====
section
/-! SUPPORT. Small tests: expected results come from the rules cited, and each `wit_` theorem shows a state and operands that
meet the hypotheses of the statement it names. -/

namespace Sys2Proof.Tests

open Sys2Proof Sys2Proof.Machine

set_option Elab.async false

/-- A word with its major opcode (R36). -/
def iw (maj w : Nat) : IWord := { word := BitVec.ofNat 32 (maj * 2 ^ 26 + w), lost := false }

/-- Core 0 belongs to partition 0, and its thread 0 is READY. -/
def w0 : State :=
  let s := State.reset.modReg 0 fun r => { r with part := some 0 }
  s.setThread 0 0 { s.thread 0 0 with st := .ready }

/-- w0 with thread 0 of core 0 changed. -/
def wt (f : Thread → Thread) : State := w0.setThread 0 0 (f (w0.thread 0 0))

/-- The thread 0 of core 0 after a command, as a property of the next state. -/
def After (i : Instr) (s : State) (p : State → Bool) : Bool :=
  match exec i s with
  | .next u => p u
  | _ => false

/-- A descriptor from fields: the number at a byte. -/
def dsc (fs : List (Nat × Nat)) : Desc := BitVec.ofNat 1024 (fs.map fun f => f.2 * 256 ^ f.1).sum

/-- The first MiB of the near tier is a window of partition 0. -/
def win (s : State) : State := s.modPart 0 fun p =>
  { p with cfg := { p.cfg with windows := [{ base := 0, size := 0x100000, ro := false }] } }

/-- The operation of a descriptor, queued on core 0, whose partition is 0. -/
def opq (d : Desc) : Op := newOp (State.reset.core 0) d (headerBad 0 d true) (byThread d)

def withOp (s : State) (o : Op) : State := s.modCore 0 fun k => { k with ops := [o], next := o.ticket + 1 }

def wop (d : Desc) : State := withOp (win w0) (opq d)

/-! ### Threads -/

theorem wit_hardwiredRegisters : ((63 : BitVec 6) ≠ 0) ∧ (0 < 7 ∧ 7 < 8) := by decide

theorem wit_registerInstructions : w0.runsOn 0 0 (iw 0x01 13) = true ∧ (iw 0x01 13).word.toNat % 16 = 13 ∧
    (Instr.alu 0 0 (iw 0x01 13)).spelled = true ∧ (Instr.movk 0 0 (iw 0x0F 0)).spelled = true ∧
    (Instr.rdpart 0 0 (iw 0x38 4)).spelled = true := by decide +kernel

theorem wit_shift : w0.runsOn 0 0 (iw 0x08 63) = true ∧ (Instr.srai 0 0 (iw 0x08 63)).spelled = true := by decide +kernel

theorem wit_cmp : w0.runsOn 0 0 (iw 0x09 6) = true ∧ (iw 0x09 6).word.toNat % 16 = 6 ∧
    (Instr.cmp 0 0 (iw 0x09 6)).spelled = true := by decide +kernel

theorem wit_plog : w0.runsOn 0 0 (iw 0x0B 0x1800) = true ∧ (iw 0x0B 0x1800).word.toNat / 2 ^ 11 % 4 = 3 ∧
    (Instr.plog 0 0 (iw 0x0B 0x1800)).spelled = true := by decide +kernel

/-- R35: the last word of the core store, a target of BR from the first, and the word before the first. -/
theorem wit_jump : w0.runs 0 0 (iw 0x11 0xFFFFF) = true ∧ (iw 0x11 0xFFFFF).maj 0x11 = true ∧
    ((iw 0x11 0xFFFFF).word.extractLsb' 0 22).toInt = 2 ^ 20 - 1 ∧ ((iw 0x12 0x3FFFFF).word.extractLsb' 0 22).toInt = -1 ∧
    w0.runs 0 0 (iw 0x12 0x3FFFFF) = true := by decide +kernel

theorem wit_jr : w0.runs 0 0 (iw 0x13 0) = true ∧ (iw 0x13 0).maj 0x13 = true ∧ (iw 0x13 0).word.toNat % 1024 = 0 := by
  decide +kernel

theorem wit_fetch_lost : (Instr.alu 0 0 { iw 0x01 0 with lost := true }).ofThread = some (0, 0, { iw 0x01 0 with lost := true }) ∧
    (w0.thread 0 0).st = .ready ∧ w0.fetched 0 0 { iw 0x01 0 with lost := true } = false := by decide +kernel

/-- R38: the all-zero word, a reserved major opcode and a reserved function of ALU encode nothing. -/
theorem wit_encoding_bad : w0.fetched 0 0 (iw 0 0) = true ∧ (iw 0 0).reserved ∧ (iw 0x3F 0).reserved ∧ (iw 0x01 14).reserved := by
  refine ⟨by decide +kernel, ?_, ?_, ?_⟩ <;> intro i ⟨c, t, h⟩ <;> cases i <;>
    simp only [Instr.ofThread, Option.some.injEq, Prod.mk.injEq, reduceCtorEq] at h <;> obtain ⟨_, _, rfl⟩ := h <;> rfl

theorem wit_guard : w0.fetched 0 0 (iw 0x01 0x400000) = true ∧ (Instr.alu 0 0 (iw 0x01 0x400000)).spelled = true ∧
    (w0.thread 0 0).guard (iw 0x01 0x400000) = false ∧ (w0.thread 0 0).pc ≠ 0xFFFFF := by decide +kernel

/-- R36 to R38: words written out from the encodings: ADDI g4, g0, -1; CMPI LT to p3; SYS 4; and three that encode nothing. -/
theorem test_encodings : instrOf { word := 0x080403FF, lost := false } = some .addi ∧
    instrOf { word := 0x281A0001, lost := false } = some .cmpi ∧ instrOf { word := 0xE0040004, lost := false } = some .rdpart ∧
    instrOf { word := 0, lost := false } = none ∧ instrOf { word := 0xE0040005, lost := false } = none ∧
    instrOf { word := 0x0404000E, lost := false } = none := by decide +kernel

theorem test_zero_word_freezes : After (.addi 0 0 (iw 0 0)) w0
    (fun u => (u.thread 0 0).st == .frozen && (u.thread 0 0).fault.cause = 0x01) = true := by decide +kernel

theorem test_lost_fetch_freezes : After (.addi 0 0 { iw 0x02 0 with lost := true }) (wt fun x => { x with pc := 17 })
    (fun u => (u.thread 0 0).st == .frozen && (u.thread 0 0).fault.cause = 0x07 &&
      (u.thread 0 0).fault.addr = 0x200000000040) = true := by decide +kernel

/-- R37: SUB of equal registers is 0, MULHU of the largest operands, and a shift takes six bits. -/
theorem test_alu_mulhu : After (.alu 0 0 (iw 0x01 0x43A29)) (wt fun x => { (x.setReg 14 (BitVec.allOnes 64)) with pc := 5 })
    (fun u => (u.thread 0 0).reg 4 = 0 && (u.thread 0 0).pc = 6) = true := by decide +kernel

theorem test_alu_mulhu_top : After (.alu 0 0 (iw 0x01 0x438E9)) (wt fun x => x.setReg 14 (BitVec.allOnes 64))
    (fun u => (u.thread 0 0).reg 4 = 0xFFFFFFFFFFFFFFFE) = true := by decide +kernel

theorem test_addi_negative : After (.addi 0 0 (iw 0x02 0x403FF)) w0 (fun u => (u.thread 0 0).reg 4 = BitVec.allOnes 64) = true := by
  decide +kernel

theorem test_addi_g0 : After (.addi 0 0 (iw 0x02 0x3FF)) w0 (fun u => (u.thread 0 0).reg 0 = 0 && (u.thread 0 0).pc = 1) = true := by
  decide +kernel

theorem test_andi : After (.andi 0 0 (iw 0x03 0x43A0F)) (wt fun x => x.setReg 14 0x1234) (fun u => (u.thread 0 0).reg 4 = 0x1204) = true := by
  decide +kernel

theorem test_ori : After (.ori 0 0 (iw 0x04 0x43A00)) (wt fun x => x.setReg 14 1) (fun u => (u.thread 0 0).reg 4 = 0xFFFFFFFFFFFFFE01) = true := by
  decide +kernel

theorem test_xori : After (.xori 0 0 (iw 0x05 0x438FF)) (wt fun x => x.setReg 14 0x0F) (fun u => (u.thread 0 0).reg 4 = 0xF0) = true := by
  decide +kernel

theorem test_srai : After (.srai 0 0 (iw 0x08 0x4383F)) (wt fun x => x.setReg 14 0x8000000000000000)
    (fun u => (u.thread 0 0).reg 4 = BitVec.allOnes 64) = true := by decide +kernel

theorem test_shri : After (.shri 0 0 (iw 0x07 0x4383F)) (wt fun x => x.setReg 14 0x8000000000000000)
    (fun u => (u.thread 0 0).reg 4 = 1) = true := by decide +kernel

theorem test_shli : After (.shli 0 0 (iw 0x06 0x4383F)) (wt fun x => x.setReg 14 3)
    (fun u => (u.thread 0 0).reg 4 = 0x8000000000000000) = true := by decide +kernel

theorem test_cmp_signed : After (.cmp 0 0 (iw 0x09 0x30002)) w0 (fun u => (u.thread 0 0).predicate 3 = false) = true := by decide +kernel

theorem test_cmpi_lt : After (.cmpi 0 0 (iw 0x0A 0x1A0001)) w0 (fun u => (u.thread 0 0).predicate 3 = true) = true := by decide +kernel

theorem test_plog_andn : After (.plog 0 0 (iw 0x0B 0x81800)) w0 (fun u => (u.thread 0 0).predicate 1 = false) = true := by decide +kernel

theorem test_movk : After (.movk 0 0 (iw 0x0F 0x4BEEF)) (wt fun x => x.setReg 4 0x1111222233334444)
    (fun u => (u.thread 0 0).reg 4 = 0xBEEF222233334444) = true := by decide +kernel

theorem test_movs : After (.movs 0 0 (iw 0x10 0x48000)) w0 (fun u => (u.thread 0 0).reg 4 = 0xFFFFFFFFFFFF8000) = true := by decide +kernel

theorem test_br_self : After (.br 0 0 (iw 0x11 0x0)) w0 (fun u => (u.thread 0 0).pc = 0 && (u.thread 0 0).st == .ready) = true := by
  decide +kernel

theorem test_call_links : After (.call 0 0 (iw 0x12 0x3)) (wt fun x => { x with pc := 7 })
    (fun u => (u.thread 0 0).pc = 10 && (u.thread 0 0).reg 63 = 32) = true := by decide +kernel

theorem test_jr_odd_freezes : After (.jr 0 0 (iw 0x13 0x3800)) (wt fun x => x.setReg 14 2)
    (fun u => (u.thread 0 0).st == .frozen && (u.thread 0 0).fault.cause = 0x06) = true := by decide +kernel

theorem test_rdid : After (.rdid 3 9 (iw 0x38 0x40003)) (w0.setThread 3 9 { w0.thread 3 9 with st := .ready })
    (fun u => (u.thread 3 9).reg 4 = 0x309) = true := by decide +kernel

theorem test_rdpart : After (.rdpart 0 0 (iw 0x38 0x40004)) (w0.modReg 0 fun r => { r with part := some 5 })
    (fun u => (u.thread 0 0).reg 4 = 5) = true := by decide +kernel

/-! ### Accesses of threads -/

/-- A thread that waits for an access. -/
def wacc (k : AccKind) (a : Word) (rb cmp : Word) : State :=
  wt fun x => { x with st := .waitMem, acc := some { kind := k, rd := 5, addr := a, rb := rb, cmp := cmp, tag := none } }

def acc0 (k : AccKind) (a rb cmp : Word) : Acc := { kind := k, rd := 5, addr := a, rb := rb, cmp := cmp, tag := none }

theorem wit_load : (win w0).runs 0 0 (iw 0x1B 0x3800) = true ∧
    (win w0).dataAccess 0 ((win w0).memOperand 0 0 (iw 0x1B 0x3800) 8) 8 false = true := by decide +kernel

theorem wit_store : (win w0).runs 0 0 (iw 0x23 0x3800) = true ∧
    (win w0).dataAccess 0 ((win w0).memOperand 0 0 (iw 0x23 0x3800) 8) 8 true = true ∧ ((win w0).thread 0 0).stores.length < 8 ∧
    ((win w0).thread 0 0).pc ≠ 0xFFFFF := by decide +kernel

def y0 : Store := { addr := 64, size := 4, val := 0x11223344, tag := none }

def wfull : State := win (wt fun x => { x with stores := List.replicate 8 y0 })

theorem wit_store_ninth : wfull.runs 0 0 (iw 0x23 0x3800) = true ∧ wfull.dataAccess 0 (wfull.memOperand 0 0 (iw 0x23 0x3800) 8) 8 true = true ∧
    8 ≤ (wfull.thread 0 0).stores.length := by decide +kernel

theorem wit_atomic : (win w0).runs 0 0 (iw 0x29 0) = true ∧ (win w0).dataAccess 0 ((win w0).ra 0 0 (iw 0x29 0)) 8 true = true ∧
    (win w0).dataAccess 0 ((win w0).ra 0 0 (iw 0x29 0)) 4 true = true ∧
    atomicPlace true false (localPart ((win w0).ra 0 0 (iw 0x29 0)).toNat) = true ∧ localPart ((win w0).ra 0 0 (iw 0x29 0)).toNat < 0x4800000000 := by
  decide +kernel

/-- The first and the last byte of the near tier's range, and the one after it (R22, R64). -/
theorem wit_violations :
    let s := wt fun x => (x.setReg 14 0x47FFFFFFFF).setReg 15 0x4800000000
    (s.memOperand 0 0 (iw 0x23 0x3800) 1).toNat % 1 = 0 ∧ (s.memOperand 0 0 (iw 0x23 0x3800) 8).toNat % 8 ≠ 0 ∧
    s.isLocal (s.memOperand 0 0 (iw 0x23 0x3800) 1).toNat = true ∧ isRegAddr (localPart (s.memOperand 0 0 (iw 0x23 0x3800) 1).toNat) = false ∧
    s.mayAccess 0 (localPart (s.memOperand 0 0 (iw 0x23 0x3800) 1).toNat) 1 false = false ∧
    atomicPlace (s.isLocal (s.ra 0 0 (iw 0x2C 0x3C00)).toNat) true (localPart (s.ra 0 0 (iw 0x2C 0x3C00)).toNat) = false := by decide +kernel

theorem wit_violation_register :
    let s := wt fun x => x.setReg 14 0x300010000000
    s.runs 0 0 (iw 0x23 0x3800) = true ∧ s.isLocal (s.memOperand 0 0 (iw 0x23 0x3800) 4).toNat = true ∧
    isRegAddr (localPart (s.memOperand 0 0 (iw 0x23 0x3800) 4).toNat) = true := by decide +kernel

theorem wit_violation_atomic : (Instr.amo64 0 0 (iw 0x29 0)).spelled = true ∧ w0.isLocal (w0.ra 0 0 (iw 0x29 0)).toNat = true ∧
    atomicPlace true false (localPart (w0.ra 0 0 (iw 0x29 0)).toNat) = true ∧ w0.mayAccess 0 (localPart (w0.ra 0 0 (iw 0x29 0)).toNat) 8 true = false := by
  decide +kernel

theorem wit_loadReturn :
    let s := (wacc (.load 4 true) 0x40 0 0).put 0x40 [0xFF, 0xFF, 0xFF, 0x80]
    s.accReady 0 0 (acc0 (.load 4 true) 0x40 0 0) = true ∧ isRegAddr 0x40 = false ∧ s.uncorrectable [] 0x40 4 = none := by
  decide +kernel

theorem wit_loadReturn_register :
    let s := wacc (.load 8 false) 0x300010000000 0 0
    s.accReady 0 0 (acc0 (.load 8 false) 0x300010000000 0 0) = true ∧ isRegAddr 0x300010000000 = true ∧
    regionOf 0x300010000000 = .coreReg 0 0 0 ∧ s.regAt 0x300010000000 = some 0 := by decide +kernel

theorem wit_loadReturn_bad :
    let s := wacc (.load 4 true) 0x40 0 0
    s.accReady 0 0 (acc0 (.load 4 true) 0x40 0 0) = true ∧ s.uncorrectable [1] 0x40 4 = some 1 := by decide +kernel

theorem wit_loadReturn_reset :
    let s := (wacc (.load 8 false) 0x40 0 0).setThread 0 0 { (wacc (.load 8 false) 0x40 0 0).thread 0 0 with resetPend := true }
    let x := s.thread 0 0
    x.st = .waitMem ∧ x.acc = some (acc0 (.load 8 false) 0x40 0 0) ∧ s.isLocal 0x40 = true ∧
    x.accWaits (acc0 (.load 8 false) 0x40 0 0) = false ∧ x.resetPend = true ∧ x.pc ≠ 0xFFFFF ∧
    s.uncorrectable [] 0x40 8 = none := by decide +kernel

theorem test_ldws_sign : After (.loadDataReturn 0 0 []) ((wacc (.load 4 true) 0x40 0 0).put 0x40 [0xFF, 0xFF, 0xFF, 0x80])
    (fun u => (u.thread 0 0).reg 5 = 0xFFFFFFFF80FFFFFF && (u.thread 0 0).st == .ready && (u.thread 0 0).pc = 1) = true := by
  decide +kernel

theorem test_ldh_zero : After (.loadDataReturn 0 0 []) ((wacc (.load 2 false) 0x40 0 0).put 0x40 [0x34, 0x92, 0xFF])
    (fun u => (u.thread 0 0).reg 5 = 0x9234) = true := by decide +kernel

theorem test_load_uncorrectable : After (.loadDataReturn 0 0 [1]) (wacc (.load 4 true) 0x40 0 0)
    (fun u => (u.thread 0 0).st == .frozen && (u.thread 0 0).fault.cause = 0x07 && (u.thread 0 0).fault.addr = 0x40) = true := by
  decide +kernel

def wst : State := wt fun x => { x with stores := [y0] }

theorem wit_storePerformed : wst.memOk ∧ (wst.thread 0 0).stores[0]? = some y0 ∧ wst.isLocal y0.addr.toNat = true ∧
    (wst.thread 0 0).storeWaits 0 y0 = false ∧ isRegAddr 64 = false ∧ wst.plainData 64 4 = true ∧
    (wst.thread 0 0).held = none ∧ (wst.thread 0 0).acc = none := by
  refine ⟨rfl, ?_⟩; decide +kernel

def wheld : State := wt fun x =>
  { x with st := .waitMem, stores := List.replicate 8 y0, held := some y0, acc := some (acc0 .heldStore 64 0 0) }

theorem wit_storePerformed_held : (wheld.thread 0 0).held = some y0 ∧ (wheld.thread 0 0).storeWaits 0 y0 = false ∧
    (wheld.thread 0 0).resetPend = false ∧ (wheld.core 0).reg.frzCore = false := by decide +kernel

theorem test_store_bytes : After (.storePerformed 0 0 0) wst
    (fun u => u.mem = [(64, 0x44), (65, 0x33), (66, 0x22), (67, 0x11)] && (u.thread 0 0).stores = []) = true := by decide +kernel

theorem wit_amo : (wacc (.amo32 3 0) 0x40 7 0).memOk ∧
    (wacc (.amo32 3 0) 0x40 7 0).accReady 0 0 (acc0 (.amo32 3 0) 0x40 7 0) = true ∧
    (wacc (.amo32 3 0) 0x40 7 0).uncorrectable [] 0x40 4 = none ∧ (wacc (.amo32 3 0) 0x40 7 0).plainData 0x40 4 = true := by
  refine ⟨rfl, ?_⟩; decide +kernel

theorem test_amo64_cas : After (.loadDataReturn 0 0 []) ((wacc (.amo64 2 0) 0x40 9 5).put 0x40 [5])
    (fun u => u.mem = [(0x40, 9)] && (u.thread 0 0).reg 5 = 5) = true := by decide +kernel

theorem test_amo32_smax : After (.loadDataReturn 0 0 []) ((wacc (.amo32 3 0) 0x40 1 0).put 0x40 [0xFF, 0xFF, 0xFF, 0xFF])
    (fun u => u.mem = [(0x40, 1)] && (u.thread 0 0).reg 5 = 0xFFFFFFFF) = true := by decide +kernel

theorem test_amof_add : After (.loadDataReturn 0 0 []) ((wacc (.amof 0 0) 0x40 0x3F800000 0).put 0x40 [0, 0, 0x80, 0x3F])
    (fun u => u.rdN 0x40 4 = 0x40000000) = true := by decide +kernel

theorem test_amof_inf_minus_inf :
    After (.loadDataReturn 0 0 []) ((wacc (.amof 0 0) 0x40 0xFF800000 0).put 0x40 [0, 0, 0x80, 0x7F])
    (fun u => u.rdN 0x40 4 = 0x7FC00000) = true := by decide +kernel

theorem wit_sem :
    let s := (wacc (.semAcq 2) 0x40 3 0).put 0x40 [3]
    s.memOk ∧ s.accReady 0 0 (acc0 (.semAcq 2) 0x40 3 0) = true ∧ s.owner 0 = some 0 ∧ s.uncorrectable [] 0x40 8 = none ∧
    s.plainData 0x40 8 = true ∧ (s.part 0).leaseExpired 0 0 0x40 = false ∧ s.rdN 0x40 8 = 3 := by
  refine ⟨rfl, ?_⟩; decide +kernel

theorem test_sem_acquire_all : After (.loadDataReturn 0 0 []) ((wacc (.semAcq 2) 0x40 3 0).put 0x40 [3])
    (fun u => u.mem = [] && (u.thread 0 0).predicate 2 && (u.thread 0 0).reg 5 = 0) = true := by decide +kernel

theorem test_sem_acquire_short : After (.loadDataReturn 0 0 []) ((wacc (.semAcq 2) 0x40 4 0).put 0x40 [3])
    (fun u => u.mem = [(0x40, 3)] && !(u.thread 0 0).predicate 2) = true := by decide +kernel

theorem test_sem_release_saturates :
    After (.loadDataReturn 0 0 []) ((wacc (.semRel 2) 0x40 4 0).put 0x40 [0xFE, 0xFF, 0xFF, 0xFF])
    (fun u => u.rdN 0x40 8 = 0xFFFFFFFF) = true := by decide +kernel

theorem wit_system : w0.runs 0 0 (iw 0x38 0) = true ∧ (w0.thread 0 0).pc ≠ 0xFFFFF ∧ (w0.thread 0 0).stores = [] ∧
    (vget (w0.core 0).tokens 0).bound = false := by decide +kernel

theorem wit_fence_instr : wst.runs 0 0 (iw 0x28 2) = true ∧ (wst.thread 0 0).stores ≠ [] ∧ (iw 0x28 2).word.toNat % 4 = 2 := by decide +kernel

/-- Token 111, the last one a thread may name, is busy with an operation of core 0. -/
def wtok : State := w0.modCore 0 fun k =>
  { k with tokens := vset k.tokens 111 { busy := true, bound := true, status := 0, ticket := k.next },
           ops := [{ newOp k 0 false (byThread 0) with sig := some 111 }] }

theorem wit_twait_busy : wtok.runs 0 0 (iw 0x31 111) = true ∧ (vget (wtok.core 0).tokens 111).busy = true ∧
    (((wtok.core 0).ops.filter fun o => o.sig == some (BitVec.ofNat 7 111)).getLast?).isSome = true := by decide +kernel

theorem test_halt : After (.halt 0 0 (iw 0x38 0x0)) w0 (fun u => (u.thread 0 0).st == .idle && (u.thread 0 0).pc = 1) = true := by decide +kernel

theorem test_yield : After (.yield 0 0 (iw 0x38 0x1)) w0 (fun u => (u.thread 0 0).yielded && (u.thread 0 0).pc = 1) = true := by decide +kernel

theorem test_fence_waits : After (.fence 0 0 (iw 0x28 0x2)) wst (fun u => u.thread 0 0 = wst.thread 0 0) = true := by decide +kernel

theorem test_twait_unbound : After (.twait 0 0 (iw 0x31 0x4006F)) (wt fun x => x.setReg 4 9)
    (fun u => (u.thread 0 0).reg 4 = 0 && (u.thread 0 0).pc = 1) = true := by decide +kernel

theorem test_twait_waits : After (.twait 0 0 (iw 0x31 0x4006F)) wtok (fun u => (u.thread 0 0).st == .waitToken && (u.thread 0 0).pc = 0) = true := by
  decide +kernel

theorem test_tpoll_busy : After (.tpoll 0 0 (iw 0x32 0x400EF)) wtok
    (fun u => (u.thread 0 0).predicate 1 = false && (u.thread 0 0).pc = 1) = true := by decide +kernel

/-- A descriptor at the start of core 0's core store: a NOP. -/
def wtiss : State := (wt fun x => x.setReg 14 0x200000000000).put 0x200000000000 [1]

theorem wit_tiss : wtiss.runsOn 0 0 (iw 0x30 0x43800) = true ∧ (iw 0x30 0x43800).word.toNat % 1024 = 0 ∧ (wtiss.thread 0 0).stores = [] ∧
    (wtiss.core 0).ops.length < 64 ∧ wtiss.isLocal (wtiss.ra 0 0 (iw 0x30 0x43800)).toNat = true ∧
    slotOf 0 ≤ localPart (wtiss.ra 0 0 (iw 0x30 0x43800)).toNat ∧
    wtiss.uncorrectable [] (localPart (wtiss.ra 0 0 (iw 0x30 0x43800)).toNat) 128 = none ∧
    wtiss.crecOutside 0 (BitVec.ofNat 1024 (wtiss.rdN 0x200000000000 128)) = false := by decide +kernel

theorem wit_tiss_full : 64 ≤ ((wtiss.modCore 0 fun k => { k with ops := List.replicate 64 (newOp k 0 false (byThread 0)) }).core 0).ops.length := by
  decide +kernel

theorem wit_tiss_misplaced : (wtiss.core 0).ops.length < 64 ∧ localPart ((wt fun x => x.setReg 14 0x200000000020).ra 0 0 (iw 0x30 0x43800)).toNat % 64 ≠ 0 := by
  decide +kernel

theorem test_tiss : After (.tiss 0 0 (iw 0x30 0x43800) []) wtiss
    (fun u => ((u.core 0).ops.map fun o => (dOpc o.desc, o.move, o.phase)) = [(1, true, .queued)] && (u.thread 0 0).pc = 1) = true := by
  decide +kernel

theorem wit_threadControl : State.reset.mayControl .mctl 0 = false ∧ w0.mayControl (.pctl 0) 0 = true ∧ (w0.thread 0 1).st = .idle ∧
    (w0.part 0).st ≠ .held ∧ (w0.thread 0 0).st = .ready ∧ (wheld.thread 0 0).st = .waitMem := by decide +kernel

theorem wit_threadControl_frozen : ((wt fun x => { x with st := .frozen }).thread 0 0).st = .frozen ∧
    (wt fun x => { x with st := .frozen }).mayControl (.thread 0 1) 0 = true := by decide +kernel

theorem test_start_held : After (.thrCtlReset (.thread 0 1) 0 0) (wt fun x => { x with st := .frozen })
    (fun u => (u.thread 0 0).st == .frozen) = true := by decide +kernel

theorem test_start : After (.thrCtlStart (.pctl 0) 0 1) w0 (fun u => (u.thread 0 1).st == .ready) = true := by decide +kernel

/-! ### Well-formed commands, addresses and registers -/

def pkt0 (type : Byte) (payload : List Byte) : Pkt :=
  { port := 0, mac := 0, pcp := 0, tagged := false, vid := 0, src := .v6 1, dst := .v6 (linkLocal (State.reset.eth 0).mac),
    udpPort := (State.reset.eth 0).udpPort, ver := 1, type := type, sid := 0, seq := 0, ackc := 0, ackb := 0,
    payload := payload, tag := 0 }

def arr0 (pages : List (List Byte × BitVec 16)) : KvArrival :=
  { srcModule := 0, part := 0, tag := 0, dstSeq := 0, sp := 0, spidx := 0, h := 0, d := 0, head0 := 0, ptype := 0,
    flushed := 0, pages := pages, sig := 0 }

def flit0 (good : Bool) (seq : BitVec 12) (slots : List (BitVec 384)) : Flit :=
  { fec := if good then .clean else .crcFails, seq := seq, ackv := true, ack := 0, cv := true, cpart := 0, cvc := 2, ccnt := 1, slots := slots }

/-- One ill-formed term for each check, and a well-formed one beside it. -/
theorem test_wf : (Instr.registerWrite .mctl 4 0).wf = false ∧ (Instr.registerWrite .mctl 8 0).wf = true ∧
    (Instr.kvRingArrival (arr0 [([1], 0), ([], 0)])).wf = false ∧ (Instr.kvRingArrival (arr0 [([1], 0), ([2], 1)])).wf = true ∧
    (Instr.dataFlitReceive 0 (flit0 true 0 [])).wf = false ∧ (Instr.dataFlitReceive 0 (flit0 true 0 (List.replicate 13 0))).wf = true ∧
    (Instr.tgRunEnd 0 1 [(0, 0), (1, 0)]).wf = false ∧ (Instr.tgRunEnd 0 2 [(0, 0), (1, 0)]).wf = true ∧
    (Instr.echoRequest 0 0 (.v4 1) (.v6 1) []).wf = false ∧ (Instr.echoRequest 0 0 (.v4 1) (.v4 2) []).wf = true ∧
    (Instr.fnStartFinished 5 true 0).wf = false ∧ (Instr.fnStopFinished 32).wf = false ∧ (Instr.fnStopFinished 8).wf = true := by decide

theorem test_wf_packets : (Instr.setupHello (pkt0 3 [])).wf = false ∧ (Instr.setupHello (pkt0 1 [])).wf = true ∧
    (Instr.setupFinish (pkt0 1 [])).wf = false ∧ (Instr.control (pkt0 0x11 [])).wf = false ∧ (Instr.data (pkt0 0x10 [])).wf = false ∧
    (Instr.ack (pkt0 0x11 [0])).wf = false ∧ (Instr.ack (pkt0 0x11 [])).wf = true ∧
    (Instr.haspStop (pkt0 0x20 [1])).wf = false ∧ (Instr.haspRelease (pkt0 0x20 [0])).wf = false ∧
    (Instr.haspStop (pkt0 0x20 [0])).wf = true ∧ (Instr.haspRelease (pkt0 0x20 [1])).wf = true := by decide

theorem test_wf_oversize : Pkt.wf (pkt0 0x12 (List.replicate 8864 0)) = true ∧ Pkt.wf (pkt0 0x12 (List.replicate 8865 0)) = false := by
  simp only [Pkt.wf, pkt0, List.length_replicate]; decide

/-- The first and last byte of every range of R22 and R23, and what follows it. -/
theorem test_addresses : regionOf 0x47FFFFFFFF = .near ∧ regionOf 0x4800000000 = .unmapped ∧ regionOf 0x13FFFFFFFFFF = .far 0x3FFFFFFFFFF ∧
    regionOf 0x2000003FFFFF = .store 0 0x3FFFFF ∧ regionOf 0x200000400000 = .sts 0 0 ∧ regionOf 0x200000500000 = .punnet 0 ∧
    regionOf 0x20000052FFFF = .txb 0 ∧ regionOf 0x200000530000 = .unmapped ∧ regionOf 0x300010070000 = .coreReg 0 7 0 ∧
    regionOf 0x300010080000 = .unmapped := by decide +kernel

theorem wit_registerWrite : State.reset.regAt 0x20000 = none ∧ w0.usable 0 = true ∧ w0.mayControl (.pctl 0) 0 = true ∧
    (w0.thread 0 1).st = .idle ∧ (w0.thread 0 0).st ≠ .idle ∧ w0.owner 1 ≠ w0.owner 0 ∧ regionOf 0x300000000000 = .modReg 0 0 := by
  decide +kernel

theorem test_registerWrite_pred : After (.registerWrite (.pctl 0) 0x300010020418 6) w0
    (fun u => (u.thread 0 1).pred = 7 && (u.thread 0 1).pc = 0) = true := by decide +kernel

/-! ### Operations -/

def dNop : Desc := dsc [(0, 1)]

theorem wit_notStartable : (Instr.nop 0).starts = some (0, 0x01, []) ∧ (w0.core 0).startable 0x01 = none := by decide +kernel

theorem wit_startsBad : ((wop (dsc [(0, 1), (1, 13)])).core 0).startable 0x01 = some (opq (dsc [(0, 1), (1, 13)])) ∧
    (opq (dsc [(0, 1), (1, 13)])).bad = true := by decide +kernel

def oFailed : Op := { opq dNop with depSt := stRetired }

theorem wit_startsFailed : ((withOp w0 oFailed).core 0).startable 0x01 = some oFailed ∧ oFailed.bad = false ∧
    isFailure oFailed.depSt = true := by decide +kernel

theorem wit_startsStopped : ((wop dNop).modPart 0 fun p => { p with src := 1 }).coreStopped 0 = true ∧
    (opq dNop).boundary = false ∧ isFailure (opq dNop).depSt = false := by decide +kernel

def dAtIssue (a : Nat) : Desc := dsc [(0, 1), (2, 0x10), (16, a)]

theorem wit_bounds : dBmode (opq (dAtIssue 8)).desc = 1 ∧ d64 (opq (dAtIssue 8)).desc 16 % 16 ≠ 0 ∧
    d64 (opq (dAtIssue 0x4800000000)).desc 16 % 16 = 0 ∧ inNearOrStore 0 0x4800000000 16 = false ∧
    ((wop (dAtIssue 0x100000)).core 0).startable 0x01 = some (opq (dAtIssue 0x100000)) ∧ inNearOrStore 0 0x100000 16 = true ∧
    ((wop (dAtIssue 0x100000)).coreViolates 0 0x100000 16 false).isSome = true := by decide +kernel

theorem wit_nop : (wop dNop).begins 0 [] (opq dNop) dNop = true ∧ (plainHeader dNop && onlyFields dNop []) = true ∧
    (wop (dsc [(0, 1), (16, 1)])).begins 0 [] (opq (dsc [(0, 1), (16, 1)])) (dsc [(0, 1), (16, 1)]) = true ∧
    (plainHeader (dsc [(0, 1), (16, 1)]) && onlyFields (dsc [(0, 1), (16, 1)]) []) = false := by decide +kernel

def dCopy (src dst len : Nat) : Desc := dsc [(0, 2), (16, len), (32, src), (40, dst)]

theorem wit_copy : (wop (dCopy 0 0x40 64)).begins 0 [] (opq (dCopy 0 0x40 64)) (dCopy 0 0x40 64) = true ∧
    copyLegal (dCopy 0 0x40 64) = true ∧ (wop (dCopy 0 0x40 64)).isLocal 0x40 = true ∧
    (wop (dCopy 0 0x40 64)).coreViolates 0 0x40 64 true = none ∧ (wop (dCopy 0 0x40 64)).coreViolates 0 0 64 false = none ∧
    (wop (dCopy 0 0x40 64)).uncorrectable [] 0 64 = none ∧ (wop (dCopy 0 0x40 64)).plainData 0x40 64 = true := by decide +kernel

theorem wit_copy_bad : (wop (dCopy 0 0x40 64)).uncorrectable [0] 0 64 = some 0 ∧
    ((wop (dCopy 0 0x100000 64)).coreViolates 0 0x100000 64 true).isSome = true ∧
    copyLegal (dsc [(0, 2), (16, 64), (32, 0), (40, 0x40), (48, 1)]) = false := by decide +kernel

def dFill (dst len pat : Nat) : Desc := dsc [(0, 3), (16, len), (40, dst), (96, pat)]

theorem wit_fill : (wop (dFill 0x40 64 1)).begins 0 [] (opq (dFill 0x40 64 1)) (dFill 0x40 64 1) = true ∧
    fillLegal (dFill 0x40 64 1) = true ∧ (wop (dFill 0x40 64 1)).coreViolates 0 0x40 64 true = none ∧
    (wop (dFill 0x40 64 1)).plainData 0x40 64 = true ∧ fillLegal (dFill 0x40 64 1 ||| dsc [(48, 1)]) = false := by decide +kernel

/-- R43: a COPY that overlaps itself is refused whole. -/
theorem test_copy_overlap : After (.copy 0 []) ((wop (dCopy 0 1 2)).put 0 [7, 9])
    (fun u => u.mem = [(0, 7), (1, 9)] && ((u.core 0).ops.map Op.phase) = [.finished stBadDesc]) = true := by decide +kernel

theorem test_fill : After (.fill 0) (wop (dFill 0x40 9 0x0807060504030201))
    (fun u => u.rdB 0x40 = 1 && u.rdB 0x47 = 8 && u.rdB 0x48 = 1 && u.rdB 0x49 = 0) = true := by decide +kernel

theorem test_nop : After (.nop 0) (wop dNop) (fun u => ((u.core 0).ops.map Op.phase) = [.finished stDone]) = true := by decide +kernel

/-- A NOP that has ended, with a completion record at 0x40 and token 111 bound. -/
def oDone (crec : Nat) (st : Status) : Op := { opq (dsc [(0, 1), (4, 0xEF), (8, crec)]) with phase := .finished st }

def wdone (crec : Nat) (st : Status) : State := (withOp (win w0) (oDone crec st)).modCore 0 fun k =>
  { k with tokens := vset k.tokens 111 { busy := true, bound := true, status := 0, ticket := (oDone crec st).ticket } }

theorem wit_opComplete : (wdone 0x40 stDone).mayComplete 0 (oDone 0x40 stDone).ticket = some (oDone 0x40 stDone, stDone) ∧
    (oDone 0x40 stDone).host = none ∧ ((wdone 0x40 stDone).core 0).kvc.holds = [] ∧ dCrec (oDone 0x40 stDone).desc = 0x40 ∧
    crecLegal 0 0x40 = true ∧ (wdone 0x40 stDone).crecOutside 0 (oDone 0x40 stDone).desc = false ∧
    (wdone 0x40 stDone).plainData 0x40 32 = true ∧ (oDone 0x40 stDone).sig = some 111 := by decide +kernel

theorem wit_opComplete_none : w0.mayComplete 0 0 = none := by decide +kernel

theorem wit_opComplete_elog : (wdone 0 stRetired).mayComplete 0 (oDone 0 stRetired).ticket = some (oDone 0 stRetired, stRetired) ∧
    isFailure stRetired = true ∧ ((wdone 0 stRetired).core 0).reg.elogValid = false := by decide +kernel

theorem wit_combine : [stDone, stRetired].find? isFailure = some stRetired ∧ isFailure stDone = false ∧ isFailure 0x000F = false ∧
    isFailure 0x0010 = true := by decide

theorem test_opComplete : After (.opComplete 0 (oDone 0x40 stDone).ticket) (wdone 0x40 stDone)
    (fun u => (u.core 0).ops = [] && !(vget (u.core 0).tokens 111).busy && (u.core 0).completed = 1) = true := by decide +kernel

/-! ### The array -/

/-- A product of one by one in BF16 with an FP32 result. -/
def dMat (opc m tmode : Nat) : Desc := dsc [(0, opc), (1, 0x88), (2, 10 + 64 * tmode), (16, m), (21, 1), (26, 1), (40, 0x1000),
  (48, 0x2000), (64, 64), (72, 64), (80, 64)]

/-- A convolution of one pixel, one channel and one tap. -/
def dConv (opc ta tout cin tapk tw w dws tmode : Nat) : Desc := dsc [(0, opc), (1, ta), (2, tout + 64 * tmode), (16, 1), (18, 1), (20, 1),
  (22, cin), (24, 1), (26, 0x11), (27, 1 + 4 * tapk), (40, w), (48, 0x2000), (64, 64), (68, 64), (72, 64), (80, 64), (88, 64),
  (92, 64), (97, 0x11), (98, 1), (99, 1), (100, 1), (101, 1), (102, 1), (104, 1), (106, 1), (107, tw), (120, dws)]

def fits (i : Instr) (d : Desc) (legal : State → Bool) : Bool :=
  (wop d).begins 0 [] (opq d) d && i.starts == some (0, dOpc d, []) && legal (wop d)

theorem wit_matmul : fits (.matmul 0 []) (dMat 0x10 1 0) (fun s => s.matmulLegal 0 (dMat 0x10 1 0)) = true ∧
    (wop (dMat 0x10 0 0)).matmulLegal 0 (dMat 0x10 0 0) = true ∧ (wop (dMat 0x10 1 1)).matmulLegal 0 (dMat 0x10 1 1) = false ∧
    (wop (dMat 0x10 1 0)).viewTrouble 0 ((wop (dMat 0x10 1 0)).plainView (dMat 0x10 1 0)) ((wop (dMat 0x10 1 0)).tilesOf 0 (dMat 0x10 1 0))
      ((wop (dMat 0x10 1 0)).mayWiden 0 0 10) = none := by decide +kernel

theorem wit_matmulDx : fits (.matmulDx 0 []) (dMat 0x50 1 0) (fun s => s.dxLegal 0 (dMat 0x50 1 0)) = true ∧
    (wop (dMat 0x50 0 0)).dxLegal 0 (dMat 0x50 0 0) = true := by decide +kernel

theorem wit_matmulDw : fits (.matmulDw 0 []) (dMat 0x51 1 1) (fun s => s.dwLegal 0 (dMat 0x51 1 1)) = true ∧
    (wop (dMat 0x51 1 0)).dwLegal 0 (dMat 0x51 1 0) = false := by decide +kernel

theorem wit_conv : fits (.conv 0 []) (dConv 0x40 0x88 10 1 1 1 0x1000 0 0) (fun s => s.convLegal 0 (dConv 0x40 0x88 10 1 1 1 0x1000 0 0) none) = true ∧
    (geoOf (dConv 0x40 0x88 10 1 1 1 0x1000 0 0)).isZero = false ∧
    (wop (dConv 0x40 0x88 10 0 1 1 0x1000 0 0)).convLegal 0 (dConv 0x40 0x88 10 0 1 1 0x1000 0 0) none = true ∧
    (geoOf (dConv 0x40 0x88 10 0 1 1 0x1000 0 0)).isZero = true := by decide +kernel

theorem wit_convT : fits (.convT 0 []) (dConv 0x41 0x88 10 1 1 1 0x1000 0 0) (fun s => s.convLegal 0 (dConv 0x41 0x88 10 1 1 1 0x1000 0 0) none) = true := by
  decide +kernel

theorem wit_convDx : fits (.convDx 0 []) (dConv 0x52 0x88 10 1 1 1 0x1000 0 0) (fun s => s.convDxLegal 0 (dConv 0x52 0x88 10 1 1 1 0x1000 0 0)) = true := by
  decide +kernel

theorem wit_convDw : fits (.convDw 0 []) (dConv 0x53 0x88 10 1 0 0 0x1000 64 1) (fun s => s.convDwLegal 0 (dConv 0x53 0x88 10 1 0 0 0x1000 64 1)) = true := by
  decide +kernel

theorem wit_pool : fits (.pool 0 []) (dConv 0x42 8 8 1 0 0 0 0 0) (fun s => s.convLegal 0 (dConv 0x42 8 8 1 0 0 0 0 0) none) = true := by
  decide +kernel

def dStash (rows : Nat) : Desc := dsc [(0, 0x58), (1, 8), (2, 3), (16, rows), (20, 1), (40, 0x2000), (64, 64), (72, 64)]

theorem wit_stash : fits (.stash 0 []) (dStash 1) (fun s => s.stashLegal 0 (dStash 1)) = true ∧ (wop (dStash 0)).stashLegal 0 (dStash 0) = true := by
  decide +kernel

/-! ### Passes, banks and fused stripes -/

def tl (n : Nat) : TileSpec := { rows := [0], n0 := 0, n1 := 1, passes := List.replicate n { c0 := 0, c1 := 1, blocks := [[0]] } }

def dEscM (tout esc : Nat) : Desc := dMat 0x10 1 0 ||| dsc [(2, tout), (3, esc)]

def oArr (d : Desc) : Op := { opq d with phase := .running }

/-- The product expands into one tile, with these passes prepared, in flight and left. -/
def awork (tiles todo : Nat) (d : Desc) : ArrayWork :=
  let a := arrayWork (oArr d).ticket d 1 1 1 (List.replicate tiles (tl 1))
  { a with todo := a.todo.drop (tiles - todo) }

def warr (d : Desc) (a : ArrayWork) (f : ArrUnit → ArrUnit) : State :=
  (withOp (win w0) { oArr d with work := .array a }).modArr 0 f

def pr (d : Desc) (i : Nat) : PassRef := { ticket := (oArr d).ticket, tile := i, pass := 0, rerun := false, counted := true }

def bk (d : Desc) (st : BankSt) (i sat : Nat) : Bank :=
  { st := st, ticket := (oArr d).ticket, tile := i, rerun := false, sums := [[0]], sat := sat, pip := 0 }

def d0 : Desc := dMat 0x10 1 0

def opOf (s : State) : Option Op := s.findOp 0 (oArr d0).ticket

theorem wit_prepare : let s := warr d0 (awork 1 1 d0) id
    (s.core 0).reg.frzCore = false ∧ (s.core 0).arr.prep.length < (s.cfgOf 0).lookahead.toNat ∧
    ((s.core 0).ops.find? fun o => o.expands && !o.move) = opOf s ∧ (opOf s).isSome = true ∧
    (awork 1 1 d0).todo = [pr d0 0] ∧ s.sharedTags 0 < 224 ∧
    (let u := warr d0 (awork 1 1 d0) fun a => { a with prep := List.replicate 8 { pr d0 0 with tags := 28 } }
     224 ≤ u.sharedTags 0) := by decide +kernel

/-- A prepared pass finds a free bank, its own bank, or no bank (R81, R87). -/
theorem wit_enter : let s (b0 b1 : BankSt) (t : Nat) := warr d0 (awork 2 1 d0) fun a =>
      { a with prep := [pr d0 0], banks := vset (vset a.banks 0 (bk d0 b0 t 0)) 1 (bk d0 b1 1 0) }
    (awork 2 1 d0).tiles[(pr d0 0).tile]? = some (tl 1) ∧ (tl 1).passes[(pr d0 0).pass]? = some { c0 := 0, c1 := 1, blocks := [[0]] } ∧
    ((s .free .free 0).core 0).arr.bankOf (pr d0 0) = none ∧ ((s .free .free 0).core 0).arr.freeBank = some 0 ∧
    ((s .filling .free 0).core 0).arr.bankOf (pr d0 0) = some 0 ∧
    ((s .full .filling 1).core 0).arr.bankOf (pr d0 0) = none ∧ ((s .full .filling 1).core 0).arr.freeBank = none := by decide +kernel

/-- A pass in flight whose operands are readable, or one of whose sectors is not (R444). -/
theorem wit_land : let s := warr d0 (awork 2 1 d0) fun a => { a with flight := [pr d0 0], banks := vset a.banks 0 (bk d0 .filling 0 0) }
    (s.core 0).arr.bankOf (pr d0 0) = some 0 ∧ (vget (s.core 0).arr.banks 0).sums.length = (tl 1).rows.length ∧
    ((s.core 0).arr.banks.toList.all fun z => !z.dead) = true ∧
    s.passLost [] (s.viewOf 0 { oArr d0 with work := .array (awork 2 1 d0) } (awork 2 1 d0)) (tl 1) { c0 := 0, c1 := 1, blocks := [[0]] } = none ∧
    (s.passLost [0x40] (s.viewOf 0 { oArr d0 with work := .array (awork 2 1 d0) } (awork 2 1 d0)) (tl 1)
      { c0 := 0, c1 := 1, blocks := [[0]] }).isSome = true ∧ 1 < (awork 2 1 d0).left := by decide +kernel

/-- A full bank beside a free one, and one being drained, without and with a trip under ESCALATE (R88, R118, R119). -/
theorem wit_drain : let s (d : Desc) (st : BankSt) (sat : Nat) := (warr d (awork 1 0 d) fun a =>
      { a with banks := vset a.banks 0 (bk d st 0 sat) }).modPart 0 fun p => { p with cfg := { p.cfg with escSat := 0 } }
    (vget ((s d0 .full 0).core 0).arr.banks 0).st = .full ∧ (vget ((s d0 .full 0).core 0).arr.banks 1).st = .free ∧
    (s d0 .full 0).accumLost ((s d0 .full 0).viewOf 0 { oArr d0 with work := .array (awork 1 0 d0) } (awork 1 0 d0)) (tl 1) = none ∧
    (s d0 .draining 0).policy 0 (dEsc d0) ≠ 2 ∧ (awork 1 0 d0).left = 1 ∧
    (s d0 .draining 1).policy 0 3 = 2 ∧ (s d0 .draining 1).tripped 0 1 0 = true ∧ (s d0 .draining 1).tripped 0 0 0 = false ∧
    narrowOut 3 = false ∧ narrowOut 1 = true := by decide +kernel

/-- One CONV layer of one pixel, in a stripe of its own. -/
def dFus (exch up down : Nat) : Desc := dsc [(0, 0x43), (16, 1), (17, exch), (18, 3), (32, 0x200000008000), (112, up), (113, down), (116, 0x9000)]

def lay0 : Desc := dConv 0x40 0x88 10 1 1 1 0x1000 0 0

def wfus (d : Desc) : State := (wop d).put 0x200000008000 (leBytes 128 lay0.toNat)

def w1fus (d : Desc) : State := (wfus d).modReg 1 fun r => { r with part := some 0 }

theorem wit_fused : (wfus (dFus 0 0xFF 0xFF)).begins 0 [] (opq (dFus 0 0xFF 0xFF)) (dFus 0 0xFF 0xFF) = true ∧
    (wfus (dFus 0 0xFF 0xFF)).fusedHeaderOk 0 (dFus 0 0xFF 0xFF) = true ∧
    (wfus (dFus 0 0xFF 0xFF)).uncorrectable [] 0x200000008000 128 = none ∧
    (let s := wfus (dFus 0 0xFF 0xFF)
     let l := s.layerTable (dFus 0 0xFF 0xFF)
     l = [lay0] ∧ (l.zipIdx.all fun x => s.layerLegal 0 (dFus 0 0xFF 0xFF) l x.2 x.1) = true) := by decide +kernel

theorem wit_fused_exch : (w1fus (dFus 1 0xFF 1)).fusedHeaderOk 0 (dFus 1 0xFF 1) = true ∧
    (let s := w1fus (dFus 1 0xFF 1)
     let l := s.layerTable (dFus 1 0xFF 1)
     (l.zipIdx.all fun x => s.layerLegal 0 (dFus 1 0xFF 1) l x.2 x.1) = true ∧ s.plainData (cntAt 0 (dFus 1 0xFF 1) 0) 48 = true) := by
  decide +kernel

/-- The middle stripe of three: its second layer, three taps high, reads one row of each neighbour. -/
def dMid : Desc := dsc [(0, 0x43), (16, 2), (17, 1), (18, 3), (32, 0x200000008000), (100, 1), (101, 1), (102, 1), (112, 1), (113, 2), (116, 0x9000)]

def lay3 : Desc := lay0 ||| dsc [(26, 2), (102, 2)]

def fw (rdone : Bool) : FusedWork :=
  { layers := [lay0, lay3], layer := 1, upRows := 0, downRows := 0, waitBand := !rdone, waitRdone := rdone, widened := false, empty := false,
    res := [0, 0, 0, 0] }

def oFus (rdone : Bool) : Op := { opq dMid with phase := .running, work := .fused (fw rdone) none }

/-- The neighbours' band words (core 1 above, core 2 below) and their RDONE words. -/
def wmid (rdone : Bool) (up down run : Nat) : State :=
  (((withOp (win w0) (oFus rdone)).put (cntAt 1 dMid 1) (leBytes 8 up)).put (cntAt 2 dMid 0) (leBytes 8 down)).put (cntAt 1 dMid 6)
    (leBytes 8 (run * 2 ^ 48)) |>.put (cntAt 2 dMid 6) (leBytes 8 (run * 2 ^ 48))

def row (run fail n : Nat) : Nat := run * 2 ^ 48 + fail * 2 ^ 47 + 0x20 * 2 ^ 16 + n

theorem wit_fusedPoll : let s := wmid false (row 3 0 1) (row 3 0 1) 0
    s.fusedRunning 0 = some (oFus false, fw false) ∧ s.coreStopped 0 = false ∧ (s.core 0).reg.frzCore = false ∧
    (fusOf dMid).up = 1 ∧ (fusOf dMid).down = 2 ∧ (layerNeeds (oFus false) (fw false) lay3).1 ≠ 0 ∧
    (layerNeeds (oFus false) (fw false) lay3).2 ≠ 0 ∧ s.rdN (cntAt 1 dMid 1) 8 / 2 ^ 47 = 2 * (fusOf dMid).run ∧
    s.uncorrectable [] (cntAt 1 dMid 1) 8 = none ∧
    (wmid false (row 3 1 1) (row 3 0 1) 0).rdN (cntAt 1 dMid 1) 8 / 2 ^ 47 = 2 * (fusOf dMid).run + 1 := by decide +kernel

theorem wit_rdonePoll : (wmid true 0 0 3).fusedRunning 0 = some (oFus true, fw true) ∧
    ((fusReaders dMid).all fun k => (wmid true 0 0 3).rdN (cntAt k dMid 6) 8 / 2 ^ 48 == 3) = true ∧
    ((fusReaders dMid).any fun k => (wmid true 0 0 2).rdN (cntAt k dMid 6) 8 / 2 ^ 48 != 3) = true := by decide +kernel

theorem test_bandPoll_fail : After (.bandWordPoll 0 []) (wmid false (row 3 1 1) (row 3 0 1) 0)
    (fun u => ((u.core 0).ops.map Op.phase) == [.finished 0x20] && (u.core 0).cnv.cfCore == 1) = true := by decide +kernel

theorem test_rdonePoll : After (.rdonePoll 0) (wmid true 0 0 3) (fun u => ((u.core 0).ops.map Op.phase) == [.finished stDone]) = true := by
  decide +kernel

/-! ### Streams -/

/-- Core 0 is a group of one, its partition has four streams, and stream 0 is an FP32 accumulator of 64 elements. -/
def wstr (b0 slot : Nat) (o : Op) : State :=
  (((withOp (win w0) o).modSts 0 fun u =>
      { u with stsGroup := 0, stsSize := 1, stsIndex := 0, stsWork := 64, stsSlices := if slot = 0 then [(0, 0, 256)] else [] }).modPart 0
    fun p => { p with cfg := { p.cfg with stsBase := 0x8000, stsCount := 4 } }).put 0x8000
    ([BitVec.ofNat 8 b0, 6, 0, 1, 64, 0, 0, 0] ++ leBytes 4 slot ++ [0, 0, 0, 0] ++ leBytes 8 0x20000)

def dUpd (opc ch rows lc fn : Nat) : Desc := dsc [(0, opc), (1, 0x0A), (2, 0x0A), (16, rows), (20, lc), (24, ch), (28, 1), (32, 0x1000),
  (40, 0x2000), (56, 0x3000), (64, 0x100), (72, 0x100), (80, 0x100), (88, 0x100), (104, 2 * fn)]

def wupd (b0 : Nat) : State := wstr b0 0 (opq (dUpd 0x22 64 1 1 1))

theorem wit_chunk_noCtl : (wupd 1).noCtl 0 := by
  have h : ∀ m ∈ (wupd 1).members 0, ∀ x ∈ ((wupd 1).core m).ops, x.work = .none := by decide +kernel
  intro m hm x hx w
  rw [h m hm x hx]
  exact nofun

theorem wit_chunk : (wupd 1).begins 0 [] (opq (dUpd 0x22 64 1 1 1)) (dUpd 0x22 64 1 1 1) = true ∧
    State.chunkFields (dUpd 0x22 64 1 1 1) (chunkOf (dUpd 0x22 64 1 1 1)) = true ∧
    (wupd 1).chunkLayout 0 (dUpd 0x22 64 1 1 1) (chunkOf (dUpd 0x22 64 1 1 1)) = true ∧
    (∀ t ∈ (wupd 1).chunkTrouble 0 [] (dUpd 0x22 64 1 1 1) (chunkOf (dUpd 0x22 64 1 1 1)), t = none) ∧
    (wupd 1).rowTable (chunkOf (dUpd 0x22 64 1 1 1)) = [0] ∧
    (wupd 1).workOk 0 (chunkOf (dUpd 0x22 64 1 1 1)) [0] = true ∧
    (wupd 1).poisoned = [] ∧ (wupd 1).anyDead = false := by decide +kernel

/-- A row of stream 0 is there, moves in, is FREE, or is damaged (R151). -/
theorem wit_chunk_rows : let is (b0 : Nat) := (wupd b0).rowIs 0 (opq (dUpd 0x22 64 1 1 1)).ticket (chunkOf (dUpd 0x22 64 1 1 1)) 0
    is 1 = .ok ∧ is 4 = .wait ∧ is 0 = .bad ∧ is 0x41 = .damaged := by decide +kernel

theorem wit_chunk_empty : State.chunkFields (dUpd 0x22 64 0 1 1) (chunkOf (dUpd 0x22 64 0 1 1)) = true ∧
    State.chunkFields (dUpd 0x22 64 1 1025 1) (chunkOf (dUpd 0x22 64 1 1025 1)) = false ∧
    State.chunkFields (dUpd 0x20 64 1 1 1) (chunkOf (dUpd 0x20 64 1 1 1)) = false ∧
    State.chunkFields (dUpd 0x21 64 1 1 0) (chunkOf (dUpd 0x21 64 1 1 0)) = true := by decide +kernel

theorem wit_chunk_arith : (chunkOf (dUpd 0x22 64 1 1 1)).kind = 2 ∧ (chunkOf (dUpd 0x22 64 1 1 1)).ufn = 1 ∧
    (chunkOf (dUpd 0x22 64 1 1 2)).ufn = 2 ∧ (chunkOf (dUpd 0x21 64 1 1 0)).kind = 1 := by decide +kernel

/-- R131: 1 + 2^-25 is stored as 1 and 2^-25 over 2^-39. -/
theorem test_fp32c : toFp32c (.fin false (2 ^ 25 + 1) (-25)) = (0x3F800000, 0x4000) := by decide +kernel

def dCtl (opc n : Nat) : Desc := dsc [(0, opc), (16, n), (32, 0x4000)]
def dOpen : Desc := dsc [(0, 0x28), (16, 1), (32, 0x4000), (96, 64), (100, 6), (101, 1), (104, 0x3F800000)]

/-- The group's lead with one entry in its list. -/
def wctl (b0 slot : Nat) (o : Op) (e : List Byte) : State := (wstr b0 slot o).put 0x4000 e

def eOpen : List Byte := [1, 0, 0, 0, 0, 4, 0, 0, 0, 0, 2, 0]

theorem wit_strOpen : (wctl 1 0 (opq dOpen) eOpen).begins 0 [] (opq dOpen) dOpen = true ∧
    ((wctl 1 0 (opq dOpen) eOpen).core 0).ctlBusy (opq dOpen).ticket = false ∧
    (ctlFields dOpen && (wctl 1 0 (opq dOpen) eOpen).herePart (d64 dOpen 32) && decide ((wctl 1 0 (opq dOpen) eOpen).groupOf 0 ≠ 0xFF) &&
      decide ((wctl 1 0 (opq dOpen) eOpen).groupIndex 0 = 0)) = true ∧
    (wctl 1 0 (opq dOpen) eOpen).readTrouble 0 [] (localPart (d64 dOpen 32)) 16 = none ∧
    ((wctl 1 0 (opq dOpen) eOpen).strValidateAll 0 dOpen StrPlan.empty).isSome = true ∧
    (∀ t ∈ (wctl 1 0 (opq dOpen) eOpen).ctlTrouble 0 dOpen, t = none) ∧
    (wctl 1 0 (opq dOpen) eOpen).groupShort 0 = false := by decide +kernel

theorem wit_strOpen_unpinned : (wctl 1 0 (opq dOpen) eOpen).unpinned 0 := by unfold State.unpinned; decide +kernel

theorem wit_strCtl_bad : ctlFields (dCtl 0x29 4097) = false ∧ ctlFields (dCtl 0x29 0) = true ∧
    ((wctl 0 0 (opq (dCtl 0x29 1)) []).strValidateAll 0 (dCtl 0x29 1) StrPlan.empty).isNone = true := by decide +kernel

def moveReady (s : State) (d : Desc) : Bool :=
  s.begins 0 [] (opq d) d && ctlFields d && ctlCount d == 1 && s.readTrouble 0 [] (localPart (d64 d 32)) 16 == none &&
  (s.strValidateAll 0 d StrPlan.empty).isSome && !s.groupShort 0 && s.plainData (s.strAt 0 0) 128

theorem wit_strClose : moveReady (wctl 1 0 (opq (dCtl 0x29 1)) []) (dCtl 0x29 1) = true := by decide +kernel

theorem wit_swapOut : moveReady (wctl 1 0 (opq (dCtl 0x2B 1)) []) (dCtl 0x2B 1) = true ∧
    ((wctl 1 0 (opq (dCtl 0x2B 1)) []).strRec 0 0).state = 1 := by decide +kernel

def eIn : List Byte := [0, 0, 0, 0, 0, 1]

theorem wit_swapIn : moveReady (wctl 2 0xFFFFFFFF (opq (dCtl 0x2C 1)) eIn) (dCtl 0x2C 1) = true ∧
    ((wctl 2 0xFFFFFFFF (opq (dCtl 0x2C 1)) eIn).strRec 0 0).state = 2 := by decide +kernel

def cw (moving : Bool) (ws : List PartWait) : CtlWork :=
  { idx := 0, waiting := ws, performed := 0, deferred := 0, moving := moving, failed := false }

def oCtl (opc : Nat) (w : CtlWork) : Op := { opq (dCtl opc 1) with phase := .running, work := .ctl w }

def wCtl (b0 : Nat) (opc : Nat) (w : CtlWork) : State := wctl b0 0 (oCtl opc w) []

theorem atCtl_of (b0 opc : Nat) (w : CtlWork)
    (h : (wCtl b0 opc w).findOp 0 (oCtl opc w).ticket = some (oCtl opc w) ∧ ((wCtl b0 opc w).core 0).reg.frzCore = false ∧
      (wCtl b0 opc w).coreStopped 0 = false) (h2 : ((wCtl b0 opc w).core 0).ops = [oCtl opc w]) : (wCtl b0 opc w).atCtl 0 (oCtl opc w) w :=
  ⟨⟨h.1, rfl, rfl, h.2.1, .inl h.2.2⟩, by rw [h2]; rfl⟩

def pw : PartWait := { member := 0, tickets := [9] }

theorem wit_deferredPart : (wCtl 1 0x29 (cw false [pw])).atCtl 0 (oCtl 0x29 (cw false [pw])) (cw false [pw]) ∧
    (wCtl 1 0x29 (cw false [pw])).stillWaits [pw] [0] = [] ∧ ctlCount (oCtl 0x29 (cw false [pw])).desc = 1 :=
  ⟨atCtl_of _ _ _ (by decide +kernel) (by decide +kernel), by decide +kernel⟩

theorem wit_sliceOut : (wCtl 3 0x2B (cw true [])).atCtl 0 (oCtl 0x2B (cw true [])) (cw true []) :=
  atCtl_of _ _ _ (by decide +kernel) (by decide +kernel)

theorem wit_sliceIn : (wCtl 4 0x2C (cw true [])).atCtl 0 (oCtl 0x2C (cw true [])) (cw true []) :=
  atCtl_of _ _ _ (by decide +kernel) (by decide +kernel)

theorem test_strClose : After (.strClose 0 []) (wctl 1 0 (opq (dCtl 0x29 1)) [])
    (fun u => (u.strRec 0 0).state = 0 && (u.core 0).sts.stsSlices = []) = true := by decide +kernel

/-! ### The KV cache -/

def seq0 : SeqRec :=
  { opened := true, layout := 1, ptype := 8, home := 0, h := 1, sp := 1, d := 64, head0 := 0, w := 0, spidx := 0, cap := 4,
    len := 1, flushed := 1, resv := 0, left := 0, live := 0 }

/-- Partition 0 with four sequences of at most four pages each; sequence 0 is open. -/
def kvCfg (g : PartCfg) : PartCfg :=
  { g with seqCount := 4, seqBase := 0x10000, plistBase := 0x14000, capMax := 4, pageKib := 64, pgCount := 4,
           pgBase := 0x40000, pgmetaBase := 0x15000, punnetSectors := 64 }

def kv (s : State) (r : SeqRec) : State :=
  (s.modPart 0 fun p => { p with kvFree := 4, cfg := kvCfg p.cfg }).put 0x10000 r.bytes

def dApp (rows : Nat) : Desc := dsc [(0, 0x31), (1, 8), (2, 8), (16, rows), (20, 1), (22, 64), (32, 0x1000), (40, 0x2000), (48, 0x3000), (64, 128),
  (72, 128)]

def wapp : State := kv (wop (dApp 1)) seq0

theorem wit_append : wapp.begins 0 [] (opq (dApp 1)) (dApp 1) = true ∧ (wapp.core 0).kvBusy = false ∧
    wapp.appFields 0 (dApp 1) (appOf (dApp 1)) = true ∧ wapp.readTrouble 0 [] 0x1000 4 = none ∧
    (∀ t ∈ wapp.rowsRead 0 [] 0x2000 1 128 128 ++ wapp.rowsRead 0 [] 0x3000 1 128 128, t = none) ∧
    wapp.appIds (appOf (dApp 1)) = [0] ∧ wapp.seqFits 0 1 64 8 0 = true ∧ wapp.planAppend 0 [0] = some 0 ∧
    (wapp.seqRec 0 0).entryOf 1 = some 0 ∧ (wapp.page 0 (wapp.entry 0 0 0)).refs ≤ 1 ∧
    (wapp.core 0).kvc.used + rowSectors 8 1 64 ≤ (wapp.part 0).cfg.punnetSectors.toNat ∧
    wapp.plainData (wapp.seqAt 0 0) 128 = true ∧ wapp.appFields 0 (dApp 0) (appOf (dApp 0)) = true := by decide +kernel

/-- A page list that is full runs out (R168). -/
theorem wit_append_full : (kv (wop (dApp 1)) { seq0 with len := 1024 }).planAppend 0 [0] = none := by decide +kernel

def dKv (opc n : Nat) : Desc := dsc ([(0, opc), (16, n), (32, 0x4000)] ++
  if opc = 0x38 then [(96, 1), (97, 8), (98, 1), (100, 64), (108, 1)] else [])

def wkv (opc : Nat) (e : List Byte) : State := (kv (wop (dKv opc 1)) seq0).put 0x4000 e

/-- A legal list of one entry. -/
def kvReady (opc : Nat) (e : List Byte) : Bool :=
  let s := wkv opc e
  let d := dKv opc 1
  s.begins 0 [] (opq d) d && !(s.core 0).kvBusy && kvFields d && s.herePart (d64 d 32) && s.readTrouble 0 [] 0x4000 16 == none &&
  s.writeTrouble 0 0x4000 16 == none && (s.kvValidateAll 0 0 d 1).isSome && s.fab.kvArrivals == [] && !(opq d).boundary

theorem wit_kvOpen : kvReady 0x38 [1, 0, 0, 0, 0, 0, 0, 0, 4] = true ∧ ((wkv 0x38 [1, 0, 0, 0, 0, 0, 0, 0, 4]).kvEntry (dKv 0x38 1) 0).resv ≤ ((wkv 0x38 []).part 0).unreserved := by
  decide +kernel

theorem wit_kvOpen_refused : ((wkv 0x38 [1, 0, 0, 0, 0, 0, 0, 0, 5]).part 0).unreserved = 4 ∧
    ((wkv 0x38 [1, 0, 0, 0, 0, 0, 0, 0, 5]).kvEntry (dKv 0x38 1) 0).resv = 5 ∧
    (wkv 0x38 [1, 0, 0, 0, 0, 0, 0, 0, 5]).plainData 0x400E 1 = true := by decide +kernel

theorem wit_kvClose : kvReady 0x39 [] = true ∧ ((wkv 0x39 []).core 0).kvc.punnet = [] := by decide +kernel

theorem wit_kvFork : kvReady 0x3A [0, 0, 0, 0, 1] = true := by decide +kernel

theorem wit_kvFlush : kvReady 0x3B [] = true := by decide +kernel

theorem wit_kv_bad : kvFields (dKv 0x39 4097) = false ∧ kvFields (dKv 0x39 0) = true ∧
    (wkv 0x39 [1]).kvValidateAll 0 0 (dKv 0x39 1) 1 = none := by decide +kernel

/-- NEXT is module 1 of this ring. -/
def dRing : Desc := dsc [(0, 0x74), (16, 0), (20, 2), (24, 1), (32, 0x0000400000000040)]

theorem wit_kvRing_bad : (kv (wop dRing) seq0).begins 0 [] (opq dRing) dRing = true ∧ (kv (wop (dRing ||| dsc [(40, 1)])) seq0).begins 0 []
      (opq (dRing ||| dsc [(40, 1)])) (dRing ||| dsc [(40, 1)]) = true ∧
    onlyFields (dRing ||| dsc [(40, 1)]) [(16, 12), (32, 8)] = false := by decide +kernel

theorem wit_kvRing : plainHeader dRing = true ∧ onlyFields dRing [(16, 12), (32, 8)] = true ∧ modulePart (d64 dRing 32) = d32 dRing 24 ∧
    (kv (wop dRing) seq0).isLocal (d64 dRing 32) = false ∧ (kv (wop dRing) seq0).seqKnown 0 0 = true ∧
    ((kv (wop dRing) seq0).seqRec 0 0).opened = true ∧ ((kv (wop dRing) seq0).seqRec 0 0).live = 0 := by decide +kernel

def guest (sig : Nat) (pages : List (List Byte × BitVec 16)) : KvArrival :=
  { srcModule := 1, part := 0, tag := 0, dstSeq := 0, sp := 2, spidx := 1, h := 1, d := 64, head0 := 0, ptype := 8, flushed := 1,
    pages := pages, sig := BitVec.ofNat 64 sig }

def seqG : SeqRec := { seq0 with layout := 2, sp := 2 }

theorem wit_kvArrival : (kv (win w0) seqG).kvGuestOk (guest 0x40 []) = true ∧ (kv (win w0) seqG).mayAccess 0 0x40 8 true = true ∧
    (guest 0x40 []).pages.length ≤ ((kv (win w0) seqG).seqRec 0 0).left ∧ (kv (win w0) seq0).kvGuestOk (guest 0x40 []) = false ∧
    ¬ (guest 0x40 [([], 0)]).pages.length ≤ ((kv (win w0) seqG).seqRec 0 0).left := by decide +kernel

/-! ### Attention -/

def dAtt (rows : Nat) : Desc := dsc [(0, 0x30), (1, 0x88), (2, 10), (16, rows), (20, 1), (22, 64), (32, 0x1000), (40, 0x2000), (48, 0x3000),
  (64, 128), (72, 256), (96, 0x200000000000)]

def watt (hi : Nat) : State := (kv (wop (dAtt 1)) seq0).put 0x1000 (leBytes 4 0 ++ leBytes 4 hi)

theorem wit_attend : (watt 1).begins 0 [] (opq (dAtt 1)) (dAtt 1) = true ∧ (watt 1).attFields 0 0 (dAtt 1) (attOf (dAtt 1)) = true ∧
    (watt 1).readTrouble 0 [] 0x1000 8 = none ∧
    (∀ t ∈ (watt 1).rowsRead 0 [] 0x2000 1 128 128 ++ (watt 1).rowsWrite 0 0x3000 1 256 ((watt 1).outBytesOf 0 (dAtt 1) false 64), t = none) ∧
    (watt 1).qRowOk 0 (dAtt 1) (attOf (dAtt 1)) ((watt 1).qRow 0 (attOf (dAtt 1)) 0) = true ∧
    (watt 2).qRowOk 0 (dAtt 1) (attOf (dAtt 1)) ((watt 2).qRow 0 (attOf (dAtt 1)) 0) = false ∧
    (watt 1).attFields 0 0 (dAtt 0) (attOf (dAtt 0)) = true := by decide +kernel

def dCmb (rows : Nat) : Desc := dsc [(0, 0x32), (1, 10), (2, 10), (16, rows), (20, 1), (22, 64), (24, 2), (32, 0x2000), (40, 0x1000), (48, 0x4000),
  (64, 256), (72, 256), (80, 4), (88, 256)]

theorem wit_combine_op : (wop (dCmb 1)).begins 0 [] (opq (dCmb 1)) (dCmb 1) = true ∧ (wop (dCmb 1)).cmbFields 0 (dCmb 1) (cmbOf (dCmb 1)) = true ∧
    (∀ i ∈ [0, 1], (wop (dCmb 1)).readTrouble 0 [] (0x1000 + i * 4) 4 = none ∧
      ∀ t ∈ (wop (dCmb 1)).rowsRead 0 [] (0x2000 + i * 256) 1 256 256, t = none) ∧
    (∀ t ∈ (wop (dCmb 1)).rowsWrite 0 0x4000 1 256 ((wop (dCmb 1)).outBytesOf 0 (dCmb 1) false 64), t = none) ∧
    (wop (dCmb 1)).cmbFields 0 (dCmb 0) (cmbOf (dCmb 0)) = true := by decide +kernel

theorem wit_attHead_one : (watt 1).seen 0 ((watt 1).qRow 0 (attOf (dAtt 1)) 0) = [0] ∧
    ((watt 0).qRow 0 (attOf (dAtt 1)) 0).hi ≤ ((watt 0).qRow 0 (attOf (dAtt 1)) 0).lo := by decide +kernel

/-- R182: both partials saw nothing. -/
theorem wit_cmbHead : ∀ i, i < (cmbOf (dCmb 1)).parts →
    ((wop (dCmb 1)).put 0x1000 [0, 0, 0x80, 0xFF, 0, 0, 0x80, 0xFF]).rdN (localPart (cmbOf (dCmb 1)).lin + i * (cmbOf (dCmb 1)).linP +
      4 * (0 * (cmbOf (dCmb 1)).h + 0)) 4 = negInf32.toNat := by decide +kernel

/-! ### Shards, memory-side sums, tumblers -/

/-- A shard of 64 bytes at generation 1 in slot 0, its record at 0x8000; slot 1 has `refs` references. -/
def shard (s : State) (refs : Nat) : State :=
  s.put 0x8000 (leBytes 4 1 ++ leBytes 4 0 ++ leBytes 8 0 ++ leBytes 8 0x9000 ++ leBytes 8 0xA000 ++ leBytes 4 0 ++ leBytes 4 refs ++
    leBytes 8 0 ++ leBytes 8 64)

def dGet (dst len mode gen : Nat) : Desc := dsc [(0, 0x5D), (16, len), (32, 0x8000), (40, dst), (96, mode), (100, gen)]

def wget (d : Desc) : State := shard (wop d) 0

def getLegal (s : State) (d : Desc) : Bool :=
  untyped d && onlyFields d [(16, 8), (32, 16), (96, 1), (100, 4)] && dBits d 96 7 2 == 0 && shardArgsOk (s.shardArgs d 0)

theorem wit_shardGet : let d := dGet 0xB000 64 1 0
    let s := wget d
    let a := s.shardArgs d 0
    let r := s.shardHere (localPart a.place)
    s.begins 0 [] (opq d) d = true ∧ getLegal s d = true ∧ s.isLocal a.place = true ∧ s.coreViolates 0 0x8000 64 true = none ∧
    s.uncorrectable [] 0x8000 64 = none ∧ a.len = r.len ∧ shardSlot r a.mode a.gen = some 0 ∧ s.isLocal (r.slots 0) = true ∧ s.isLocal a.dst = true ∧ dOpc d = 0x5D ∧
    s.globalTrouble 0 [] (r.slots 0) 64 false = none ∧ s.globalTrouble 0 [] a.dst 64 true = none ∧
    s.uncorrectable [] (localPart (r.slots 0)) 64 = none ∧ s.plainData 0x8000 64 = true ∧ s.plainData 0xB000 64 = true ∧
    overlap 0x8000 64 0xB000 64 = false ∧ overlap 0x8000 64 (localPart (r.slots 0)) 64 = false := by decide +kernel

theorem wit_shardGet_other : getLegal (wget (dGet 0xB000 64 3 0)) (dGet 0xB000 64 3 0) = false ∧
    getLegal (wget (dGet 0xB000 128 0 0)) (dGet 0xB000 128 0 0) = true ∧
    shardSlot ((wget (dGet 0xB000 64 2 7)).shardHere 0x8000) 2 7 = none ∧
    (wget (dGet 0xB000 64 0 0)).uncorrectable [512] 0x8000 64 = some 512 := by decide +kernel

def dGat (n : Nat) : Desc := dsc [(0, 0x75), (16, n), (32, 0x4000)]

def wgat : State := (shard (wop (dGat 1)) 0).put 0x4000 (leBytes 8 0x8000 ++ leBytes 8 0xB000 ++ leBytes 8 64)

theorem wit_shardGather : wgat.begins 0 [] (opq (dGat 1)) (dGat 1) = true ∧ wgat.gatherOk (dGat 1) = true ∧
    wgat.readTrouble 0 [] 0x4000 32 = none ∧ wgat.writeTrouble 0 0x4000 32 = none ∧ shardArgsOk (wgat.shardArgs (dGat 1) 0) = true ∧
    wgat.rdN 0x401E 2 = 0 ∧ (wgat.shardArgs (dGat 1) 0).len = (wgat.shardHere 0x8000).len ∧
    shardSlot (wgat.shardHere 0x8000) 0 0 = some 0 ∧ wgat.isLocal ((wgat.shardHere 0x8000).slots 0) = true ∧ wgat.gatherOk (dGat 0) = true ∧
    wgat.gatherOk (dGat 4097) = false ∧ wgat.poisoned = [] ∧ wgat.anyDead = false := by decide +kernel

def dPub (len wait : Nat) : Desc := dsc [(0, 0x5C), (16, len), (32, 0x8000), (40, 0xB000), (96, wait)]

theorem wit_shardPublish : let d := dPub 64 0
    let s := shard (wop d) 0
    let r := s.shardHere 0x8000
    s.begins 0 [] (opq d) d = true ∧ s.fab.publishing = [] ∧ s.isLocal 0x8000 = true ∧
    (untyped d && onlyFields d [(16, 8), (32, 16), (96, 1)] && dBits d 96 7 1 == 0 && inNear 0x8000 64 && byteSpace 0xB000 64) = true ∧
    s.globalTrouble 0 [] 0x8000 64 false = none ∧ s.globalTrouble 0 [] 0x8000 64 true = none ∧ r.len = 64 ∧ r.refs 1 = 0 ∧ r.reads 1 = 0 ∧
    localPart (r.slots 1) = 0xA000 ∧ s.coreViolates 0 0xA000 64 true = none ∧ s.coreViolates 0 0xB000 64 false = none ∧
    s.plainData 0x8000 64 = true ∧ s.plainData 0xA000 64 = true ∧ overlap 0x8000 64 0xA000 64 = false ∧ inPunnet 0xB000 = false := by
  decide +kernel

theorem wit_shardPublish_refs : ((shard (wop (dPub 64 0)) 1).shardHere 0x8000).refs 1 ≠ 0 ∧
    (wop (dPub 128 0)).begins 0 [] (opq (dPub 128 0)) (dPub 128 0) = true := by decide +kernel

/-- Behind another publish on the record. -/
theorem wit_shardPublish_behind : let s := (shard (wop (dPub 64 0)) 0).modFab fun f => { f with publishing := [(0x8000, 7)] }
    s.begins 0 [] (opq (dPub 64 0)) (dPub 64 0) = true ∧ (0x8000, s.publisher 0 (opq (dPub 64 0)).ticket) ∉ s.fab.publishing := by
  decide +kernel

def pub0 : PubWork := { step := 1, refs := 0, dst := 0, waited := true }

def oPub : Op := { opq (dPub 64 0) with phase := .running, work := .publish pub0 }

theorem wit_publishResume : let s := (shard (withOp (win w0) oPub) 0).modFab fun f => { f with publishing := [(0x8000, oPub.ticket.toNat)] }
    s.runsWith 0 oPub (.publish pub0) ∧ oPub.xfers = [] ∧ oPub.tags = [] ∧ s.publisher 0 oPub.ticket = oPub.ticket.toNat ∧
      s.uncorrectable [] 0x8000 64 = none :=
  ⟨⟨by decide +kernel, rfl, rfl, by decide +kernel, .inl (by decide +kernel)⟩, rfl, rfl, by decide +kernel, by decide +kernel⟩

theorem test_publish : After (.shardPublish 0 []) ((shard (wop (dPub 64 0)) 0).put 0xB000 [9])
    (fun u => u.rdB 0xA000 = 9 && (u.shardHere 0x8000).gen = 2 && (u.shardHere 0x8000).cur = 1 && u.fab.publishing = []) = true := by
  decide +kernel

def dRed (n : Nat) : Desc := dsc [(0, 0x68), (16, n), (32, 0x1000), (40, 0x2000)]

theorem wit_memred : (wop (dRed 4)).begins 0 [] (opq (dRed 4)) (dRed 4) = true ∧ memredLegal (dRed 4) = true ∧ memredLegal (dRed 0) = true ∧
    memredLegal (dRed 0x1001) = false ∧ (wop (dRed 4)).coreViolates 0 0x2000 16 true = none ∧
    (wop (dRed 4)).coreViolates 0 0x1000 16 false = none ∧ (wop (dRed 4)).uncorrectable [] 0x1000 16 = none ∧
    (wop (dRed 4)).plainData 0x2000 16 = true := by decide +kernel

theorem test_memred : After (.memred 0 []) (((wop (dRed 1)).put 0x1000 [0, 0, 0x80, 0x3F]).put 0x2000 [0, 0, 0, 0x40])
    (fun u => u.rdN 0x2000 4 = 0x40400000) = true := by decide +kernel

/-- One tumbler at 0x8000, of partition 0, with its limit. -/
def tumb (s : State) (limit : Nat) : State :=
  ((s.modTier fun t => { t with tumbBase := 0x8000, tumbCount := 1 }).modPart 0 fun p =>
    { p with cfg := { p.cfg with tumbFirst := 0, tumbCount := 1 } }).put 0x8008 (leBytes 6 limit)

def dTum (opc len : Nat) : Desc := dsc [(0, opc), (16, len), (32, 0x8000)]

theorem wit_tumblerClaim : (tumb (wop (dTum 0x69 0)) 1).begins 0 [] (opq (dTum 0x69 0)) (dTum 0x69 0) = true ∧
    plainHeader (dTum 0x69 0) = true ∧ onlyFields (dTum 0x69 0) [(32, 8)] = true ∧ (tumb (wop (dTum 0x69 0)) 1).tumbOk 0 0x8000 = true ∧
    (tumb (wop (dTum 0x69 0)) 1).unassigned 0x8000 = none ∧
    (tumb (wop (dTum 0x69 0)) 1).tumbNext 0x8000 < (tumb (wop (dTum 0x69 0)) 1).tumbLimit 0x8000 ∧
    (tumb (wop (dTum 0x69 0)) 0).tumbLimit 0x8000 ≤ (tumb (wop (dTum 0x69 0)) 0).tumbNext 0x8000 ∧
    tumbEntries.find? (fun e => !((tumb (wop (dTum 0x69 0)) 1).claim 0x8000 e).valid) = some 0 := by decide +kernel

theorem wit_tumbler_unassigned : ((tumb (wop (dTum 0x69 0)) 1).setClaim 0x8000 251 { index := 7, epoch := 0, core := 0xFF, valid := true }).unassigned 0x8000
    = some 251 := by decide +kernel

def oClaim : Op := { opq (dTum 0x69 0) with phase := .running, work := .claim }

theorem wit_claimWait : (tumb (withOp (win w0) oClaim) 1).runsWith 0 oClaim .claim :=
  ⟨by decide +kernel, rfl, rfl, by decide +kernel, .inl (by decide +kernel)⟩

theorem wit_claimCopy : (tumb (wop (dTum 0x6A 0)) 1).begins 0 [] (opq (dTum 0x6A 0)) (dTum 0x6A 0) = true ∧ claimCopyLegal (dTum 0x6A 0) = true ∧
    (tumb (wop (dTum 0x6A 0)) 1).findClaim 0x8000 0 0 0 = none ∧
    ((tumb (wop (dTum 0x6A 0)) 1).setClaim 0x8000 0 { index := 0, epoch := 0, core := 0, valid := true }).findClaim 0x8000 0 0 0 = some 0 := by
  decide +kernel

theorem wit_tumblerReset : (tumb (wop (dTum 0x6B 9)) 1).begins 0 [] (opq (dTum 0x6B 9)) (dTum 0x6B 9) = true ∧
    onlyFields (dTum 0x6B 9) [(16, 8), (32, 8)] = true ∧ d64 (dTum 0x6B 9) 16 < 2 ^ 48 ∧ (tumb (wop (dTum 0x6B 9)) 1).tumbOk 0 0x8000 = true := by
  decide +kernel

theorem test_tumblerClaim : After (.tumblerClaim 0 []) (tumb (wop (dTum 0x69 0)) 1)
    (fun u => u.tumbNext 0x8000 = 1 && (u.claim 0x8000 0).valid && (u.claim 0x8000 0).core = 0) = true := by decide +kernel

/-! ### The fabric -/

/-- A torus of two modules, this one at 0, with links 0 and 1 UP and credits for partition 0. -/
def torus (s : State) : State :=
  let up (k : Link) : Link :=
    { k with st := .up, cred := vset k.cred 0 (Vector.replicate 8 9), avail := vset k.avail 0 (Vector.replicate 8 9) }
  (s.modFab fun f => { f with torus := #v[2, 1, 1, 1, 1, 1], posValid := true }).modLink 0 up |>.modLink 1 up

/-- R224: the record of a get lies in the other module of the torus. -/
theorem wit_shardGet_far : let d := dsc [(0, 0x5D), (16, 64), (32, 2 ^ 46 + 0x8000), (40, 0xB000)]
    let s := torus (wop d)
    s.begins 0 [] (opq d) d = true ∧ getLegal s d = true ∧ s.isLocal (s.shardArgs d 0).place = false ∧ s.owner 0 = some 0 ∧
    s.globalTrouble 0 [] (s.shardArgs d 0).place 64 false = none := by decide +kernel

def gFar (a : Nat) : Word := BitVec.ofNat 64 (2 ^ 46 + a)

def wFar : State := torus (wt fun x => x.setReg 14 (gFar 0x40))

theorem wit_remote : wFar.runs 0 0 (iw 0x1B 0x3800) = true ∧ wFar.owner 0 = some 0 ∧ wFar.isLocal (wFar.memOperand 0 0 (iw 0x1B 0x3800) 8).toNat = false ∧
    (wFar.memOperand 0 0 (iw 0x1B 0x3800) 8).toNat % 8 = 0 ∧ wFar.mayRemote 0 (wFar.memOperand 0 0 (iw 0x1B 0x3800) 8).toNat = true ∧
    wFar.stopped 0 = false ∧ (wFar.thread 0 0).stores.length < 8 ∧ (wFar.thread 0 0).pc ≠ 0xFFFFF := by decide +kernel

theorem wit_remote_atomic : (Instr.amo64 0 0 (iw 0x29 0x3800)).spelled = true ∧ (Instr.ldd 0 0 (iw 0x1B 0x3800)).spelled = true ∧ wFar.isLocal (wFar.ra 0 0 (iw 0x29 0x3800)).toNat = false ∧
    (wFar.ra 0 0 (iw 0x29 0x3800)).toNat % 8 = 0 ∧ localPart (wFar.ra 0 0 (iw 0x29 0x3800)).toNat < 0x4800000000 ∧ (wFar.thread 0 0).stores = [] ∧
    (wFar.part 0).leaseExpired 0 0 (wFar.ra 0 0 (iw 0x29 0x3800)) = false := by decide +kernel

theorem wit_remote_reaches : wFar.reaches (modulePart (wFar.memOperand 0 0 (iw 0x1B 0x3800) 8).toNat) (dieOfCore 0).val := by
  have h : wFar.nextHop 1 0 none = .out 0 1 ∨ wFar.nextHop 1 0 none = .out 0 0 := by decide +kernel
  have e : modulePart (wFar.memOperand 0 0 (iw 0x1B 0x3800) 8).toNat = 1 ∧ (dieOfCore 0).val = 0 := by decide +kernel
  intro l
  rw [e.1, e.2]
  rcases h with h | h <;> rw [h] <;> exact nofun

/-- Without credits, or to a module that does not exist, no access is sent. -/
theorem wit_remote_none : (wt fun x => x.setReg 14 (gFar 0x40)).mayRemote 0 (gFar 0x40).toNat = false ∧
    wFar.mayRemote 0 (2 ^ 46 * 2 + 0x40) = false := by decide +kernel

/-- A message of module 1, waiting at this module. -/
def msg (op fn : Byte) (len a : Nat) (data : List Byte) : Msg :=
  { cls := 1, vc := 0, op := op, part := 0, fn := fn, dest := 0, src := 1, tag := 5, len := BitVec.ofNat 16 len,
    addr := BitVec.ofNat 46 a, data := data }

def wmsg (m : Msg) (owner : Option ReqOwner) (s : State) : State := (torus s).modFab fun f =>
  { f with fabIn := [(0, m)], reqs := owner.toList.map fun o => { tag := 5, owner := o } }

def aRem : Acc := { kind := .load 4 true, rd := 5, addr := gFar 0x40, rb := 0, cmp := 0, tag := some 5 }

def yRem : Store := { addr := gFar 0x40, size := 4, val := 1, tag := some 5 }

def wrem (m : Msg) : State := wmsg m (some (.threadAcc 0 0)) (wt fun x => { x with st := .waitMem, acc := some aRem })

def wremStore (m : Msg) : State := wmsg m (some (.threadStore 0 0)) (wt fun x => { x with stores := [yRem] })

theorem wit_response : let s := wrem (msg opRdata 0 4 0x40 [0, 0, 0, 0x80])
    s.inMsg 0 opRdata = some (0, msg opRdata 0 4 0x40 [0, 0, 0, 0x80]) ∧
    s.fab.reqs.find? (fun r => r.tag = 5) = some { tag := 5, owner := .threadAcc 0 0 } ∧ (s.thread 0 0).st = .waitMem ∧
    (s.thread 0 0).acc = some aRem ∧ (s.thread 0 0).resetPend = false ∧ (s.core 0).reg.frzCore = false ∧
    (s.thread 0 0).pc ≠ 0xFFFFF ∧ (wrem (msg opNack 2 0 0x40 [])).inMsg 0 opNack = some (0, msg opNack 2 0 0x40 []) := by decide +kernel

theorem wit_response_store : let s := wremStore (msg opAck 0 0 0x40 [])
    s.inMsg 0 opAck = some (0, msg opAck 0 0 0x40 []) ∧ (s.thread 0 0).stores.findIdx? (fun y => y.tag = some 5) = some 0 ∧
    (s.thread 0 0).held = none ∧ (s.thread 0 0).acc = none ∧ (s.thread 0 0).st ≠ .idle ∧ (s.thread 0 0).st ≠ .frozen := by decide +kernel

theorem test_rdata : After (.rdata 0) (wrem (msg opRdata 0 4 0x40 [0, 0, 0, 0x80]))
    (fun u => (u.thread 0 0).reg 5 = 0xFFFFFFFF80000000 && (u.thread 0 0).st == .ready && u.fab.reqs.isEmpty) = true := by decide +kernel

theorem test_nack : After (.nack 0) (wremStore (msg opNack 1 0 0x40 []))
    (fun u => (u.thread 0 0).st == .frozen && (u.thread 0 0).fault.cause = 0x03 && (u.thread 0 0).stores.isEmpty) = true := by decide +kernel

def oRem : Op := { opq (dCopy 0x40 (2 ^ 46 + 0x80) 64) with
    phase := .running, tags := [5], xfers := [{ kind := .copy, src := 0x40, dst := 2 ^ 46 + 0x80, len := 64, pos := 0 }] }

theorem wit_response_copy : let s := wmsg (msg opAck 0 0 0x80 []) (some (.op 0 oRem.ticket)) (withOp (win w0) oRem)
    s.inMsg 0 opAck = some (0, msg opAck 0 0 0x80 []) ∧ s.findOp 0 oRem.ticket = some oRem ∧ oRem.phase = .running ∧
    oRem.work = .none ∧ dOpc oRem.desc = 0x02 ∧ (oRem.xfers.map fun x => decide (x.len ≤ x.pos + s.chunkLen x)) = [true] := by decide +kernel

def xIn : Xfer := { kind := .copy, src := 2 ^ 46 + 0x40, dst := 0x80, len := 4, pos := 0 }

theorem wit_response_copy_in : let s := torus (win w0)
    s.chunkLen xIn = 4 ∧ s.isLocal xIn.dst = true ∧ s.plainData 0x80 4 = true ∧ xIn.len ≤ xIn.pos + s.chunkLen xIn := by decide +kernel

theorem test_rdata_copy :
    let o := { oRem with xfers := [xIn] }
    After (.rdata 0) (wmsg (msg opRdata 0 4 0x40 [1, 2, 3, 4]) (some (.op 0 o.ticket)) (withOp (win w0) o))
    (fun u => u.mem = [(0x80, 1), (0x81, 2), (0x82, 3), (0x83, 4)] && ((u.core 0).ops.map Op.phase) = [.finished stDone]) = true := by
  decide +kernel

def wreq (op fn : Byte) (len a : Nat) (data : List Byte) : State := wmsg (msg op fn len a data) none (win w0)

theorem wit_request : (wreq opRead 0 8 0x40 []).inMsg 0 opRead = some (0, msg opRead 0 8 0x40 []) ∧
    (wreq opRead 0 8 0x40 []).requestFault (msg opRead 0 8 0x40 []) 8 [] true false false = none ∧
    (wreq opRead 0 8 0x40 []).requestFault (msg opRead 0 8 0x40 []) 8 [1] true false false = some 0x02 ∧
    (wreq opWrite 0 8 0xFFFFC [1, 2, 3, 4]).requestFault (msg opWrite 0 4 0xFFFFC [1, 2, 3, 4]) 4 [] false true false = none ∧
    (wreq opBadd 0 4 0x40 [1, 2, 3, 4]).requestFault (msg opBadd 0 4 0x40 [1, 2, 3, 4]) 4 [] true true false = none ∧
    (wreq opBadd 0 4 0x40 [1, 2, 3, 4]).plainData 0x40 4 = true ∧ (wreq opRead 0 8 0x40 []).inMsg 1 opRead = none ∧
    (wreq opAmo 0 8 0x44 []).requestFault (msg opAmo 0 8 0x44 []) 8 [] true true true = some 0x01 ∧
    (wreq opAmo 0x10 8 0x44 []).requestFault (msg opAmo 0x10 8 0x44 []) (amoSize (msg opAmo 0x10 8 0x44 [])) [] true true true = none := by
  decide +kernel

theorem wit_request_reaches : wFar.nextHop 1 (wFar.dieOf 0x40) none = .out 0 0 ∨ wFar.nextHop 1 (wFar.dieOf 0x40) none = .out 0 1 ∨
    wFar.nextHop 1 (wFar.dieOf 0x40) none = .out 1 0 ∨ wFar.nextHop 1 (wFar.dieOf 0x40) none = .out 1 1 := by decide +kernel

theorem test_fabRead : After (.fabRead 0 []) ((wreq opRead 0 2 0x40 []).put 0x40 [7, 9])
    (fun u => u.fab.fabIn.isEmpty && ((u.fab.fabSent.flatMap fun x => x.2.msgs).map fun x => (x.op, x.dest, x.tag, x.data)) = [(opRdata, 1, 5, [7, 9])]) = true := by
  decide +kernel

theorem test_fabAmo_cas : After (.fabAmo 0 []) ((wreq opAmo 0x18 8 0x40 [9, 0, 0, 0, 5, 0, 0, 0]).put 0x40 [5])
    (fun u => u.mem = [(0x40, 9)] && ((u.fab.fabSent.flatMap fun x => x.2.msgs).map Msg.data) = [[5, 0, 0, 0]]) = true := by decide +kernel

theorem test_fabRead_violation : After (.fabRead 0 []) (wreq opRead 0 2 0x100000 [])
    (fun u => u.fab.frozenPairs = [(1, 0)] && ((u.fab.fabSent.flatMap fun x => x.2.msgs).map fun x => (x.op, x.fn)) = [(opNack, 0x01)]) = true := by decide +kernel

/-- A READ of 8 bytes at 0x40 as one message slot: 24 bytes of header, then zeros (R266). -/
def slot1 : BitVec 384 := BitVec.ofNat 384 (leNat ([1, 1, 0, 0] ++ leBytes 4 0 ++ leBytes 4 1 ++ leBytes 2 5 ++ leBytes 2 8 ++ leBytes 8 0x40))

def slotBad : BitVec 384 := BitVec.ofNat 384 (leNat [1, 1, 0x10])

def slotIdle : BitVec 384 := BitVec.ofNat 384 0xFF

def oflit (seq : BitVec 12) : OutFlit :=
  { kind := 0, seq := seq, ackv := false, ack := 0, credit := none, msgs := [], train := none }

/-- Two flits of link 0 are not acknowledged. -/
def wRetry : State := wFar.modLink 0 fun k => { k with retry := [oflit 0, oflit 1], replays := 7 }

theorem wit_flit : (wFar.link 0).st = .up ∧ (wFar.link 0).outq = [] ∧ (wFar.link 0).expSeq = 0 ∧
    takeMsgs 13 (slot1 :: List.replicate 12 slotIdle) = ([slotBytes slot1], []) ∧ msgGood (slotBytes slot1) = true ∧
    (msgOf (slotBytes slot1)).dest = wFar.fab.moduleId ∧ takeMsgs 13 (slotBad :: List.replicate 12 slotIdle) = ([slotBytes slotBad], []) ∧
    msgGood (slotBytes slotBad) = false ∧ (wFar.link 0).vValid = false ∧ (wFar.link 2).st ≠ .up := by decide +kernel

/-- A RETRY that expects SEQ 2 frees both flits, one that expects 1 frees the first, one that expects 0 none (R268). -/
theorem wit_flit_retry : let rest (a : BitVec 12) := (wRetry.link 0).retry.filter fun x => !acked a x.seq
    rest (2 - 1) = [] ∧ rest (1 - 1) = [oflit 1] ∧ rest (0 - 1) = (wRetry.link 0).retry ∧ (wRetry.link 0).replays = 7 ∧
    (wRetry.link 0).st = .up ∧ (wRetry.link 0).outq = [] := by decide +kernel

theorem test_badFlit_retry : After (.dataFlitReceive 0 (flit0 false 0 (slot1 :: List.replicate 12 slotIdle))) wFar
    (fun u => u.fab.fabIn.isEmpty && (u.fab.fabSent.map fun x => (x.1, x.2.kind, x.2.ack)) = [(0, 2, 0)]) = true := by decide +kernel

theorem test_dataFlit : After (.dataFlitReceive 0 (flit0 true 0 (slot1 :: List.replicate 12 slotIdle))) wFar
    (fun u => (u.fab.fabIn.map fun x => (x.2.op, x.2.src, x.2.addr)) = [(opRead, 1, 0x40)] && (u.link 0).expSeq = 1) = true := by decide +kernel

theorem test_dataFlit_order : After (.dataFlitReceive 0 (flit0 true 1 (slot1 :: List.replicate 12 slotIdle))) wFar
    (fun u => u.fab.fabIn.isEmpty && (u.link 0).expSeq = 0) = true := by decide +kernel

def tinfo (link : BitVec 5) : TrainInfo := { link := link, sizes := #v[2, 1, 1, 1, 1, 1], hash := 0, posValid := true, module := 1 }

/-- Link 0 in training, its peer's record taken; an image is applied. -/
def wtrain (link : BitVec 5) : State :=
  ((torus w0).modLink 0 fun k => { k with st := .training, flitOk := true, peerValid := true, peer := tinfo link }).modEsp fun e =>
    { e with sections := [{ kind := 0, part := 0, gen := 0, hash := 0, body := [] }] }

theorem wit_train : (wtrain 2).imaged = true ∧ (wtrain 2).fab.posValid = true ∧ ((wtrain 2).link 0).peer.posValid = true ∧
    ((wtrain 2).link 0).st = .training ∧ ((wtrain 2).link 0).flitOk = true ∧ ((wtrain 2).link 0).outq = [] ∧
    (wtrain 2).peerCheck 0 = none ∧ (wtrain 1).peerCheck 0 = some 1 ∧ w0.imaged = false ∧ (wFar.link 0).onPair = [] := by decide +kernel

/-- A link of a dimension of size 1, and one whose pair has sent what it had. -/
theorem wit_train_unused : (wtrain 2).unused 4 = true ∧ (wtrain 2).unused 0 = false ∧ ((wtrain 2).link (pairOf 0)).outq = [] ∧
    (wFar.link 0).failover = false ∧ (wFar.link 0).returned = [] ∧ (wFar.link 0).ackDue = false := by decide +kernel

theorem test_training : After (.linkTrainingDone 0) (wtrain 1) (fun u => (u.link 0).st == .refused && (u.link 0).rcause = 1) = true := by
  decide +kernel

/-! ### Objects and schedules -/

/-- Two object slots and their bitmaps in the first MiB, with budgets of 4 extents; slot 0 has the record r. -/
def wobj (d : Desc) (r : Option ObjRec) : State :=
  let s := (wop d).modTier fun t => { t with objBase := 0x10000, objCount := 2, dirtyBase := 0x20000 }
  let s := s.modPart 0 fun p => { p with cfg := { p.cfg with nearBudget := 4, farBudget := 4 } }
  match r with
  | some r => s.putObj 0 r
  | none => s

/-- An object of one extent that partition 0 owns: near at 0x40000, or in the slow tier only. -/
def rObj (st near share : Nat) (pins : List Nat) : ObjRec :=
  { id := 7, st := st, dest := 0, holder := 0, owner := 0, extents := 1, share := share, near := near, far := noAddr, dirty := 0, pins := pins }

def pins0 (n : Nat) : List Nat := n :: List.replicate 15 0

def rNear (n : Nat) : ObjRec := rObj obNear 0x40000 1 (pins0 n)

def rSlow : ObjRec := rObj obSlow noAddr 1 (pins0 0)

def dObj (opc n a b share : Nat) : Desc := dsc [(0, opc), (16, n), (32, 7), (40, a), (96, b), (98, share)]

/-- The object is there, shared, in this state, and no move of it is in progress. -/
def hasObj (d : Desc) (r : ObjRec) : Bool :=
  let s := wobj d (some r)
  s.begins 0 [] (opq d) d && objFields d && s.tablesApart && s.findObj 7 == some 0 && (s.obj 0).share / 2 ^ 0 % 2 == 1 && s.obj 0 == r &&
    (s.findMove 0).isNone

theorem wit_objCreate : let d := dObj 0x60 1 0x50000 3 0
    let s := wobj d none
    s.begins 0 [] (opq d) d = true ∧ s.owner 0 = some 0 ∧ s.tablesApart = true ∧ objFields d = true ∧ s.findObj 7 = none ∧
    s.freeSlot = some 0 ∧ s.placeOk (some 0) 3 0x50000 65536 1 = true ∧ s.tier.slowLost = false ∧ 1 ≤ s.tier.slowFree.toNat ∧
    s.chargeIn 0 3 + 1 ≤ s.budgetOf 0 3 ∧ ¬(s.chargeIn 0 3 + 5 ≤ s.budgetOf 0 3) ∧
    objFields (dObj 0x60 0 0x50000 3 0) = false := by decide +kernel

theorem wit_object_memOk : (wobj (dObj 0x66 0 0 0 0) (some (rNear 1))).memOk := by
  show Memory.wf _ = true
  decide +kernel

theorem wit_objPromote : hasObj (dObj 0x61 0 0x50000 3 0) (rNear 0) = true ∧ hasObj (dObj 0x61 0 0x50000 7 0) (rNear 1) = true ∧
    hasObj (dObj 0x61 0 0x50000 3 0) rSlow = true ∧ rSlow.copy = none ∧ (rNear 0).copy = some (3, 0x40000) ∧
    (wobj (dObj 0x61 0 0x50000 3 0) (some rSlow)).placeOk (some 0) 3 0x50000 65536 1 = true ∧
    (wobj (dObj 0x61 0 0x50000 3 0) (some rSlow)).chargeIn 0 3 + rSlow.chargeOf 0 ≤ 4 := by decide +kernel

theorem wit_objPromote_budget : let s := (wobj (dObj 0x61 0 0x50000 3 0) (some rSlow)).modPart 0 fun p =>
      { p with cfg := { p.cfg with nearBudget := 0 } }
    s.budgetOf 0 3 < s.chargeIn 0 3 + rSlow.chargeOf 0 := by decide +kernel

theorem wit_objEvict : hasObj (dObj 0x62 0 0 1 0) (rNear 0) = true ∧ hasObj (dObj 0x62 0 0 1 0) (rNear 1) = true ∧
    (rNear 0).pinned = false ∧ (rNear 1).pinned = true ∧ (wobj (dObj 0x62 0 0 1 0) (some (rNear 0))).dirtyList 0 = [] := by decide +kernel

theorem wit_objPin : hasObj (dObj 0x63 0 0 4 0) (rNear 0) = true ∧ hasObj (dObj 0x63 0 0 0 0) (rNear 1) = true ∧
    hasObj (dObj 0x63 0 0 0 0) (rNear 0) = true ∧ (rNear 0).pin 0 < 65535 ∧ (rNear 1).pin 0 ≠ 0 := by decide +kernel

theorem wit_object_other : hasObj (dObj 0x64 0 0 0 0) (rNear 0) = true ∧ hasObj (dObj 0x64 0 0 0 0) rSlow = true ∧
    (wobj (dObj 0x64 0 0 0 0) (some (rNear 0))).slowWritable = true ∧ hasObj (dObj 0x65 0 0 0 0) (rNear 1) = true ∧
    hasObj (dObj 0x65 0 0 0 0) (rObj obNear 0x40000 1 [0, 1]) = false ∧ (rObj obNear 0x40000 1 [0, 1]).pin 1 ≠ 0 ∧
    hasObj (dObj 0x62 0 0 1 0) (rObj obPoisoned noAddr 1 (pins0 0)) = true ∧
    ((wobj (dObj 0x62 0 0 1 0) (some (rObj obNear 0x40000 2 (pins0 0)))).obj 0).share / 2 ^ 0 % 2 = 0 := by decide +kernel

def dQuery : Desc := dsc [(0, 0x66), (32, 7), (48, 0x60000)]

theorem wit_objQuery : hasObj dQuery (rNear 1) = true ∧
    let s := wobj dQuery (some (rNear 1))
    s.herePart 0x60000 = true ∧ byteSpace 0x60000 128 = true ∧ s.writeTrouble 0 0x60000 128 = none ∧ s.plainData 0x60000 128 = true := by
  decide +kernel

theorem test_objCreate : After (.objCreate 0) (wobj (dObj 0x60 1 0x50000 3 0) none)
    (fun u => (u.obj 0).st == obNear && (u.obj 0).share == 1 && (u.obj 0).near == 0x50000 && (u.part 0).nearCharge == 1) = true := by
  decide +kernel

theorem test_objPin : After (.objPin 0) (wobj (dObj 0x63 0 0 4 0) (some (rNear 1)))
    (fun u => (u.obj 0).pin 0 == 2 && (u.core 0).ops.map Op.result == [objResult 0 2 0x40000]) = true := by decide +kernel

theorem test_objEvict_pinned : After (.objEvict 0 []) (wobj (dObj 0x62 0 0 1 0) (some (rNear 1)))
    (fun u => u.obj 0 == rNear 1 && (u.core 0).ops.map Op.phase == [.finished stNotEvicted]) = true := by decide +kernel

/-- A move of object 7 of no extents' data (its record says one extent). -/
def wmove (up create : Bool) (src : BitVec 3) (dest : BitVec 2) (extents : Nat) (srcAddr dstAddr : Word) (wrote : List Nat) : State :=
  (wobj dQuery (some { rNear 0 with st := if up then obUp else obDown })).modTier fun t =>
    { t with moves := [{ id := 7, slot := 0, up := up, src := src, dest := dest, srcAddr := srcAddr, dstAddr := dstAddr, create := create,
                         extents := extents, wrote := wrote, waiters := [] }] }

def mUp : State := wmove true false 1 3 1 0 0x50000 []

theorem wit_moveUp : (mUp.moveOf 7 true).isSome = true ∧ mUp.moveOf 7 false = none ∧ mUp.slowWaits = false ∧ (0 : Nat) < mUp.tier.objCount.toNat ∧
    anyLost [{ stripe := 0, ch := 0, out := .lost }] = true ∧ anyLost [{ stripe := 0, ch := 0, out := .clean }] = false ∧
    mUp.tableLost [] = none ∧
    (∀ m ∈ mUp.tier.moves, ∀ e ∈ List.range m.extents, (m.src == 1 && m.waiters.isEmpty && e == 0) = true) := by decide +kernel

/-- Every extent of a move from the slow tier is read there; one of a near copy that cannot be read and is dirty is lost. -/
theorem wit_moveUp_extent : (∀ m ∈ mUp.tier.moves, (mUp.rereads m []).contains 0 = true) ∧
    let s := (wmove true false 2 3 1 0x40000 0x50000 []).put 0x20000 [1]
    ∀ m ∈ s.tier.moves, s.upExtent m [0x1000] 0 = none := by decide +kernel

theorem wit_moveUp_plain : mUp.plainData 0x50000 65536 = true := by
  have hd : mUp.anyDead = false := by decide +kernel
  have hu : mUp.uncorrectable [] 0x50000 65536 = none := by decide +kernel
  have hn : mUp.noCopy 0x50000 65536 = true := by decide +kernel
  simp [State.plainData, hu, hn, State.deadAt_of_sound hd]

theorem wit_moveDown : ((wmove false true 0 1 1 0x50000 0 []).moveOf 7 false).isSome = true ∧
    (wmove false true 0 1 1 0x50000 0 []).readable [] 0x50000 65536 = true ∧
    (wmove false true 0 1 1 0x50000 0 []).readable [0x1400] 0x50000 65536 = false ∧
    ((wmove false false 3 1 1 0x40000 0 [0]).moveOf 7 false).isSome = true ∧
    (wmove false false 3 1 1 0x40000 0 [0]).slowWaits = false := by decide +kernel

theorem test_moveDown : After (.moveDownDone 7 [] [] []) (wmove false false 3 1 1 0x40000 0 [])
    (fun u => u.obj 0 == { rSlow with id := 7 } && u.tier.moves.isEmpty) = true := by decide +kernel

/-- Object 7 in the slow tier: page 0 of it is on channel 1 in stripe 3, die 2. -/
def wslow : State := (wobj dQuery (some rSlow)).modTier fun t =>
  { t with stripes := [{ num := 3, die := 2, pages := [{ ch := 1, die := 2, use := .data 7 0 }] }] }

def lostRead : PageRead := { stripe := 3, ch := 1, out := .lost }

theorem wit_patrol_page : wslow.readOf lostRead = some (7, 0) ∧ wslow.tableLost [] = none ∧ wslow.tier.slowLost = false ∧
    wslow.slowWaits = false ∧ wslow.findObj 7 = some 0 := by decide +kernel

/-- Block 5 of die 2 on channel 1 is scheduled for a scrub. -/
def wscrub : State := (wslow.modFlash 1 2 5 fun b => { b with scrub := true, erases := some 4 }).modTier fun t =>
  { t with slow := t.slow.map fun c => { c with up := true } }

theorem wit_scrub : (wscrub.scrubDue 1).map FlashBlock.num = some 5 ∧ (vget wscrub.tier.slow 1).up = true ∧
    wscrub.slowWaitsAt 1 = false ∧ (wscrub.modRep fun r => { r with takeover := some 0 }).slowWaitsAt 1 = true ∧
    (wscrub.modRep fun r => { r with takeover := some 1 }).slowWaitsAt 1 = false := by decide +kernel

theorem wit_patrol : (wobj dQuery (some rSlow)).tier.slowLost = false ∧ (wobj dQuery (some rSlow)).slowWaits = false ∧
    (wobj dQuery (some rSlow)).findObj 7 = some 0 := by decide +kernel

/-- A schedule of one entry, PROMOTE of object 7 to 0x50000 at progress 1. -/
def dPf (n : Nat) : Desc := dsc [(0, 0x67), (16, n), (32, 0x8000), (40, 0x9000), (48, 0xA000), (96, 1)]

def wpf (n act prog : Nat) : State := (wobj (dPf n) (some rSlow)).put 0x8000
  (leBytes 6 7 ++ leBytes 1 act ++ [0] ++ leBytes 4 1 ++ leBytes 4 0 ++ leBytes 8 0x50000) |>.put 0x9000 (leBytes 8 prog)

theorem wit_prefetch : let s := wpf 1 0 0
    s.begins 0 [] (opq (dPf 1)) (dPf 1) = true ∧ s.pfFields 0 (dPf 1) = true ∧ s.pfFields 0 (dPf 0) = true ∧
    s.pfFields 0 (dPf 65537) = false ∧ s.readTrouble 0 [] 0x8000 32 = none ∧ s.writeTrouble 0 0xA000 8 = none ∧
    s.coreViolates 0 0x9000 8 false = none ∧ s.pfOk (dPf 1) 0 = true ∧ (wpf 1 4 0).pfOk (dPf 1) 0 = false := by decide +kernel

def oPf (w : PrefetchWork) : Op := { opq (dPf 1) with phase := .running, work := .prefetch w }

def wpfRun (w : PrefetchWork) (prog : Nat) : State := (wpf 1 0 prog).modCore 0 fun k => { k with ops := [oPf w] }

def pf0 : PrefetchWork := { next := 0, inflight := [], done := [] }

def pf1 : PrefetchWork := { next := 1, inflight := [0], done := [(0, stDone)] }

theorem wit_prefetchPoll : (wpfRun pf0 1).runsWith 0 (oPf pf0) (.prefetch pf0) :=
  ⟨by decide +kernel, rfl, rfl, by decide +kernel, .inl (by decide +kernel)⟩

theorem wit_prefetchPoll_starts : ((wpfRun pf0 1).pfEntry (dPf 1) 0).atValue ≤ (wpfRun pf0 1).rdN 0x9000 8 ∧
    (wpfRun pf0 0).rdN 0x9000 8 < ((wpfRun pf0 0).pfEntry (dPf 1) 0).atValue ∧ (wpfRun pf0 1).readTrouble 0 [] 0x9000 8 = none ∧
    (wpfRun pf0 1).tier.moves = [] ∧ (wpfRun pf1 1).plainData 0xA000 8 = true := by decide +kernel

theorem wit_prefetchEntry : (wpfRun pf1 1).runsWith 0 (oPf pf1) (.prefetch pf1) ∧ pf1.inflight.filter (· ≠ 0) = [] ∧ pf1.next = pfCount (dPf 1) :=
  ⟨⟨by decide +kernel, rfl, rfl, by decide +kernel, .inl (by decide +kernel)⟩, by decide, by decide +kernel⟩

theorem test_prefetchPoll : After (.prefetchProgressPoll 0 (oPf pf0).ticket []) (wpfRun pf0 1)
    (fun u => (u.tier.moves.map fun m => (m.id, m.up, m.dstAddr)) == [(7, true, 0x50000)] && (u.obj 0).st == obUp) = true := by decide +kernel

/-! ### Collectives, ALLTOALL and WAIT_WORD -/

def dColl (opc p me : Nat) : Desc := dsc [(0, opc), (16, p), (20, me), (24, 3), (32, 0x8000), (40, 0x8100)]

/-- Two members of this module, each with segments of one element: tables at 0x8000, words at 0x9000 and 0x9100. -/
def wcoll (o : Op) (run1 : Nat) : State :=
  ((withOp (win w0) o).put 0x8000 (leBytes 8 0x9000 ++ leBytes 8 0xA000 ++ leBytes 8 0xB000 ++ leBytes 8 0 ++
    leBytes 8 0x9100 ++ leBytes 8 0xA100 ++ leBytes 8 0xB100)).put 0x8100 (leBytes 4 1 ++ leBytes 4 1) |>.put 0x9106 (leBytes 2 run1)

def wc (opc p : Nat) (run1 : Nat) : State := wcoll (opq (dColl opc p 0)) run1

/-- What the clauses of the statement ask of one state. -/
def collReady (opc p : Nat) : Bool :=
  let d := dColl opc p 0
  let s := wc opc p 3
  let a := collOf d
  s.begins 0 [] (opq d) d && dOpc d == opc && collFields d && s.collTables d && s.readTrouble 0 [] a.gtab (32 * a.p) == none &&
  s.readTrouble 0 [] a.seg (4 * a.p) == none && s.collOk a && (s.collTroubles 0 a).all (fun t => t == none) &&
  s.poisoned.isEmpty && !s.anyDead

def collFree (s : State) (a : Coll) (x m : Nat) : Bool :=
  s.noCopy x m && !overlap x m a.gtab (32 * a.p) && !overlap x m a.seg (4 * a.p)

theorem wit_coll_one : collReady 0x71 1 = true ∧
    let s := wc 0x71 1 3
    let a := collOf (dColl 0x71 1 0)
    collFree s a 0x9000 16 = true ∧ overlap 0x9000 64 0xA000 (s.collBytes a) = false ∧ overlap 0x9000 64 0xB000 (s.collBytes a) = false ∧
    collFree s a 0xB000 (s.collBytes a) = true := by decide +kernel

theorem wit_coll_two : collReady 0x72 2 = true ∧
    let s := wc 0x72 2 3
    let a := collOf (dColl 0x72 2 0)
    (s.member a a.succ).ctl = 0x9100 ∧ s.isLocal 0x9100 = true ∧ overlap 0x9000 64 0x9100 64 = false ∧
    runMatches a.run (s.rd 0x9100 64) = true ∧ runMatches a.run ((wc 0x72 2 4).rd 0x9100 64) = false ∧
    s.segOff a 1 = 4 ∧ s.segBytes a 1 = 4 ∧ collFree s a 0xA104 4 = true ∧ collFree s a 0x9100 8 = true ∧
    overlap 0xA104 4 0x9000 64 = false ∧ overlap 0xA104 4 0x9100 64 = false := by decide +kernel

theorem wit_coll_bad : collReady 0x70 1 = true ∧ collFields (dColl 0x70 0 0) = false ∧ collFields (dColl 0x70 1 1) = false ∧
    collFields (dColl 0x70 4096 4095) = true ∧ collFields (dColl 0x70 4097 0) = false ∧
    ((wc 0x72 2 3).put 0x8028 (leBytes 8 0xA000)).collOk (collOf (dColl 0x72 2 0)) = false := by decide +kernel

/-- The member reduces its predecessor's segment into its successor's buffer and signals it (R286). -/
theorem test_reduceScatter : After (.reduceScatter 0 []) (((wc 0x71 2 3).put 0xA004 [0, 0, 0x80, 0x3F]).put 0xA104 [0, 0, 0x80, 0x3F])
    (fun u => u.rdN 0xA104 4 == 0x40000000 && u.rdN 0x9100 8 == 3 * 2 ^ 48 + 1 && u.rdN 0x9000 8 == 3 * 2 ^ 48) = true := by decide +kernel

def cw0 (ag : Bool) : CollWork := { ag := ag, k := 2, sent := false, ready := true, steps := 1 }

def oColl (ag : Bool) : Op := { opq (dColl 0x72 2 0) with phase := .running, work := .coll (cw0 ag) }

def wcr (ag : Bool) (rs agw : Nat) : State := (wcoll (oColl ag) 3).put 0x9000 (leBytes 8 rs ++ leBytes 8 agw)

theorem wit_collPoll (ag : Bool) (rs agw : Nat) : (wcr ag rs agw).runsWith 0 (oColl ag) (.coll (cw0 ag)) ∧ (oColl ag).xfers = [] ∧
    (oColl ag).tags = [] := by
  refine ⟨⟨?_, ?_, ?_, ?_, .inl ?_⟩, ?_, ?_⟩ <;> cases ag <;> rfl

theorem wit_collPoll_words : failIn 3 (3 * 2 ^ 48 + 2 ^ 47 + 0x10 * 2 ^ 16) = some 0x10 ∧ failIn 3 (3 * 2 ^ 48 + 1) = none ∧
    failIn 3 (4 * 2 ^ 48 + 2 ^ 47) = none ∧ bitsOf (3 * 2 ^ 48 + 1) 15 0 + 1 = 2 ∧
    (wcr true 0 (3 * 2 ^ 48 + 1)).rdN 0x9008 8 = 3 * 2 ^ 48 + 1 := by decide +kernel

theorem test_collPoll_done : After (.collectiveWaitPoll 0 (oColl true).ticket []) (wcr true 0 (3 * 2 ^ 48 + 1))
    (fun u => ((u.core 0).ops.map Op.phase) == [.finished stDone]) = true := by decide +kernel

theorem test_collPoll_waits : After (.collectiveWaitPoll 0 (oColl true).ticket []) (wcr true 0 (3 * 2 ^ 48))
    (fun u => ((u.core 0).ops.map Op.phase) == [.running]) = true := by decide +kernel

def dA2a (ret rows : Nat) : Desc := dsc [(0, 0x73), (16, rows), (20, 64), (24, 1), (28, 1), (32, 0x8000), (40, if ret = 1 then 0 else 0xA000),
  (48, if ret = 1 then 0 else 0x8100), (56, if ret = 1 then 0 else 0x8200), (64, 64), (72, 64), (80, if ret = 1 then 0 else 0xC000),
  (88, if ret = 1 then 0 else 64), (96, ret)]

/-- One member, this module: receive area at 0xB000 with `cap` slots, cursor at 0x9000, DONE at 0x9008; expert 0 maps to m. -/
def wa2a (ret rows cap cursor m : Nat) : State :=
  (((wop (dA2a ret rows)).put 0x8000 (leBytes 8 0xB000 ++ leBytes 8 0x9000 ++ leBytes 4 cap ++ leBytes 4 0 ++ leBytes 8 0x9008)).put 0x8200
    (leBytes 2 m)).put 0x9000 (leBytes 8 cursor)

theorem wit_dispatch : let d := dA2a 0 1
    let s := wa2a 0 1 2 0 0
    let a := a2aOf d
    s.begins 0 [] (opq d) d = true ∧ s.a2aFields d = true ∧ s.readTrouble 0 [] a.gtab 32 = none ∧ s.a2aTable a = true ∧
    s.readTrouble 0 [] 0x8100 2 = none ∧ (((s.dispatchXfers a ++ s.a2aBumps a).flatMap Xfer.places).map
      (fun p => s.globalTrouble 0 [] p.1 p.2 true)).all (fun t => t == none) = true ∧ s.rowMember a 0 = some 0 ∧
    s.noCopy 0x9000 8 = true ∧ s.noCopy 0xB000 64 = true ∧ s.noCopy 0xB080 8 = true ∧
    List.Pairwise (fun p q : Nat × Nat => overlap p.1 p.2 q.1 q.2 = false)
      [(0x9000, 8), (0xB000, 64), (0xB080, 8), (0x9008, 8), (0xA000, 64)] := by decide +kernel

theorem wit_dispatch_other : (wa2a 0 0 2 0 0).a2aFields (dA2a 0 0) = true ∧ (wa2a 0 1 2 0 1).rowMember (a2aOf (dA2a 0 1)) 0 = none ∧
    (wa2a 0 1 2 0 0).a2aFields (dA2a 0 1048577) = false ∧ ((wa2a 0 1 2 0 0).put 0x8014 [1]).a2aTable (a2aOf (dA2a 0 1)) = false := by
  decide +kernel

theorem test_dispatch : After (.alltoallDispatch 0 []) ((wa2a 0 1 2 0 0).put 0xA000 [7, 8])
    (fun u => u.rdN 0x9000 8 == 1 && u.rdN 0x9008 8 == 1 && u.rdN 0xB000 2 == 0x807 && u.rdN 0xB080 8 == 0xC000 &&
      ((u.core 0).ops.map Op.result) == [a2aResult [1, 0, 0]]) = true := by decide +kernel

/-- A full receive area overflows: the row is counted and not written (R291). -/
theorem test_dispatch_overflow : After (.alltoallDispatch 0 []) ((wa2a 0 1 0 0 0).put 0xA000 [7, 8])
    (fun u => u.rdN 0x9000 8 == 1 && u.rdN 0x9008 8 == 1 && u.rdN 0xB000 2 == 0 && ((u.core 0).ops.map Op.result) == [a2aResult [0, 0, 1]]) = true := by
  decide +kernel

theorem wit_return : let d := dA2a 1 1
    let s := (wa2a 1 1 2 1 0).put 0xB080 (leBytes 8 0xC000)
    let a := a2aOf d
    s.begins 0 [] (opq d) d = true ∧ s.a2aFields d = true ∧ (s.ownMember a).isSome = true ∧ s.readTrouble 0 [] 0x9000 8 = none ∧
    min (s.rdN 0x9000 8) 2 = 1 ∧ s.readTrouble 0 [] 0xB000 64 = none ∧ s.readTrouble 0 [] 0xB080 8 = none ∧ s.rdN 0xB080 8 = 0xC000 ∧
    s.globalTrouble 0 [] 0xC000 64 true = none ∧ s.globalTrouble 0 [] 0x9008 8 true = none ∧ s.noCopy 0xC000 64 = true ∧
    List.Pairwise (fun p q : Nat × Nat => overlap p.1 p.2 q.1 q.2 = false) [(0xC000, 64), (0x9008, 8), (0xB000, 64)] := by decide +kernel

def dWait (v : Nat) : Desc := dsc [(0, 0x7E), (32, 0x8000), (96, v)]

def oWait (v : Nat) : Op := { opq (dWait v) with phase := .running, work := .waitWord }

theorem wit_waitWord : (wop (dWait 1)).begins 0 [] (opq (dWait 1)) (dWait 1) = true ∧ (wop (dWait 1)).waitWordOk 0 (dWait 1) = true ∧
    (wop (dWait 1)).coreViolates 0 0x8000 8 false = none ∧ (w0.coreViolates 0 0x8000 8 false).isSome = true ∧
    (wop (dWait 1)).waitWordOk 0 (dsc [(0, 0x7E), (32, 0x8004), (96, 1)]) = false := by decide +kernel

theorem wit_waitPoll (v : Nat) : (withOp w0 (oWait v)).runsWith 0 (oWait v) .waitWord := by
  refine ⟨?_, ?_, ?_, ?_, .inl ?_⟩ <;> rfl

theorem test_waitPoll : After (.waitWordPoll 0 (oWait 5).ticket []) ((withOp w0 (oWait 5)).put 0x8000 [5])
    (fun u => ((u.core 0).ops.map Op.phase) == [.finished stDone]) = true ∧
    After (.waitWordPoll 0 (oWait 6).ticket []) ((withOp w0 (oWait 6)).put 0x8000 [5])
    (fun u => ((u.core 0).ops.map Op.phase) == [.running]) = true := by decide +kernel

/-! ### Channels and ports -/

def wch (f : Chan → Chan) : State := w0.modChan 3 f

def wSrv (thr nret : Nat) : State := (((wch fun c => { c with st := .serving }).modEsp fun e =>
  { e with thresholds := vset e.thresholds 0 (BitVec.ofNat 32 thr) }).modTier fun t => { t with nretMax := BitVec.ofNat 4 nret })

theorem wit_retrain : ((wSrv 0xFFFFFFFF 0).chan 3).serves = true ∧ (vat (wSrv 0xFFFFFFFF 0).esp.thresholds 0).getD 0xFFFFFFFF = 0xFFFFFFFF ∧
    (w0.chan 3).serves = false ∧ ((wSrv 1 1).chan 3).st = .serving ∧ vat (wSrv 1 1).esp.thresholds 0 = some 1 ∧ (wSrv 1 1).tier.evac = none ∧
    (wSrv 1 1).nret < (wSrv 1 1).tier.nretMax.toNat ∧ (wSrv 1 0).tier.nretMax.toNat ≤ (wSrv 1 0).nret := by decide +kernel

def ev0 : Evac := { ch := 3, cls := 0, left := 2, copied := [] }

def wEvac : State := (wch fun c => { c with st := .evacuating }).modTier fun t => { t with evac := some ev0 }

theorem wit_evac : wEvac.tier.evac = some ev0 ∧ (List.range 200).any (fun g => g * 256 < wEvac.nearTop &&
      wEvac.newPlace 3 g != wEvac.placeOf (g * 256)) = true ∧ 1 < ev0.left ∧
    wEvac.tier.retireQueue = [] ∧ wEvac.poison = [] ∧ wEvac.granuleLost [0x400] 0x100 = [0x400] ∧ wEvac.granuleLost [] 0x100 = [] ∧
    wEvac.toCopy ev0 (0x1000000000 / 256) = false ∧ (List.finRange 192).all (fun c => (wEvac.chan c).poison.isEmpty) = true := by decide +kernel

def wTg (busy stop : Bool) (passes : BitVec 6) : State :=
  wch fun c => { c with st := .serving, tgBusy := busy, tgStop := stop, tgPasses := passes, tgRows := 1 }

theorem wit_tg : (wTg false false 0).maintains .mctl = true ∧ (wTg false false 0).maintains (.thread 0 0) = false ∧
    (wTg false false 0).tgRangeOk 3 = true ∧ ((wTg false false 0).modChan 3 fun c => { c with tgFirst := 0x600000 }).tgRangeOk 3 = false ∧
    ((wTg true true 0).chan 3).tgBusy = true ∧ ((wTg true false 0).chan 3).tgPasses = 0 := by decide +kernel

/-- A channel waits for the evacuation to end: it starts its own with MAX 2, and is LOST with MAX 1 (R234, R235). -/
def wQueue (max : BitVec 4) : State := (wEvac.modTier fun t => { t with retireQueue := [(5, 1)], nretMax := max }).modChan 5 fun c =>
  { c with st := .serving }

theorem wit_evac_queue : (wQueue 2).nret + 1 < (wQueue 2).tier.nretMax.toNat ∧ (wQueue 1).tier.nretMax.toNat ≤ (wQueue 1).nret + 1 ∧
    ((wQueue 1).chan 5).st = .serving := by decide +kernel

/-- A row of the range that backs an address of the near tier, before any image is loaded, and one past its end (R231, R238). -/
theorem wit_tgRow : (wTg true true 1).rowAddr 3 0 = some 0x300 ∧ (wTg true true 1).placeOf 0x300 = (3, 0) ∧
    (wTg true true 1).rowAddr 3 0x600000 = none := by decide +kernel

/-- A run with PASSES 0 goes on until STOP; one that is over counts its checks, 4 × ROWS × READS × PASSES (R238). -/
theorem test_tgRunEnd : After (.tgRunEnd 3 9 [(5, 2)]) (wTg true false 0) (fun u => (u.chan 3).tgBusy) = true ∧
    After (.tgRunEnd 3 9 [(0x600000, 2)]) ((wTg true false 3).modChan 3 fun c => { c with tgFirst := 0x600000, tgReads := 2 })
      (fun u => !(u.chan 3).tgBusy && (u.chan 3).tgFValid && (u.chan 3).tgFRow == 0x600000 && (u.chan 3).tgChecked == 24) = true := by
  decide +kernel

def rFar (dirty : Nat) : ObjRec := { rObj obFar noAddr 1 (pins0 0) with far := 0x100000000000, dirty := dirty }

def wFarObj (st : PortSt) (dirty : Nat) : State := (wobj dQuery (some (rFar dirty))).modFar 0 fun f => { f with st := st, cap := 0x10000 }

theorem wit_farPort : (vget (wFarObj .up 0).tier.far 0).st = .up ∧ (wFarObj .up 0).tablesApart = true ∧ (0 : Nat) < (wFarObj .up 0).tier.objCount.toNat ∧
    ((wFarObj .up 0).obj 0).st = obFar ∧ (wFarObj .up 0).farOn 0 ((wFarObj .up 0).obj 0) = true ∧ ((wFarObj .up 0).obj 0).dirty = 0 ∧
    ((wFarObj .up 1).obj 0).dirty ≠ 0 ∧ (vget w0.tier.far 0).st ≠ .up := by decide +kernel

/-- The only object on the port is moving up from it, with no request waiting (R241). -/
theorem wit_farPort_moving : let r := { rFar 0 with st := obUp, dest := 3 }
    let s := (wFarObj .up 0).putObj 0 r |>.modTier fun t =>
      { t with moves := [{ id := 7, slot := 0, up := true, src := 2, dest := 3, srcAddr := 0x100000000000, dstAddr := 0x50000,
                           create := false, extents := 1, wrote := [], waiters := [] }] }
    (s.obj 0).st = obUp ∧ s.farOn 0 (s.obj 0) = true ∧ (s.findMove 0).isSome = true ∧ s.tableLost [] = none ∧
    s.farOn 0 (s.obj 1) = false ∧ (wFarObj .up 0).findMove 0 = none := by decide +kernel

theorem test_farPort : After (.farPortRetire 0) (wFarObj .up 0) (fun u => (vget u.tier.far 0).st == .retired) = true := by decide +kernel

theorem test_farLinkLoss : After (.farLinkLoss 0 false) (wFarObj .up 0) (fun u => (vget u.tier.far 0).st == .training) = true := by decide +kernel

/-! ### Images and partitions -/

def zeros (n : Nat) : List Byte := List.replicate n 0

def bodyModule : List Byte := leBytes 2 500 ++ leBytes 2 500 ++ [32, 30] ++ zeros 58
def bodyNear : List Byte := [1, 0, 1] ++ zeros 5 ++ leBytes 8 (2 ^ 63 + 0x600000 * 2 ^ 32) ++ zeros 112
def bodyFabric : List Byte := ([1, 1, 1, 1, 1, 1, 0, 0] ++ zeros 24 ++ List.replicate 24 6 ++ zeros 8) ++ zeros 3072
def bodyFar : List Byte := [0, 1, 1, 0] ++ leBytes 4 0x10000 ++ leBytes 8 (2 ^ 32) ++ zeros 48
def bodyRetire : List Byte := (List.replicate 9 (leBytes 4 1 ++ zeros 4 ++ leBytes 8 1)).flatten ++ zeros 112

def secRow (kind : Byte) (off len : Nat) : List Byte := [kind, 0xFF, 0, 0] ++ leBytes 4 1 ++ leBytes 4 off ++ leBytes 4 len ++ zeros 32

/-- A FULL image without partitions, laid out as R294 and R296 say; its hashes are 0. -/
def img0 : List Byte :=
  leBytes 4 0x4C505345 ++ [1, 0, 0, 1] ++ leBytes 4 6452 ++ [5, 0, 0, 0, 0xB1] ++ zeros 111 ++
  secRow 1 384 64 ++ secRow 2 448 128 ++ secRow 3 576 3136 ++ secRow 4 3712 64 ++ secRow 5 3776 256 ++ zeros 16 ++
  bodyModule ++ bodyNear ++ bodyFabric ++ bodyFar ++ bodyRetire ++ zeros 2420

def cimg (fence deferred : Bool) : HCmd :=
  { handle := 0x4000, sess := 0, htag := 1, opc := 0x30, part := 0xFF, fence := fence, args := zeros 12 ++ leBytes 4 6452, xfer := 6452, data := img0,
    issued := none, sentAll := false, running := false, waited := false, atHold := false, deferred := deferred, behind := false }

def key0 : KeyEntry := { pk := [], roles := 0x3F, valid := true, revoked := false, pmask := 0xFFFF }

/-- The module is ready, an open MAINTENANCE session has sent the image, and the keyring holds a key. -/
def wimg (st : EspSt) (floor : BitVec 32) (secs : List Section) (c : HCmd) : State :=
  let s := w0.modPwr fun u => { u with run := .ready }
  let s := s.modEsp fun e => { e with espSt := st, layoutFloor := floor, sections := secs }
  let s := s.modSec fun u => { u with keyring := some { version := 1, entries := Vector.replicate 8 key0, bytes := [] } }
  let s := s.modFct fun u => { u with
    cmds := [c]
    handles := [{ slot := 0, gen := 1, st := .issued, sess := 0, status := 0, seq := 0, issueCore := none }] }
  s.modSess 0 fun x => { x with st := .openS, maint := true, sid := 9 }

theorem secTable_img0 : (secTable img0).map (fun e => (e.kind, e.body)) =
    [(1, bodyModule), (2, bodyNear), (3, bodyFabric), (4, bodyFar), (5, bodyRetire)] := by decide +kernel

theorem firstBad_none : ∀ l : List (Nat × List Chk), (∀ x ∈ l, x.2.all Chk.ok = true) → firstBad l = none
  | [], _ => rfl
  | (n, cs) :: r, h => by
    have h1 := h (n, cs) (List.mem_cons_self ..)
    have h2 : (cs.find? fun c => !c.ok) = none := by
      rw [List.find?_eq_none]
      intro c hc
      simp [List.all_eq_true.mp h1 c hc]
    simp only [firstBad, h2]
    exact firstBad_none r fun x hx => h x (List.mem_cons_of_mem _ hx)

/-- The credits of the image's FABRIC section are all 0. -/
theorem credOf_img0 (p l v : Nat) : credOf bodyFabric p l v = 0 := by
  have h1 : ∀ n k : Nat, leNat (List.replicate n (0 : Byte) |>.take k) = 0 := by
    intro n k
    rw [List.take_replicate]
    generalize min k n = m
    induction m with
    | zero => rfl
    | succ m ih => rw [List.replicate_succ, leNat, ih]; rfl
  have h2 : ([1, 1, 1, 1, 1, 1, 0, 0] ++ zeros 24 ++ List.replicate 24 6 ++ zeros 8 : List Byte).length = 64 := by decide
  unfold credOf bytesN bodyFabric
  rw [List.drop_append, List.drop_eq_nil_of_le (by rw [h2]; omega), List.nil_append]
  unfold zeros
  rw [List.drop_replicate]
  exact h1 _ _

/-- Stage 10 passes where no credits are configured and HASP credits are low (R276). -/
theorem stage10_img0 {es : List EffSec} (h : effBody es 3 0xFF = bodyFabric) : (stage10 es).all Chk.ok = true := by
  have hs : ((List.range 16).flatMap fun _ => (List.range 8).map fun _ => 0).sum = 0 := by decide +kernel
  have hb : ∀ l ∈ List.range 24, bytesN bodyFabric (32 + l) 1 ≤ 4096 := by decide +kernel
  have hn : (List.range 24).any (fun _ => (List.range 6).any fun _ => (0 : Nat) ≠ 0) = false := by decide +kernel
  simp only [stage10, h, credOf_img0, hs, hn, List.all_append, List.all_map, List.all_flatMap, Bool.and_eq_true, List.all_eq_true]
  refine ⟨fun l hl => ?_, fun p _ l _ => ?_⟩
  · exact decide_eq_true (hb l hl)
  · rfl

theorem effective_img0 (s : State) : s.effective img0 = (secTable img0).map fun e => { kind := e.kind, part := e.part, body := e.body, idx := e.idx } := by
  have h : imgPartial img0 = false := by decide +kernel
  simp [State.effective, h]

/-- What the state's own checks ask of the image. -/
def stateChecks (s : State) : Bool :=
  (stage2 s img0).all Chk.ok && (s.roleKey 0 1).isSome && (stage7 s img0 false).all Chk.ok &&
    (stage9 s (s.effective img0)).all Chk.ok && (stage13 s img0).all Chk.ok

/-- The image validates, if SHA3 and the signature say so. -/
theorem validate_img0 (s : State) (hh : ∀ b ∈ [bodyModule, bodyNear, bodyFabric, bodyFar, bodyRetire], Config.sha3 b = 0)
    (hv : ∀ k m g, Config.mldsaVerify k "" m g = true) (hs : stateChecks s = true) : s.validate img0 false = none := by
  simp only [stateChecks, Bool.and_eq_true] at hs
  have hp : imgPartial img0 = false := by decide +kernel
  have hk : bytesN img0 14 1 = 0 := by decide +kernel
  have h3 : (stage3 s img0).all Chk.ok = true := by
    obtain ⟨k, hk'⟩ := Option.isSome_iff_exists.mp hs.1.1.1.2
    simp [stage3, hk, hk', hv]
  have h5 : (stage5 img0).all Chk.ok = true := by
    have e : (secTable img0).all (fun x => decide (x.hash = 0)) = true := by decide +kernel
    have m : ∀ x ∈ secTable img0, x.body ∈ [bodyModule, bodyNear, bodyFabric, bodyFar, bodyRetire] := by
      intro x hx
      have : (x.kind, x.body) ∈ (secTable img0).map (fun e => (e.kind, e.body)) := List.mem_map_of_mem hx
      rw [secTable_img0] at this
      simp only [List.mem_cons, Prod.mk.injEq, List.not_mem_nil, or_false] at this ⊢
      rcases this with h | h | h | h | h <;> simp [h.2]
    simp only [stage5, List.all_map, List.all_eq_true]
    intro x hx
    simpa [hh _ (m x hx)] using (of_decide_eq_true (List.all_eq_true.mp e x hx)).symm
  have hf : effBody (s.effective img0) 3 0xFF = bodyFabric := by rw [effective_img0]; decide +kernel
  have h11 : (stage11 s (s.effective img0)).all Chk.ok = true := by
    have : newParts (s.effective img0) = [] := by rw [effective_img0]; decide +kernel
    simp [stage11, this]
  have h12 : (stage12 (s.effective img0)).all Chk.ok = true := by
    have : newParts (s.effective img0) = [] := by rw [effective_img0]; decide +kernel
    simp [stage12, this]
  refine firstBad_none _ ?_
  simp only [hp, Bool.false_and, Bool.false_eq_true, if_false, List.cons_append, List.nil_append, List.mem_cons, List.not_mem_nil,
    or_false]
  rintro x (rfl | rfl | rfl | rfl | rfl | rfl | rfl | rfl | rfl | rfl | rfl | rfl | rfl)
  · decide +kernel
  · exact hs.1.1.1.1
  · exact h3
  · decide +kernel
  · exact h5
  · decide +kernel
  · exact hs.1.1.2
  · decide +kernel
  · exact hs.1.2
  · exact stage10_img0 hf
  · exact h11
  · exact h12
  · exact hs.2

def layout0 : List Section := (secTable img0).map SecEntry.applied

/-- The checks of the state pass for a first load, for the layout that is loaded, and for a newer one; a load waits, too. -/
theorem wit_image : stateChecks (wimg .none 0 [] (cimg false false)) = true ∧
    stateChecks (wimg .loaded 1 layout0 (cimg false false)) = true ∧ (wimg .loaded 1 layout0 (cimg false false)).sameLayout img0 = true ∧
    stateChecks (wimg .loaded 0 [] (cimg false false)) = true ∧ (wimg .loaded 0 [] (cimg false false)).sameLayout img0 = false ∧
    (cimg false false).full = true ∧ (wimg .none 0 [] (cimg false false)).loadBusy = false ∧
    (wimg .none 0 [] (cimg false false)).loadAhead 0x4000 = false ∧ (cimg false true).deferred = true := by
  decide +kernel

/-- The module waits for an earlier load, and its own turn comes once that load is gone (R312). -/
theorem wit_image_waits : ((wimg .none 0 [] (cimg false false)).modFct fun u =>
      { u with cmds := { cimg false false with handle := 0x5000 } :: u.cmds }).loadAhead 0x4000 = true ∧
    ((wimg .none 0 [] (cimg false true)).modEsp fun e => { e with loadsWaiting := [0x4000] }).esp.loadsWaiting ≠ [] ∧
    (let s := (wimg .none 0 [] (cimg false true)).modEsp fun e => { e with loadsWaiting := [0x4000] }
     s.ready = true ∧ (s.fct.cmds.find? fun x => s.esp.loadsWaiting.contains x.handle) = some (cimg false true) ∧
       s.loadAhead 0x4000 = false ∧ s.loadBusy = false) :=
  ⟨by decide +kernel, by decide +kernel, by decide +kernel, rfl, by decide +kernel, by decide +kernel⟩

theorem wit_image_ready : (wimg .none 0 [] (cimg false false)).cmdReady 0x4000 0x30 = some (cimg false false) := rfl

theorem wit_image_accepted (c : HCmd) (h : c.handle = 0x4000) (hs : c.sess = 0) (st : EspSt) (f : BitVec 32) (l : List Section) :
    (wimg st f l c).accepted 0x4000 c := by
  have e : (wimg st f l c).fct.cmds = [c] := rfl
  refine ⟨?_, ⟨{ slot := 0, gen := 1, st := .issued, sess := 0, status := 0, seq := 0, issueCore := none }, rfl, rfl, hs.symm⟩, ?_⟩
  · rw [State.findCmd, e, List.find?_cons_of_pos (by simp [h])]
  · intro x hx _
    rw [e] at hx
    exact List.mem_singleton.mp hx

theorem wit_image_unheld : (wimg .none 0 [] (cimg false false)).unheld := ⟨by decide +kernel, by decide +kernel⟩

/-- An image of no bytes fails the first stage (R310). -/
theorem wit_image_refused : (wimg .none 0 [] (cimg false false)).validate [] false = some { cause := 1, sec := 0xFF, off := some 0 } := by
  decide +kernel

/-- A PARTIAL image of one PART_CORES section for partition 1, listing core c. -/
def imgPart (c : Nat) : List Byte := leBytes 4 0x4C505345 ++ [1, 0, 1, 1] ++ leBytes 4 0 ++ [1, 0, 0, 0, 0xB1] ++ zeros 15 ++ [2, 0] ++ zeros 94 ++
  ([0x10, 1, 0, 0] ++ leBytes 4 1 ++ leBytes 4 192 ++ leBytes 4 40 ++ zeros 32) ++ zeros 16 ++
  ([1, 1, 1, 0, 1, 0, 0, 0] ++ leBytes 22 (2 ^ c) ++ zeros 2 ++ [200, 0, 0xFF, 0, 0, 0, 0, 0])

def load0 (c : Nat) : Load := { handle := 0x4000, img := imgPart c, pmask := 2, rmask := 0 }

/-- Partition 1 is held for a load, with core 5, and drained. -/
def whold (c : Nat) (lease : Bool) : State :=
  let s := (wimg .holding 1 [] { cimg false false with running := true }).modEsp fun e => { e with load := some (load0 c) }
  (s.modPart 1 fun p => { p with
    st := .held, cores := [5], leases := vmod p.leases 0 fun l => { l with used := lease } }).modReg 5 fun r => { r with part := some 1 }

theorem wit_hold : (whold 5 false).namedParts 2 = [1] ∧ (whold 5 false).drained 1 = true ∧ (whold 5 false).recheck (imgPart 5) = none ∧
    ((whold 80 false).recheck (imgPart 80)).isSome = true ∧ ((whold 5 false).part 1).leasesHeld = 0 ∧ ((whold 5 true).part 1).leasesHeld ≠ 0 ∧
    ((whold 5 false).modCore 5 fun k => { k with ops := [opq dNop] }).drained 1 = false ∧ (2 : BitVec 16).getLsbD 1 = true := by decide +kernel

theorem test_drainTimeout : After (.loadDrainTimeout 1) ((whold 5 false).modCore 5 fun k => { k with ops := [opq dNop] })
    (fun u => ((u.core 5).ops.map Op.phase) == [.finished stAborted]) = true := by decide +kernel

theorem test_partialLoad_lease : After .partialLoadApply (whold 5 true) (fun u => u.esp.espSt == .applying && (u.part 1).waitLease) = true := by
  decide +kernel

/-- Partition 0 exists, in a state, with core 0. -/
def wpart (st : PState) (f : Part → Part) : State := w0.modPart 0 fun p => f { p with st := st, cores := [0] }

theorem wit_partEnd : (wpart .step id).mayEndStep (.thread 0 0) 0 = true ∧ (wpart .step id).mayEndStep (.thread 1 0) 0 = false ∧
    ((wpart .step id).part 0).st = .step ∧ (wpart .quiesce id).quiesced 0 = true ∧
    ((wpart .quiesce id).modCore 0 fun k => { k with ops := [opq dNop] }).quiesced 0 = false ∧ ((wpart .quiesce id).part 0).bd.count = 0 ∧
    ((wpart .quiesce fun p => { p with bd := { p.bd with list := 8 } })).listPlaceOk 0 = false := by decide +kernel

theorem wit_boundary : let s (k : BitVec 3) (h : BitVec 16) := wpart .boundary fun p =>
      { p with cfg := { p.cfg with hingeEvery := h }, bd := { p.bd with stage := k } }
    ((s 1 1).part 0).bd.entries = [] ∧ (s 1 1).boundaryOps 0 = false ∧ ((s 1 1).part 0).bd.bundle = none ∧ (s 5 2).atHinge 0 = false ∧
    (s 5 1).atHinge 0 = true ∧ (s 5 0).atHinge 0 = false := by decide +kernel

theorem wit_hinge : let s := wpart .hinge fun p => { p with waitLease := true }
    (List.finRange 176).all (fun c => !(s.core c).reg.retiring && (s.core c).arr.failCols == 0) = true ∧ (s.part 0).cfg.yields = false ∧
    s.rep.lent = [] ∧ (s.part 0).bd.genDue = false ∧ (s.part 0).cfg.seqCount = 0 ∧ s.rep.fwLoad = none ∧ (s.part 0).waitLease = true := by
  decide +kernel

theorem wit_watchdog : (((wpart .step id).core 0).ops.all fun o => match o.work with | .ctl _ => false | _ => true) = true ∧
    ((wpart .step id).part 0).overrun = false ∧ (((wpart .hinge id).part 0).st ≠ .step) := by decide +kernel

def lease0 : Lease := { used := true, expired := false, addr := 0x40, core := 0, thread := 0, n := 2, gen := 1 }

/-- The word at 0x40: a mutex whose lease is slot 0 at generation 0, or free. -/
def wlease (word : Nat) : State := ((win w0).modPart 0 fun p => { p with leases := vset p.leases 0 lease0 }).put 0x40 (leBytes 8 word)

theorem wit_lease : expireWord ((wlease (3 * 2 ^ 62)).rdN 0x40 8) 0 0 2 = some (2 ^ 63 + 2) ∧ expireWord ((wlease 0).rdN 0x40 8) 0 0 2 = none ∧
    (wlease 0).isLocal 0x40 = true ∧ (wlease 0).plainData 0x40 8 = true := by decide +kernel

theorem test_partEnd : After (.partEnd (.thread 0 0) 0 0x0003000000001000) (wpart .step id)
    (fun u => (u.part 0).st == .quiesce && (u.part 0).bd.list == 0x1000 && (u.part 0).bd.count == 3 && (u.core 0).fenced) = true := by decide +kernel

theorem test_leaseExpiry : After (.leaseExpiry 0 0) (wlease (3 * 2 ^ 62)) (fun u => u.rdN 0x40 8 == 2 ^ 63 + 2 &&
    (vget (u.part 0).leases 0).expired) = true := by decide +kernel

/-! ### Ethernet and sessions -/

/-- The module is ready, port 0 is UP and takes untagged frames, and session 0 (SID 9) is open for maintenance. -/
def wnet (f : Session → Session) : State :=
  let s := (w0.modPwr fun u => { u with run := .ready }).modEth 0 fun e => { e with st := .up, untagged := true }
  s.modSess 0 fun x => f { x with st := .openS, maint := true, sid := 9, quota := 10 }

theorem wit_frames : (wnet id).portTakes 0 = true ∧ (wnet id).portTakes 1 = false ∧ ((wnet id).eth 0).echo = false ∧
    (((wnet id).modEth 0 fun e => { e with echo := true }).eth 0).echo = true ∧
    ((wnet id).eth 0).hasIp6 0xFE80000000000000020000FFFE000000 = true ∧
    (((wnet id).modEth 0 fun e => { e with ip4Valid := true, ip4 := 7 }).eth 0).ip4Valid = true ∧ ((wnet id).eth 0).paused = false := by
  decide +kernel

theorem test_arp : After (.arpRequest 0 1 7) ((wnet id).modEth 0 fun e => { e with ip4Valid := true, ip4 := 7 })
    (fun u => (u.eth 0).tx == 1 && (u.eth 0).rx == 1) = true ∧
    After (.arpRequest 0 1 8) ((wnet id).modEth 0 fun e => { e with ip4Valid := true, ip4 := 7 }) (fun u => (u.eth 0).dropOther == 1) = true := by
  decide +kernel

def wpaused : State := (wnet fun x => { x with bulkWait := [(5, [1])] }).modEth 0 fun e => { e with paused := true }

theorem wit_pfc : (wpaused.eth 0).paused = true ∧ (wpaused.eth 0).st = .up ∧ (wpaused.sess 0).isOpen = true ∧ (wpaused.sess 0).port = 0 ∧
    (wpaused.sess 0).bulkOut = [] ∧ (wpaused.sess 0).bulkWait = [(5, [1])] := by decide +kernel

theorem test_pfcFrame : After (.pfcFrame 0 false true) (wnet id) (fun u => !(u.eth 0).paused && (u.eth 0).pfcReceived == 1) = true ∧
    After (.pfcFrame 0 true true) (wnet id) (fun u => (u.eth 0).paused) = true := by decide +kernel

theorem wit_ethLink : ((w0.modEth 0 fun e => { e with st := .training }).eth 0).st = .training ∧
    (vat ((wnet id).modEsp fun e => { e with thresholds := vset e.thresholds 8 0xFFFFFFFF }).esp.thresholds 8).getD 0xFFFFFFFF = 0xFFFFFFFF ∧
    vat ((wnet id).modEsp fun e => { e with thresholds := vset e.thresholds 8 1 }).esp.thresholds 8 = some 1 := by decide +kernel

/-- A packet of session 9 on port 0 whose tag verifies. -/
def spk (type : Byte) (seq : Word) (payload : List Byte) : Pkt :=
  let p := { pkt0 type payload with sid := 9, seq := seq }
  { p with tag := Config.kmac128 ((wnet id).sess 0).h2m (headerOf p ++ payload) "FCT" }

theorem wit_speaks (type : Byte) (seq : Word) (payload : List Byte) : (wnet id).speaks (spk type seq payload) 0 := ⟨rfl, rfl⟩

theorem wit_takesIn : (∀ type ∈ ([0x01, 0x03, 0x10, 0x11] : List Byte), (wnet id).takesIn (spk type 0 []) type) ∧
    (((wnet id).modEth 0 fun e => { e with bulkPcp := 3 }).takesIn { spk 0x12 0 [] with tagged := true, pcp := 3, vid := (State.reset.eth 0).vid } 0x12) ∧
    (wnet id).classOk (spk 0x12 0 []) = false ∧ (wnet id).findSess 8 true = none := by
  refine ⟨?_, ?_, by decide +kernel, by decide +kernel⟩
  · intro t h
    simp only [List.mem_cons, List.not_mem_nil, or_false] at h
    rcases h with rfl | rfl | rfl | rfl <;> exact ⟨rfl, by decide +kernel, by decide +kernel, by decide +kernel, by decide +kernel, rfl⟩
  · exact ⟨rfl, by decide +kernel, by decide +kernel, by decide +kernel, by decide +kernel, rfl⟩

/-- Port 0's pair is being taken over; frames that the port accepts wait, one of another VID or UDP port is dropped. -/
def wover : State := (wnet id).modRep fun r => { r with takeover := some 0 }

theorem wit_accepts : (wnet id).accepts (spk 0x10 0 []) = true ∧ (wnet id).accepts { spk 0x10 0 [] with udpPort := 1 } = false ∧
    (wnet id).accepts { spk 0x10 0 [] with dst := .v6 1 } = false ∧ (0x30 : Byte) ∉ hostTypes := by decide +kernel

theorem wit_waits : wover.portTakes 0 = true ∧ wover.accepts (spk 0x10 0 []) = true ∧ wover.rep.takeover = some 0 ∧
    wover.frameClass (spk 0x10 0 []) = some .control ∧ wover.classOk (spk 0x10 0 []) = true ∧
    bufferLoad .control (spk 0x10 0 [] :: wover.buffered 0 .control) ≤ FctClass.control.capacity ∧ (wover.eth 0).pausing = false := by
  decide +kernel

/-- Buffers filled with frames of 8,192 bytes of payload: CONTROL's overflows, BULK's passes 75 % (R342, R343). -/
theorem wit_buffers_full (f : Pkt) (h : frameLen f = 8306) :
    FctClass.control.capacity < bufferLoad .control (List.replicate 64 f) ∧
    3 * FctClass.bulk.capacity < 4 * bufferLoad .bulk (List.replicate 400 f) ∧
    bufferLoad .bulk (List.replicate 400 f) ≤ FctClass.bulk.capacity := by
  have e (n : Nat) (k : FctClass) (hk : k ≠ .hasp) : bufferLoad k (List.replicate n f) = n * 8306 := by
    rw [bufferLoad, List.map_replicate, if_neg hk, h, List.sum_replicate_nat]
  rw [e _ _ (by decide), e _ _ (by decide)]
  decide

theorem wit_frameLen : frameLen { pkt0 0x12 [] with payload := List.replicate 8192 0 } = 8306 := by
  rw [frameLen, List.length_replicate]
  rfl

/-- A tag that does not verify, whatever the standard gives (R347). -/
theorem wit_not_speaks : ¬ (wnet id).speaks { spk 0x10 0 [] with tag := (spk 0x10 0 []).tag + 1 } 0 := by
  rintro ⟨_, h⟩
  have e : (spk 0x10 0 []).tag = (spk 0x10 0 []).tag + 1 := h
  generalize (spk 0x10 0 []).tag = x at e
  bv_omega

/-- A HELLO of role 1 with a quota of 5, and the keyring that lets its key in. -/
def hello0 : List Byte := zeros 32 ++ [1, 0, 0, 0] ++ leBytes 2 5 ++ [0, 0] ++ zeros 1312 ++ zeros 1184

def whello : State := (wnet id).modSec fun u =>
  { u with keyring := some { version := 1, entries := Vector.replicate 8 { key0 with pk := zeros 1312 }, bytes := [] } }

theorem wit_hello : helloGood hello0 = true ∧ helloGood [] = false ∧ whello.sessionKey (helloOf hello0) = some (0, false) ∧
    (wnet id).sessionKey (helloOf hello0) = none ∧ min (helloOf hello0).quota (16384 - whello.fct.granted) = 5 ∧ whello.setups 0 = 0 ∧
    (whello.sess 1).st = .free ∧ (List.finRange 64).all (fun i => (whello.sess i).st != .setup) = true := by decide +kernel

/-- A HELLO whose key is already in a set-up, which takes its port, MAC and peer (R348). -/
theorem wit_hello_again : let s := wnet fun x => { x with st := .setup, hello := hello0 }
    (s.sess 0).st = .setup ∧ (s.sess 0).hello.take 32 = (pkt0 0x01 hello0).payload.take 32 ∧ s.portTakes 0 = true ∧
    s.accepts (pkt0 0x01 hello0) = true ∧ s.classOk (pkt0 0x01 hello0) = true := by decide +kernel

theorem wit_finish : let s := wnet fun x => { x with st := .setup }
    s.findSess 9 false = some 0 ∧ (s.sess 0).st = .setup ∧ (zeros 2420).length = 2420 ∧ (wnet id).findSess 9 false = none := by decide +kernel

theorem test_hello_bad : After (.setupHello (pkt0 0x01 [])) (wnet id) (fun u => (u.fct.frames.map fun f => (f.type, f.payload)) ==
    [(0x05, leBytes 2 stBadDesc.toNat)]) = true := by decide +kernel

theorem wit_session : (wnet id).findSess 9 true = some 0 ∧ (wnet id).ready = true ∧ ((wnet id).eth 0).st = .up ∧ ((wnet id).sess 0).shasp = false ∧
    (wnet id).pwr.shutting = false ∧ (wnet id).rep.failed = false ∧ ((wnet id).sess 0).bulkWait = [] ∧ ((wnet id).sess 0).closeAck = none ∧
    (wnet id).fct.cmds = [] ∧ ((wnet id).sess 0).ctlIn = 1 ∧ splitEntries 1 [1] = none ∧ (wnet id).quotaUsed 0 < ((wnet id).sess 0).quota ∧
    (wnet id).pwr.safe = false := by decide +kernel

theorem wit_session_unheld : (wnet id).unheld := ⟨by decide +kernel, by decide +kernel⟩

theorem wit_session_handle : ∃ y ∈ ((wnet id).modFct fun u => { u with handles := [{
    slot := 0, gen := 1, st := .free, sess := 0, status := 0, seq := 0, issueCore := none }] }).fct.handles, y.st = .free :=
  ⟨_, List.mem_cons_self .., rfl⟩

/-- A WRITE of 64 bytes at 0x40, under way, and its data. -/
def cwr (running : Bool) : HCmd := { cimg false false with
  htag := 7, opc := 0x20, args := zeros 16 ++ leBytes 8 0x40 ++ leBytes 8 64, xfer := 0, data := [], running := running }

def wdata (running : Bool) : State := (wnet id).modFct fun u => { u with
  cmds := [cwr running]
  handles := [{ slot := 0, gen := 1, st := .issued, sess := 0, status := 0, seq := 0, issueCore := none }] }

theorem wit_data : (cwr true).wants = 64 ∧ (cwr true).xfer < (cwr true).wants ∧ (wdata true).plainData 0x40 64 = true ∧
    BitVec.ofNat 32 (entryN (leBytes 4 7 ++ zeros 12 ++ zeros 64) 0 4) = (cwr true).htag ∧ (wdata true).findCmd 0x4000 = some (cwr true) := by
  decide +kernel

/-- The control entries of R351: one of 12 bytes; a length that is no multiple of 4 spoils the payload. -/
theorem test_splitEntries : splitEntries 24 ([1, 0, 12, 0] ++ zeros 8 ++ [1, 0, 12, 0] ++ zeros 8) =
    some [[1, 0, 12, 0] ++ zeros 8, [1, 0, 12, 0] ++ zeros 8] ∧ splitEntries 14 ([1, 0, 14, 0] ++ zeros 10) = none := by decide +kernel

theorem test_otherFrame : After (.otherFrame 0) (wnet id) (fun u => (u.eth 0).dropOther == 1) = true := by decide +kernel

/-! ### Hasps -/

/-- Partition 0 exists, its session holds it, and HASP packets arrive tagged. -/
def whasp (last : Word) (st : SessSt) : State :=
  (wnet fun x => { x with st := st, maint := false, pmask := 1, haspSeq := last }).modPart 0 fun p => { p with st := .step, cores := [0] }

def haspPay (action scope target : Byte) : List Byte := [action, scope, target, 0] ++ leBytes 4 77 ++ zeros 24

def phasp (seq : Word) (b : List Byte) : Pkt :=
  let p := { pkt0 0x20 b with sid := 9, seq := seq, pcp := 7, tagged := true, vid := (State.reset.eth 0).vid }
  { p with tag := Config.kmac128 0 (headerOf p ++ b) "FCT" }

theorem wit_haspPacket (last : Word) (seq : Word) (a sc t : Byte) : (whasp last .openS).speaks (phasp seq (haspPay a sc t)) 0 ∧
    (whasp last .frozen).speaks (phasp seq (haspPay a sc t)) 0 := ⟨⟨rfl, rfl⟩, ⟨rfl, rfl⟩⟩

theorem wit_haspPacket_in : (whasp 0 .openS).takesIn (phasp 1 (haspPay 0 1 0)) 0x20 :=
  ⟨rfl, by decide +kernel, by decide +kernel, by decide +kernel, by decide +kernel, rfl⟩

/-- During the takeover of its port's pair a HASP waits, in one of 256 cells (R342, R380). -/
theorem wit_haspWaits : let s := (whasp 0 .openS).modRep fun r => { r with takeover := some 0 }
    s.portTakes 0 = true ∧ s.accepts (phasp 1 (haspPay 0 1 0)) = true ∧ s.classOk (phasp 1 (haspPay 0 1 0)) = true ∧
    256 * (s.buffered 0 .hasp).length + 256 ≤ 0x10000 := by decide +kernel

theorem wit_haspFull (s : State) (f : Pkt) (h : s.buffered 0 .hasp = List.replicate 256 f) :
    0x10000 < 256 * (s.buffered 0 .hasp).length + 256 := by
  rw [h, List.length_replicate]
  decide

theorem wit_haspTargets : (whasp 0 .openS).haspTargets ((whasp 0 .openS).sess 0) (haspPay 0 1 0) = some [0] ∧
    (whasp 0 .openS).haspTargets ((whasp 0 .openS).sess 0) (haspPay 0 0 0) = some [] ∧
    (whasp 0 .openS).haspTargets ((whasp 0 .openS).sess 0) (haspPay 0 1 16) = none ∧ ((whasp 0 .openS).sess 0).holds 0 = true ∧
    ((whasp 0 .openS).sess 0).holds 1 = false ∧ ((whasp 0 .frozen).sess 0).st = .frozen ∧ ((whasp 5 .openS).sess 0).haspSeq = 5 ∧
    ((whasp 0 .openS).part 0).st ≠ .absent := by decide +kernel

def mHasp (action target ack : Byte) : Msg :=
  { msg opHasp 0 32 0 ([action, target, 0, ack] ++ leBytes 4 77 ++ zeros 24) with cls := 0 }

def whmsg (m : Msg) (seen : List (BitVec 32)) : State := ((whasp 0 .openS).modFab fun f => { f with hidsSeen := seen, fabIn := [(0, m)] })

theorem wit_haspMsg : (whmsg (mHasp 0 0xFF 0) []).inMsg 0 opHasp = some (0, mHasp 0 0xFF 0) ∧ (mHasp 0 0xFF 0).data.length = 32 ∧
    (77 : BitVec 32) ∈ (whmsg (mHasp 0 0 0) [77]).fab.hidsSeen ∧ (77 : BitVec 32) ∉ (whmsg (mHasp 0 0 0) []).fab.hidsSeen ∧
    (whmsg (mHasp 0 0 1) []).inMsg 0 opHasp = some (0, mHasp 0 0 1) := by decide +kernel

theorem wit_holdPin : (whasp 0 .openS).ctrlOn 0 0 = true ∧ (whasp 0 .openS).rep.takeover = none := by decide +kernel

theorem test_fabHasp : After (.fabHasp 0) (whmsg (mHasp 0 0xFF 0) []) (fun u => (u.part 0).src == 2 && u.fct.haspFabric == 1) = true ∧
    After (.fabHasp 0) (whmsg (mHasp 0 0xFF 0) [77]) (fun u => (u.part 0).src == 0) = true := by decide +kernel

theorem test_hold : After (.holdNAssert 0) (whasp 0 .openS) (fun u => (u.part 0).src == 4) = true ∧
    After (.holdNAssert 1) (whasp 0 .openS) (fun u => (u.part 0).src == 0) = true := by decide +kernel

/-! ### Host commands -/

/-- A command of session 0, accepted under handle 0x4000, in a ready module. -/
def cmd (opc part : Nat) (args data : List Byte) : HCmd :=
  { cimg false false with opc := BitVec.ofNat 16 opc, part := BitVec.ofNat 8 part, args := args, xfer := data.length, data := data }

def wcmd (c : HCmd) : State := (win (whasp 0 .openS)).modFct fun u => { u with
  cmds := [c]
  handles := [{ slot := 0, gen := 1, st := .issued, sess := 0, status := 0, seq := 0, issueCore := none }] }

theorem wit_cmd (opc part : Nat) (args data : List Byte) : (wcmd (cmd opc part args data)).accepted 0x4000 (cmd opc part args data) := by
  refine ⟨rfl, ⟨{ slot := 0, gen := 1, st := .issued, sess := 0, status := 0, seq := 0, issueCore := none }, rfl, rfl, rfl⟩, ?_⟩
  intro x hx _
  exact List.mem_singleton.mp hx

/-- Arguments with the core or handle at byte 12, the address or AFTER at 16, and the length or value at 24. -/
def args3 (a12 a16 a24 : Nat) : List Byte := zeros 12 ++ leBytes 4 a12 ++ leBytes 8 a16 ++ leBytes 8 a24

def argsIssue (core : Nat) (d : Desc) : List Byte := zeros 12 ++ leBytes 4 core ++ zeros 8 ++ leBytes 128 d.toNat

def cIss (core : Nat) (d : Desc) : HCmd := cmd 0x10 0 (argsIssue core d) []

theorem wit_cmdReady : (∀ opc ∈ [1, 2, 0x10, 0x20, 0x21, 0x40, 0x41], (wcmd (cmd opc 0 (args3 0 0 0) [])).cmdReady 0x4000 opc =
      some (cmd opc 0 (args3 0 0 0) [])) ∧ (wcmd (cmd 1 0 [] [])).cmdReady 0x4000 2 = none := by decide +kernel

theorem wit_close : let s := wnet fun x => { x with closeDue := true }
    s.ready = true ∧ s.findSess 9 true = some 0 ∧ (s.sess 0).closeDue = true ∧ (s.sess 0).closeAfter = [] ∧ ((wnet id).sess 0).closeDue = false := by
  decide +kernel

theorem wit_issue : let s := wcmd (cIss 0 dNop)
    (cIss 0 dNop).partition = some 0 ∧ (cmd 0x10 0xFF [] []).partition = none ∧ (s.part 0).st ≠ .held ∧ (s.part 0).shortCores = [] ∧
    s.entryCore 0 (cIss 0 dNop).issueCore = some 0 ∧ s.entryCore 0 1 = none ∧ descOf (((argsIssue 0 dNop).drop 24).take 128) = dNop ∧
    dSigV dNop = false ∧ dSigV (dsc [(0, 1), (4, 0x80)]) = true ∧ s.issueBehind (cIss 0 dNop) = false ∧
    s.afterOf (cIss 0 dNop) 0 = some (none, stDone) ∧ (s.core 0).hostOps < 16 ∧ (s.core 0).ops.length < 64 ∧ (s.core 0).hostToken = some 112 ∧
    16 ≤ ((s.modCore 0 fun k => { k with ops := List.replicate 16 { opq dNop with host := some 1 } }).core 0).hostOps := by decide +kernel

theorem test_issue : After (.issue 0x4000) (wcmd (cIss 0 dNop)) (fun u => ((u.core 0).ops.map fun o => (o.host, o.sig, o.desc)) ==
    [(some 0x4000, some 112, dNop)]) = true := by decide +kernel

theorem wit_transfer : let c := cmd 0x20 0 (args3 0 0x40 64) (zeros 64)
    (wcmd c).xferViolates c 0x40 64 true = false ∧ (wcmd c).xferViolates c 0x100000 64 true = true ∧ (wcmd c).plainData 0x40 64 = true ∧
    c.wants ≤ c.data.length ∧ (wcmd c).xferViolates c 0x40 64 false = false ∧ (wcmd c).uncorrectable [] 0x40 64 = none ∧
    (wcmd c).uncorrectable [1] 0x40 64 = some 1 := by decide +kernel

theorem test_fctWrite : After (.fctWrite 0x4000) (wcmd (cmd 0x20 0 (args3 0 0x40 64) ([1, 2] ++ zeros 62)))
    (fun u => u.mem == [(0x40, 1), (0x41, 2)] && (u.fct.handles.map fun x => (x.st, x.status)) == [(.reported, stDone)]) = true := by decide +kernel

theorem wit_regs : let s := wcmd (cmd 0x40 0 (args3 0 0x300010000008 0) [])
    ((s.sampleReg 0x300010000008).regAt 0x300010000008).isSome = true ∧ s.regAt 0x300010000004 = none ∧ s.regAt 0x300010000018 ≠ none ∧
    s.sessWrites 0 0x300010000018 = true ∧ s.sessWrites 0 0x300000000008 = false ∧ endsLater 0x300010000018 0 = false := by decide +kernel

theorem test_regRead_violation : After (.regRead 0x4000) (wcmd (cmd 0x40 0 (args3 0 0x300010000004 0) []))
    (fun u => (u.fct.handles.map fun x => (x.st, x.status)) == [(.reported, stViolation)] && (u.sess 0).st == .frozen) = true := by decide +kernel

/-! ### Security and firmware -/

/-- A keyring of one key with every role (R403). -/
def ring (version : Nat) : List Byte := leBytes 4 0x474E524B ++ leBytes 4 version ++ zeros 8 ++ zeros 1312 ++ [0x3F, 1, 0xFF, 0xFF] ++ zeros 28 ++
  zeros (7 * 1344)

def argsLen (n : Nat) : List Byte := zeros 12 ++ leBytes 4 n ++ zeros 32

/-- A security command with data; the fuses, the keyring and the challenge are as given. -/
def wsec (opc : Nat) (data : List Byte) (f : SecUnit → SecUnit) : State := (wcmd (cmd opc 0xFF (argsLen data.length) data)).modSec f

theorem wit_secReady : (∀ opc ∈ [0x60, 0x61, 0x62, 0x63, 0x64, 0x65, 0x66, 0x67, 0x68, 0x31],
    (wsec opc [] id).cmdReady 0x4000 opc = some (cmd opc 0xFF (argsLen 0) [])) ∧ (wsec 0x60 [] id).cmdReady 0x4000 0x61 = none ∧
    (wsec 0x62 [] id).sec.keyring = none ∧ (wsec 0x65 [] id).loadBusy = false ∧ (wsec 0x65 [] id).esp.loadsWaiting = [] := by decide +kernel

theorem wit_ring : ((ringOf (ring 0)).map Keyring.version) = some 0 ∧ ringOf (zeros 10768) = none ∧ (cmd 0x63 0xFF (argsLen 10768) []).wants = 10768 ∧
    (cmd 0x64 0xFF (argsLen 10800) []).wants = 10800 ∧ (cmd 0x65 0xFF (argsLen 13236) []).wants = 13236 ∧
    (cmd 0x67 0xFF (argsLen 2420) []).wants = 2420 ∧ (cmd 0x63 0xFF (argsLen 10768) (ring 0)).full = true := by decide +kernel

theorem wit_ownerFuse (h : BitVec 256) : let s := wsec 0x63 (ring 0) fun u => { u with provisioning := true }
    s.fusesFit h = true ∧ s.sec.provisioning = true ∧ s.sec.ownerLock = false ∧
    (h ≠ BitVec.allOnes 256 → (s.modSec fun u => { u with ownerHash := BitVec.allOnes 256 }).fusesFit h = false) := by
  refine ⟨?_, rfl, rfl, ?_⟩
  · simp [State.fusesFit, wsec, State.modSec, wcmd, SecUnit.reset, win, State.modFct, State.modPart, whasp, wnet, State.modSess, State.modEth,
      State.modPwr, w0, State.setThread, State.setCore, State.modReg, State.modCore, State.reset]
  · intro hne
    have e : (BitVec.allOnes 256 &&& ~~~h = 0) → h = BitVec.allOnes 256 := by
      intro e
      have := congrArg (~~~ ·) e
      simpa [BitVec.not_and] using this
    exact decide_eq_false fun x => hne (e x)

/-- The seal that the module itself forms, or the hash that the fuses hold, lets a keyring in (R411). -/
theorem wit_install : (ringSeal (ring 0)).length = 32 ∧ (ring 0 ++ ringSeal (ring 0)).length = 10800 ∧
    (ring 0 ++ ringSeal (ring 0)).drop 10768 = ringSeal (ring 0) ∧
    (wsec 0x64 (ring 0) fun u => { u with ownerHash := Config.sha3 ((ring 0).take 10768) }).sec.ownerHash = Config.sha3 ((ring 0).take 10768) := by
  have h : ∀ (n v : Nat), (leBytes n v).length = n := by
    intro n
    induction n with
    | zero => intro v; rfl
    | succ n ih => intro v; simp [leBytes, ih]
  have hr : (ring 0).length = 10768 := by decide +kernel
  have hs : (ringSeal (ring 0)).length = 32 := h 32 _
  exact ⟨hs, by rw [List.length_append, hr, hs], by rw [← hr, List.drop_left], rfl⟩

def ring8 : Keyring := { version := 0, entries := Vector.replicate 8 key0, bytes := [] }

theorem ring1_ok : ((ringOf (ring 1)).map Keyring.version) = some 1 := by decide +kernel

/-- A rotation from version 0 to 1 signed by entry 0, if the signature says so. -/
def rot : List Byte := ring 1 ++ zeros 2468

def wrot : State := wsec 0x65 rot fun u => { u with keyring := some ring8 }

theorem wit_rotation (hv : ∀ k x m g, Config.mldsaVerify k x m g = true) : ∃ k, wrot.rotation rot = .ok k ∧ k.version = 1 := by
  have hr : (ring 1).length = ringBytes := by decide +kernel
  have ht : rot.take ringBytes = ring 1 := by rw [rot, ← hr, List.take_left]
  have hz : zeroAt rot (ringBytes + 1) 10816 = true := by
    rw [zeroAt, rot, ← hr, List.drop_append]
    decide +kernel
  have hb : bytesN rot ringBytes 1 = 0 := by
    rw [bytesN, rot, ← hr, List.drop_left]
    decide +kernel
  have hs : wrot.pwr.shutting = false ∧ wrot.sec.ringVer.toNat = 0 ∧ ((vat ring8.entries 0).filter fun k => k.usable 2).isSome = true := by
    decide +kernel
  obtain ⟨n, hn, hver⟩ := Option.map_eq_some_iff.mp ring1_ok
  obtain ⟨k, hk⟩ := Option.isSome_iff_exists.mp hs.2.2
  have hre : reEnabled ring8 n = false := by
    have : ∀ k ∈ ring8.entries.toList, k.revoked = false := by decide +kernel
    rw [reEnabled, List.any_eq_false]
    intro k hk
    simp [this k hk]
  have ho : wrot.sec.keyring = some ring8 := rfl
  refine ⟨n, ?_, hver⟩
  simp only [State.rotation, ho, hs.1, ht, hn, hb, hk, hz, hs.2.1, hv, hre, hver]
  rfl

theorem wit_rotation_bad : (match (wsec 0x65 [] id).rotation [] with | .error x => x == 0x02 | .ok _ => false) = true := by decide +kernel

theorem wit_debug (hv : ∀ k x m g, Config.mldsaVerify k x m g = true) :
    ((wsec 0x67 (zeros 2420) fun u => { u with keyring := some ring8, challenge := some 5 })).debugSigned 5 (zeros 2420) = true ∧
    (wsec 0x67 (zeros 2420) fun u => { u with challenge := some 5 }).debugSigned 5 (zeros 2420) = false := by
  refine ⟨?_, rfl⟩
  show (ring8.entries.toList.any fun k => k.usable 5 && Config.mldsaVerify k.pk _ _ _) = true
  simp only [hv, Bool.and_true]
  decide +kernel

/-- A firmware image of version 2 with one component; its hash is 0. -/
def fw0 : List Byte := leBytes 4 0x31574642 ++ leBytes 4 2 ++ leBytes 4 0 ++ leBytes 4 2612 ++ [0xB1, 0, 1] ++ zeros 45 ++
  ([0] ++ zeros 7 ++ leBytes 4 128 ++ leBytes 4 64 ++ zeros 32) ++ zeros 16 ++ zeros 64 ++ zeros 2420

def wfw (prov : Bool) : State := wsec 0x31 fw0 fun u =>
  { u with keyring := some ring8, provisioning := prov }

theorem wit_firmware (prov : Bool) (hh : Config.sha3 (zeros 64) = 0) (hv : ∀ k x m g, Config.mldsaVerify k x m g = true) :
    (wfw prov).fwRefused fw0 = none := by
  have hf : fwFormat fw0 = true ∧ bytesN fw0 16 1 = 0xB1 ∧ fwVersionOf fw0 = 2 ∧ bytesN fw0 8 4 = 0 ∧ bytesN fw0 17 1 = 0 ∧
      ((fwComps fw0).map fun c => (c.body, c.hash)) = [(zeros 64, 0)] := by decide +kernel
  have hs : ((wfw prov).roleKey 0 0).isSome = true ∧ (wfw prov).rep.fwFloor.toNat = 1 ∧ (wfw prov).pwr.shutting = false := by
    cases prov <;> decide +kernel
  have hc : fwHashes fw0 = true := by
    rw [fwHashes, List.all_eq_true]
    intro c hc
    have : (c.body, c.hash) ∈ (fwComps fw0).map fun c => (c.body, c.hash) := List.mem_map_of_mem hc
    rw [hf.2.2.2.2.2, List.mem_singleton, Prod.mk.injEq] at this
    simp [this.1, this.2, hh]
  obtain ⟨k, ek⟩ := Option.isSome_iff_exists.mp hs.1
  have hg : (wfw prov).fwSigned fw0 = true := by simp only [State.fwSigned, hf.2.2.2.2.1, ek, hv]
  simp [State.fwRefused, State.fwBad, hf.1, hf.2.1, hg, hc, hf.2.2.1, hf.2.2.2.1, hs.2.1, hs.2.2]

theorem wit_firmware_ctrls : (wfw false).boundCtrls ≠ [] ∧ ((wfw false).modPart 0 fun p => { p with st := .absent }).boundCtrls = [] ∧
    (wfw false).fwRefused [] = some 0x01 ∧ (wsec 0x63 [] fun u => { u with restartDue := some 5 }).findCmd 5 = none := by decide +kernel

theorem test_getKeyring_none : After (.getKeyring 0x4000) (wsec 0x62 [] id)
    (fun u => (u.fct.handles.map fun x => (x.st, x.status)) == [(.reported, stBadDesc)]) = true := by decide +kernel

theorem test_debugDisable : After (.debugDisable 0x4000 true) (wsec 0x68 [] id) (fun u => u.sec.dbgDisable) = true ∧
    After (.debugDisable 0x4000 false) (wsec 0x68 [] id) (fun u => !u.sec.dbgDisable) = true := by decide +kernel

/-! ### Repair -/

def oHeld : Op := { opq (dMat 0x10 1 0) with phase := .heldBy }

/-- Core 3 of partition 0 has reached the class-7 count. -/
def wdue : State := ((whasp 0 .openS).modReg 3 fun r => { r with part := some 0, errEvents := 1 }).modEsp fun e =>
  { e with thresholds := vset e.thresholds 7 1 }

theorem wit_coreRetire : wdue.usable 3 = true ∧ (wdue.core 3).reg.retiring = false ∧ wdue.coreDue 3 = true ∧ (wdue.core 3).ops = [] ∧
    w0.coreDue 3 = false ∧ ((wdue.setThread 3 0 { wdue.thread 3 0 with st := .ready }).thread 3 0).st = .ready := by decide +kernel

theorem test_coreRetire : After (.coreRetire 3 none) (wdue.setThread 3 0 { wdue.thread 3 0 with st := .ready })
    (fun u => (u.core 3).reg.frzCore && (u.thread 3 0).st == .frozen && (u.thread 3 0).coreHeld) = true := by decide +kernel

/-- A core whose operation's descriptor cannot be read (R260), and one that is frozen already. -/
theorem wit_coreRetire_slot : let s := (whasp 0 .openS).modCore 3 fun k => { k with ops := [oHeld] }
    s.usable 3 = true ∧ (s.core 3).reg.frzCore = false ∧ s.findOp 3 oHeld.ticket ≠ none := by decide +kernel

theorem test_coreRetire_slot : After (.coreRetire 3 (some oHeld.ticket)) ((whasp 0 .openS).modCore 3 fun k => { k with ops := [oHeld] })
    (fun u => (u.core 3).reg.frzCore && (u.core 3).reg.frzCause == 7 && (u.core 3).ops.length == 1) = true := by decide +kernel

/-- A takeover that held back the write of slot 5 ends (R380). -/
theorem test_takeoverEnd : After .takeoverEnd ((whasp 0 .openS).modRep fun r => { r with takeover := some 0, ledgerDue := [5] })
    (fun u => u.rep.takeover == none && u.rep.ledgerDue == []) = true := by decide +kernel

theorem wit_takeoverEnd : let s := (whasp 0 .openS).modRep fun r => { r with takeover := some 0, ledgerDue := [5] }
    s.rep.takeover = some 0 ∧ s.rep.waitPkts = [] ∧ (s.bankFor 5).isSome = true := by decide +kernel

theorem wit_lockstep : (whasp 0 .openS).pwr.run = .ready ∧ vget (whasp 0 .openS).rep.pairStopped 0 = false ∧
    vget ((whasp 0 .openS).modRep fun r => { r with pairStopped := vset r.pairStopped 1 true }).rep.pairStopped (otherPair 0) = true ∧
    w0.pwr.run = .starting ∧ ((whasp 0 .openS).modRep fun r => { r with takeover := some 0 }).rep.waitPkts = [] := by decide +kernel

theorem test_lockstep : After (.lockstepMismatch 0) (whasp 0 .openS) (fun u => u.rep.takeover == some 0 && !u.rep.failed) = true ∧
    After (.lockstepMismatch 0) ((whasp 0 .openS).modRep fun r => { r with pairStopped := vset r.pairStopped 1 true })
      (fun u => u.rep.failed) = true := by decide +kernel

/-- A maintenance session is open, and a function is in a state. -/
def wfn (fn : Fin 32) (st : FnSt) (queued : Bool) : State := (wnet id).modFn fn fun f => { f with st := st, queued := queued }

theorem wit_functions : (wfn 4 .off false).hostMaint (.session 0) = true ∧ (wfn 4 .off false).hostMaint .mctl = false ∧
    fnKind 4 = .maint ∧ fnKind 5 = .reserved ∧ fnKind 8 = .link 0 ∧ fnKind 31 = .link 23 ∧ (wfn 4 .off false).fnKept .maint = false ∧
    (wfn 0 .on false).fnKept (.eth 0) = true ∧ (vget (wfn 4 .off false).rep.fns 4).pend = [] ∧
    (vget (wfn 8 .starting true).rep.fns 8).queued = true ∧ (wfn 8 .starting false).fnStartOver (.link 0) = true ∧
    ((wfn 8 .starting false).modLink 0 fun k => { k with st := .training }).fnStartOver (.link 0) = false := by decide +kernel

theorem test_enable : After (.enable (.session 0) 4) (wfn 4 .off false) (fun u => (vget u.rep.fns 4).st == .on) = true ∧
    After (.disable (.session 0) 4) (wfn 4 .starting false) (fun u => (vget u.rep.fns 4).queued && !(vget u.rep.fns 4).pref) = true := by
  decide +kernel

theorem test_fnStop : After (.fnStopFinished 0) (wfn 0 .stopping false) (fun u => (vget u.rep.fns 0).st == .off && (u.eth 0).st == .down) = true := by
  decide +kernel

/-- Thread 0 of core 0, its compute list and the core are frozen. -/
def wfrz : State := ((((whasp 0 .openS).setThread 0 0 { (whasp 0 .openS).thread 0 0 with st := .frozen, coreHeld := true }).modCore 0 fun k =>
  { k with ops := [oHeld] }).modReg 0 fun r => { r with frzClist := true, frzCore := true }).modFab fun f => { f with frozenPairs := [(1, 0)] }

theorem wit_release : wfrz.mayRelease (.session 0) 0 0 = true ∧ wfrz.mayRelease (.session 0) 1 0 = false ∧ (wfrz.thread 0 0).st = .frozen ∧
    (wfrz.core 0).reg.frzClist = true ∧ (wfrz.core 0).reg.frzMlist = false ∧ (wfrz.core 0).reg.frzCore = true ∧ (wfrz.core 0).reg.retiring = false ∧
    wfrz.findOp 0 oHeld.ticket = some oHeld ∧ oHeld.move = false ∧ (wnet fun x => { x with st := .frozen }).findSess 9 true = some 0 := by
  decide +kernel

theorem test_release : After (.partReleaseComputeList (.session 0) 0 0) wfrz (fun u => !(u.core 0).reg.frzClist &&
      ((u.core 0).ops.map Op.phase) == [.finished stViolation]) = true ∧
    After (.partReleaseThread (.session 0) 0 0 0) wfrz (fun u => (u.thread 0 0).st == .idle) = true := by decide +kernel

theorem test_releaseSession : After (.modReleaseSession .mctl 9) (wnet fun x => { x with st := .frozen })
    (fun u => (u.sess 0).st == .frozen) = true ∧
    After (.modReleaseSession (.session 1) 9) ((wnet fun x => { x with st := .frozen }).modSess 1 fun x =>
      { x with st := .openS, maint := true }) (fun u => (u.sess 0).st == .openS) = true := by decide +kernel

theorem wit_ledger : (whasp 0 .openS).rep.takeover = none ∧ ((whasp 0 .openS).bankFor 7).isSome = true ∧
    ((whasp 0 .openS).modRep fun r => { r with banks := r.banks.map fun b => { b with failed := true } }).bankFor 7 = none := by decide +kernel

theorem test_ledger : After (.ledgerSlotWrite 7 4) (whasp 0 .openS) (fun u => u.rep.faultHeld && u.rep.banks.toList.any LBank.failed) = true := by
  decide +kernel

/-! ### Power -/

theorem wit_power : State.reset.pwr.run = .starting ∧ State.reset.powered = true ∧ State.reset.pwr.safe = false ∧
    (State.reset.bankFor 7).isSome = true ∧ (State.reset.modPwr fun u => { u with run := .off }).powered = false ∧
    State.reset.sec.keyring = none ∧ State.reset.sec.ownerLock = false := by decide +kernel

def ringSlot : SlotCopy := ⟨9, true, .security (some { ring8 with version := 1 }) none⟩

/-- A programmed module whose keyring the SECURITY slot still holds starts with it (R405). -/
theorem wit_startUp_ring : let s := (State.reset.modSec fun u => { u with ownerLock := true, ringVer := 1 }).modRep fun r =>
      { r with banks := vmod r.banks 1 fun b => { b with slots := vset b.slots 6 ringSlot } }
    (match s.readSlot [] 6 with | some (.security (some k) _) => s.ringOk k && k.version == 1 | _ => false) = true := by decide +kernel

theorem test_thermalShutdown : After .thermalShutdown (w0.put 0x40 [1])
    (fun u => u.pwr.run == .latched && u.pwr.latchedCause == some 4 && u.mem == [] && !u.pwr.pwrGood) = true := by decide +kernel

theorem test_latchedStopClear : After .latchedStopClear (w0.modPwr fun u => { u with run := .latched, latchedCause := some 4 })
    (fun u => u.pwr.run == .off && u.pwr.latchedCause == none) = true := by decide +kernel

theorem test_inputPowerGood : After .inputPowerGood (w0.modPwr fun u => { u with run := .off, pwrGood := false, resetN := false })
    (fun u => u.pwr.run == .inReset && u.pwr.pwrGood) = true := by decide +kernel

/-- The first core is above its floor; the cap is 300 W. -/
def wgov (mhz : BitVec 16) (low : Nat) : State := (w0.modReg 0 fun r => { r with imgMhz := 800, freqMhz := mhz }).modPwr fun u =>
  { u with lowWindows := low }

theorem wit_governor : (wgov 800 0).powered = true ∧ (wgov 800 0).pwr.thermal = false ∧ (wgov 800 0).pwr.cap = 30 ∧ (10 * 30 < (301 : BitVec 16).toNat) ∧
    ¬(10 * 30 < (300 : BitVec 16).toNat) ∧ 20 * (284 : BitVec 16).toNat < 19 * (10 * 30) ∧ ¬(20 * (285 : BitVec 16).toNat < 19 * (10 * 30)) ∧
    (wgov 800 0).coresHigh = true ∧ (wgov 200 0).coresHigh = false ∧ (wgov 200 0).pwr.nearImgRate.toNat ≤ (wgov 200 0).pwr.nearRate.toNat ∧
    min ((wgov 200 0).modPwr fun u => { u with nearRate := 36 }).pwr.nearImgRate.toNat (rateFloor 30) < 36 ∧
    16 ≤ (wgov 800 15).pwr.lowWindows + 1 ∧ 16 ≤ (wgov 800 15).pwr.nearAccess.toNat := by decide +kernel

theorem test_governor_over : After (.governorWindow 301 0) (wgov 800 0) (fun u => (u.core 0).reg.freqMhz == 750 && u.pwr.govDown == 1) = true ∧
    After (.governorWindow 300 0) (wgov 800 0) (fun u => (u.core 0).reg.freqMhz == 800) = true := by decide +kernel

theorem test_governor_raise : After (.governorWindow 284 0) (wgov 700 15) (fun u => (u.core 0).reg.freqMhz == 750 && u.pwr.govUp == 1) = true ∧
    After (.governorWindow 285 0) (wgov 700 15) (fun u => (u.core 0).reg.freqMhz == 700 && u.pwr.lowWindows == 0) = true := by decide +kernel

theorem wit_thermal : 1680 ≤ (1680 : BitVec 16).toInt ∧ (1679 : BitVec 16).toInt < 1680 ∧ (1599 : BitVec 16).toInt < 1600 ∧
    ((w0.setTemp 0 1599).hotspot < 1600) ∧ 1600 ≤ ((w0.modPwr fun u => { u with die1 := 1700 }).setTemp 0 1599).hotspot := by decide +kernel

theorem test_thermalWarning : After (.thermalWarning 0 1680) (wgov 800 0) (fun u => u.pwr.thermal && !u.pwr.thermN &&
    (u.core 0).reg.freqMhz.toNat == coreFloor 30) = true := by decide +kernel

theorem wit_cap : (wnet id).hostMaint (.session 0) = true ∧ (29 : Word).toNat % 256 < 30 ∧ 75 < (76 : Word).toNat % 256 ∧
    30 ≤ (30 : Word).toNat % 256 ∧ (75 : Word).toNat % 256 ≤ 75 ∧ (wnet id).ready = true ∧ (wnet id).pwr.safe = false := by decide +kernel

theorem test_pwrCap : After (.pwrCap (.session 0) 76) (wnet id) (fun u => u.pwr.capRefused && u.pwr.cap == 30) = true ∧
    After (.pwrCap (.session 0) 75) (wnet id) (fun u => !u.pwr.capRefused && u.pwr.cap == 75) = true := by decide +kernel

def wshut : State := (wcmd (cmd 0x41 0xFF (args3 0 0x300000010030 1) [])).modPwr fun u => { u with shutting := true, shutReqs := [0x4000] }

theorem wit_shutdown : wshut.pwr.shutting = true ∧ wshut.pwr.safe = false ∧ wshut.loadBusy = false ∧ wshut.tier.moves = [] ∧
    (wshut.bankFor 7).isSome = true ∧ (wshut.bankFor 8).isSome = true := by decide +kernel

theorem test_shutdownComplete : After .shutdownComplete wshut (fun u => u.pwr.safe &&
    (u.fct.handles.map fun x => (x.st, x.status)) == [(.reported, stDone)]) = true := by decide +kernel

/-! ### What every step keeps -/

theorem test_reset_memOk : State.reset.memOk := State.reset_memOk

theorem wit_step : step w0 = .next w0 ∧ w0.memOk ∧ FusesKept w0 w0 := ⟨rfl, rfl, ⟨fun h => ⟨h, rfl⟩, fun h => h, Nat.le_refl _⟩⟩

theorem wit_front : step { w0 with pending := [.nop 0, .fill 0] } = exec (.nop 0) { w0 with pending := [.fill 0] } := rfl

/-! ### More hypotheses met together -/

/-- The starting instructions that may wait for others find nothing to wait for, and their operation begins (R56, R54). -/
theorem wit_begins : (Instr.scan 0 []).waitsFirst w0 = false ∧ (Instr.gated 0 []).waitsFirst w0 = false ∧
    (Instr.update 0 []).begins (wupd 1) 0 [] (opq (dUpd 0x22 64 1 1 1)) (dUpd 0x22 64 1 1 1) = true ∧
    (Instr.append 0 []).begins wapp 0 [] (opq (dApp 1)) (dApp 1) = true ∧
    (Instr.kvOpen 0 []).begins (wkv 0x38 [1, 0, 0, 0, 0, 0, 0, 0, 4]) 0 [] (opq (dKv 0x38 1)) (dKv 0x38 1) = true ∧
    (Instr.kvClose 0 []).begins (wkv 0x39 []) 0 [] (opq (dKv 0x39 1)) (dKv 0x39 1) = true ∧
    (Instr.kvFork 0 []).begins (wkv 0x3A [0, 0, 0, 0, 1]) 0 [] (opq (dKv 0x3A 1)) (dKv 0x3A 1) = true ∧
    (Instr.kvFlush 0 []).begins (wkv 0x3B []) 0 [] (opq (dKv 0x3B 1)) (dKv 0x3B 1) = true := by decide +kernel

theorem wit_begins_vector : (Instr.attend 0 []).begins (watt 1) 0 [] (opq (dAtt 1)) (dAtt 1) = true ∧
    (Instr.combine 0 []).begins (wop (dCmb 1)) 0 [] (opq (dCmb 1)) (dCmb 1) = true ∧
    (Instr.pool 0 []).begins (wop (dConv 0x42 8 8 1 0 0 0 0 0)) 0 [] (opq (dConv 0x42 8 8 1 0 0 0 0 0)) (dConv 0x42 8 8 1 0 0 0 0 0) = true ∧
    (Instr.stash 0 []).begins (wop (dStash 1)) 0 [] (opq (dStash 1)) (dStash 1) = true ∧
    (Instr.matmul 0 []).begins (wop d0) 0 [] (opq d0) d0 = true := by decide +kernel

/-- An APPEND waits for the one in progress; an illegal MATMUL fails at issue (R56, R15, R77). -/
theorem wit_waitsFirst : let w : AppendWork := { row := 0, appended := 0, copies := 0, sat := 0, skipped := 0, claimed := 0 }
    (Instr.append 0 []).waitsFirst (withOp wapp { opq (dApp 1) with phase := .running, work := .append w }) = true := by decide +kernel

theorem wit_failsAtIssue : (Instr.matmul 0 []).failsAtIssue (wop (dMat 0x10 1 1)) (dMat 0x10 1 1) = true ∧
    (Instr.matmul 0 []).failsAtIssue (wop d0) d0 = false := by decide +kernel

theorem wit_begins_scan : let s := wstr 1 0 (opq (dUpd 0x20 64 0 0 0))
    s.begins 0 [] (opq (dUpd 0x20 64 0 0 0)) (dUpd 0x20 64 0 0 0) = true := by decide +kernel

/-- The row that a chunk names twice, and the pins that a part waits for (R142, R150). -/
theorem wit_rows_twice : ¬[0, 0].Nodup ∧
    ((wCtl 1 0x29 (cw false [pw])).modSts 0 fun x => { x with stsPins := [(9, [0])] }).stillWaits [pw] [0] ≠ [] := by decide +kernel

/-- A ring to this module, and one to the next module of a torus (R292). -/
theorem wit_ring_local : let s := torus (kv (wop dRing) seq0)
    s.isLocal (d64 dRing 32) = false ∧ s.globalTrouble 0 [] (d64 dRing 32) 8 true = none ∧
    (kv (wop (dsc [(0, 0x74), (32, 0x40)])) seq0).isLocal 0x40 = true ∧
    (kv (wop (dsc [(0, 0x74), (32, 0x40)])) seq0).writeTrouble 0 0x40 8 = none ∧ (s.core 0).kvBusy = false ∧
    (let r := s.seqRec 0 0
     let gs := ((List.range r.cap).map fun e => s.entry 0 0 e).filter (· ≠ 0xFFFFFFFF)
     (gs.all fun g => !(s.page 0 g).bad && s.readable [] (s.pageAt 0 g) (2 * r.h * regionBytes r.ptype r.d)) = true) := by decide +kernel

/-- A position that ATTEND can read, and one whose sector is uncorrectable (R183). -/
theorem wit_kvLost : let s := watt 1
    s.kvLost 0 [] (s.seqRec 0 0) 0 0 (s.kvPlace 0 0 0) = false ∧
    s.kvLost 0 (List.range 16 |>.map (· + 0x1000)) (s.seqRec 0 0) 0 0 (s.kvPlace 0 0 0) = true := by decide +kernel

/-- Two finite terms of an attention (R181). -/
theorem wit_attnTerms : let one : BitVec 32 := 0x3F800000
    let ts := [([one], [one]), ([0], [0x40000000])].map fun y => (scoreVal one [one] y.1, y.2.getD 0 0)
    (ts.all fun t => !t.1.isNan && !t.1.isInf && f32Finite t.2) = true := by decide +kernel

/-- A collective that ended in failure and has not told its successor, in another module (R289). -/
theorem wit_failDue : let o := { oColl true with phase := .finished stRetired }
    let s := torus ((wcoll o 3).put 0x8020 (leBytes 8 0x0000400000009100))
    s.mayComplete 0 o.ticket = some (o, stRetired) ∧ s.failDue 0 o stRetired = true ∧
    s.isLocal (s.member (collOf o.desc) (collOf o.desc).succ).ctl = false := by decide +kernel

end Sys2Proof.Tests
end

section
/-! PROOF. The address map: the addresses each region has (R22, R23, R26), and that `regionOf` answers a region exactly at
them. -/

namespace Sys2Proof.Machine

/-! ### The windows of the map -/

@[simp] theorem toFin?_val {n : Nat} (c : Fin n) : toFin? n c.val = some c := dif_pos c.isLt

theorem val_eq_of_toFin? {n i : Nat} {c : Fin n} (h : toFin? n i = some c) : c.val = i := by
  obtain ⟨_, hc⟩ := Option.dite_none_right_eq_some.mp h
  exact congrArg Fin.val (Option.some.inj hc).symm

/-- The windows lie in this order, apart from each other, and the module blocks end where the per-core ones begin. -/
theorem windows_ordered : nearEnd < farBase ∧ farBase + 0x40000000000 < slotBase ∧ slotBase + 176 * 0x800000 < regBase ∧
    regBase + 0x10000000 = coreRegBase ∧ coreRegBase % 0x10000 = 0 := by decide

/-- The numbers of the mapped module blocks lie in the module blocks' window. -/
theorem lt_of_blockMapped {b : Nat} (h : blockMapped b = true) : b < 0x1000 := by
  simp only [blockMapped, Bool.or_eq_true, Bool.and_eq_true, decide_eq_true_eq] at h
  omega

/-- The addresses of a region, as the tables of R22, R23 and R26 give them. -/
def Region.Spans : Region → Nat → Prop
  | .near, a => a < nearEnd
  | .far o, a => o < 0x40000000000 ∧ a = farBase + o
  | .store c o, a => o < 0x400000 ∧ a = slotOf c + o
  | .sts c o, a => o < 0x100000 ∧ a = slotOf c + 0x400000 + o
  | .punnet c, a => slotOf c + 0x500000 ≤ a ∧ a < slotOf c + 0x520000
  | .txb c, a => slotOf c + 0x520000 ≤ a ∧ a < slotOf c + 0x530000
  | .modReg b o, a => blockMapped b = true ∧ o < 0x10000 ∧ a = regBase + b * 0x10000 + o
  | .coreReg c u o, a => u < 8 ∧ o < 0x10000 ∧ a = coreRegBase + c.val * 0x100000 + u * 0x10000 + o
  | .unmapped, _ => False

/-- What the offset `o` of core c's slot names (R23). -/
def slotRegion (c : CoreId) (o : Nat) : Region :=
  if o < 0x400000 then .store c o
  else if o < 0x500000 then .sts c (o - 0x400000)
  else if o < 0x520000 then .punnet c
  else if o < 0x530000 then .txb c
  else .unmapped

/-! ### The region at a base and an offset -/

theorem regionOf_far {o : Nat} (h : o < 0x40000000000) : regionOf (farBase + o) = .far o := by
  obtain ⟨hnear, -⟩ := windows_ordered
  rw [regionOf, if_neg (by omega), if_neg (by omega), if_pos (by omega), Nat.add_sub_cancel_left]

theorem regionOf_slot {c : CoreId} {o : Nat} (h : o < 0x800000) : regionOf (slotOf c + o) = slotRegion c o := by
  obtain ⟨hnear, hfar, hslots, -⟩ := windows_ordered
  have hoff : slotOf c + o - slotBase = c.val * 0x800000 + o := by rw [slotOf]; omega
  have hslot : slotBase ≤ slotOf c + o ∧ slotOf c + o < regBase := by rw [slotOf]; omega
  have hcore : (c.val * 0x800000 + o) / 0x800000 = c.val := by omega
  have hmod : (c.val * 0x800000 + o) % 0x800000 = o := by omega
  rw [regionOf, if_neg (by omega), if_neg (by omega), if_neg (by omega), if_neg (by omega), if_pos hslot.2, hoff, hcore,
    toFin?_val, hmod]
  rfl

theorem regionOf_slot_end {c : CoreId} {a : Nat} (hlo : slotOf c + 0x530000 ≤ a) (hhi : a < slotOf c + 0x800000) :
    regionOf a = .unmapped := by
  obtain ⟨o, rfl⟩ := Nat.exists_eq_add_of_le (show slotOf c ≤ a by omega)
  rw [regionOf_slot (by omega), slotRegion, if_neg (by omega), if_neg (by omega), if_neg (by omega), if_neg (by omega)]

theorem regionOf_moduleBlock {b o : Nat} (hb : blockMapped b = true) (ho : o < 0x10000) :
    regionOf (regBase + b * 0x10000 + o) = .modReg b o := by
  obtain ⟨hnear, hfar, hslots, hregs, -⟩ := windows_ordered
  have hlt := lt_of_blockMapped hb
  have hoff : regBase + b * 0x10000 + o - regBase = b * 0x10000 + o := by omega
  have hblock : (b * 0x10000 + o) / 0x10000 = b := by omega
  have hmod : (b * 0x10000 + o) % 0x10000 = o := by omega
  rw [regionOf, if_neg (by omega), if_neg (by omega), if_neg (by omega), if_neg (by omega), if_neg (by omega),
    if_pos (by omega), hoff, hblock, hmod]
  exact if_pos hb

theorem regionOf_coreUnit {c : CoreId} {u o : Nat} (hu : u < 8) (ho : o < 0x10000) :
    regionOf (coreRegBase + c.val * 0x100000 + u * 0x10000 + o) = .coreReg c u o := by
  obtain ⟨hnear, hfar, hslots, hregs, haligned⟩ := windows_ordered
  have hoff : coreRegBase + c.val * 0x100000 + u * 0x10000 + o - coreRegBase = c.val * 0x100000 + (u * 0x10000 + o) := by omega
  have hcore : (c.val * 0x100000 + (u * 0x10000 + o)) / 0x100000 = c.val := by omega
  have hunit : (c.val * 0x100000 + (u * 0x10000 + o)) % 0x100000 / 0x10000 = u := by omega
  have hmod : (coreRegBase + c.val * 0x100000 + u * 0x10000 + o) % 0x10000 = o := by omega
  rw [regionOf, if_neg (by omega), if_neg (by omega), if_neg (by omega), if_neg (by omega), if_neg (by omega),
    if_neg (by omega), hoff, hcore, toFin?_val, hunit, hmod]
  exact if_pos hu

/-! ### A region is answered exactly at its addresses -/

theorem Region.Spans.regionOf_eq {r : Region} {a : Nat} (h : r.Spans a) : regionOf a = r := by
  cases r with
  | near => exact if_pos h
  | far o =>
    obtain ⟨ho, rfl⟩ := h
    exact regionOf_far ho
  | store c o =>
    obtain ⟨ho, rfl⟩ := h
    rw [regionOf_slot (by omega), slotRegion, if_pos ho]
  | sts c o =>
    obtain ⟨ho, rfl⟩ := h
    rw [Nat.add_assoc, regionOf_slot (by omega), slotRegion, if_neg (by omega), if_pos (by omega), Nat.add_sub_cancel_left]
  | punnet c =>
    obtain ⟨hlo, hhi⟩ := h
    obtain ⟨o, rfl⟩ := Nat.exists_eq_add_of_le (show slotOf c ≤ a by omega)
    rw [regionOf_slot (by omega), slotRegion, if_neg (by omega), if_neg (by omega), if_pos (by omega)]
  | txb c =>
    obtain ⟨hlo, hhi⟩ := h
    obtain ⟨o, rfl⟩ := Nat.exists_eq_add_of_le (show slotOf c ≤ a by omega)
    rw [regionOf_slot (by omega), slotRegion, if_neg (by omega), if_neg (by omega), if_neg (by omega), if_pos (by omega)]
  | modReg b o =>
    obtain ⟨hb, ho, rfl⟩ := h
    exact regionOf_moduleBlock hb ho
  | coreReg c u o =>
    obtain ⟨hu, ho, rfl⟩ := h
    exact regionOf_coreUnit hu ho
  | unmapped => exact h.elim

theorem spans_regionOf {a : Nat} (h : regionOf a ≠ .unmapped) : (regionOf a).Spans a := by
  obtain ⟨hnear, hfar, hslots, hregs, haligned⟩ := windows_ordered
  revert h
  fun_cases regionOf a with
  | case1 hlt => exact fun _ => hlt
  | case3 =>
    simp only [Region.Spans]
    omega
  | case6 _ _ _ _ _ c hc | case7 _ _ _ _ _ c hc | case8 _ _ _ _ _ c hc | case9 _ _ _ _ _ c hc =>
    have hslot := val_eq_of_toFin? hc
    simp only [Region.Spans, slotOf]
    omega
  | case11 _ _ _ _ _ _ b hb =>
    have hbase : regBase + b * 0x10000 + (a - regBase) % 0x10000 = a := by omega
    exact fun _ => ⟨hb, Nat.mod_lt _ (by decide), hbase.symm⟩
  | case14 _ _ _ _ _ _ c hc u hu =>
    have hcore := val_eq_of_toFin? hc
    have hbase : coreRegBase + c.val * 0x100000 + u * 0x10000 + a % 0x10000 = a := by omega
    exact fun _ => ⟨hu, Nat.mod_lt _ (by decide), hbase.symm⟩
  | case2 | case4 | case5 | case10 | case12 | case13 | case15 => exact fun h => absurd rfl h

theorem regionOf_eq_iff {r : Region} {a : Nat} (hr : r ≠ .unmapped) : regionOf a = r ↔ r.Spans a where
  mp h := h ▸ spans_regionOf (h ▸ hr)
  mpr := Region.Spans.regionOf_eq

/-- Settles O14: each clause is `regionOf_eq_iff` for its region, and the rest of a slot is `regionOf_slot_end`. -/
theorem addressMap : Obligations.AddressMap := by
  unfold Obligations.AddressMap
  intro a _
  have near : regionOf a = .near ↔ a < nearEnd := regionOf_eq_iff Region.noConfusion
  have far (o : Nat) : regionOf a = .far o ↔ o < 0x40000000000 ∧ a = farBase + o := regionOf_eq_iff Region.noConfusion
  refine ⟨near.trans Nat.lt_succ_iff, fun o => (far o).trans ?farBounds, fun c o => ⟨?store, ?sts, ?punnet, ?txb, ?slotEnd⟩,
    ?modReg, ?coreReg⟩
  case farBounds =>
    rw [farBase]
    omega
  case store | sts | punnet | txb => exact regionOf_eq_iff Region.noConfusion
  case slotEnd => exact regionOf_slot_end
  case modReg => exact fun b o => regionOf_eq_iff Region.noConfusion
  case coreReg => exact fun c u o => regionOf_eq_iff Region.noConfusion

end Sys2Proof.Machine
end

section
/-! PROOF. The general registers and predicates of a thread (R30): what each reads after a write, and the fields of the
thread that a write keeps. -/

namespace Sys2Proof.Machine

/-! ### General registers -/

@[simp] theorem Thread.reg_zero (x : Thread) : x.reg 0 = 0 := rfl

@[simp] theorem Thread.setReg_zero (x : Thread) (v : Word) : x.setReg 0 v = x := rfl

theorem Thread.reg_of_ne_zero (x : Thread) {r : BitVec 6} (h : r ≠ 0) : x.reg r = x.g[r.toNat] := if_neg h

theorem Thread.setReg_of_ne_zero (x : Thread) {r : BitVec 6} (v : Word) (h : r ≠ 0) :
    x.setReg r v = { x with g := x.g.set r.toNat v } := if_neg h

theorem Thread.reg_setReg_self (x : Thread) {r : BitVec 6} (v : Word) (h : r ≠ 0) : (x.setReg r v).reg r = v := by
  rw [x.setReg_of_ne_zero v h, Thread.reg_of_ne_zero _ h]
  exact Vector.getElem_set_self _

theorem Thread.reg_setReg_of_ne (x : Thread) {r q : BitVec 6} (v : Word) (h : q ≠ r) : (x.setReg r v).reg q = x.reg q := by
  by_cases hr : r = 0
  · rw [hr, x.setReg_zero]
  by_cases hq : q = 0
  · rw [hq, Thread.reg_zero, Thread.reg_zero]
  have hindex : r.toNat ≠ q.toNat := fun e => h (BitVec.eq_of_toNat_eq e.symm)
  rw [x.setReg_of_ne_zero v hr, Thread.reg_of_ne_zero _ hq, Thread.reg_of_ne_zero _ hq]
  exact Vector.getElem_set_ne r.isLt q.isLt hindex

/-- A register write changes the field `g` alone. -/
theorem Thread.setReg_frame (x : Thread) (r : BitVec 6) (v : Word) : { x.setReg r v with g := x.g } = x := by
  unfold Thread.setReg
  split <;> rfl

/-! ### Predicates -/

@[simp] theorem Thread.predicate_zero (x : Thread) : x.predicate 0 = true := rfl

@[simp] theorem Thread.setPred_zero (x : Thread) (b : Bool) : x.setPred 0 b = x := rfl

theorem Thread.predicate_of_ne_zero (x : Thread) {p : Nat} (h : p ≠ 0) : x.predicate p = x.pred.getLsbD p := by
  simp [Thread.predicate, h]

/-- A predicate write sets or clears bit p of the field `pred` and keeps its other bits. -/
theorem Thread.setPred_pred_getLsbD (x : Thread) {p q : Nat} (b : Bool) (hp : p ≠ 0) (hp8 : p < 8) (hq8 : q < 8) :
    (x.setPred p b).pred.getLsbD q = if q = p then b else x.pred.getLsbD q := by
  have hbit : ((1 : Byte) <<< p).getLsbD q = decide (q = p) := by
    change (BitVec.twoPow 8 p).getLsbD q = decide (q = p)
    simp [hp8, eq_comm]
  have hwrites : ¬(decide (p = 0) || decide (8 ≤ p)) = true := by simp [hp, hp8]
  rw [Thread.setPred, if_neg hwrites]
  cases b with
  | true =>
    rw [if_pos rfl, BitVec.getLsbD_or, hbit]
    by_cases h : q = p <;> simp [h]
  | false =>
    rw [if_neg Bool.false_ne_true, BitVec.getLsbD_and, BitVec.getLsbD_not, hbit]
    by_cases h : q = p <;> simp [h, hq8]

theorem Thread.predicate_setPred_self (x : Thread) {p : Nat} (b : Bool) (hp : p ≠ 0) (hp8 : p < 8) :
    (x.setPred p b).predicate p = b := by
  rw [Thread.predicate_of_ne_zero _ hp, x.setPred_pred_getLsbD b hp hp8 hp8, if_pos rfl]

theorem Thread.predicate_setPred_of_ne (x : Thread) {p q : Nat} (b : Bool) (hp : p ≠ 0) (hp8 : p < 8) (hq8 : q < 8)
    (h : q ≠ p) : (x.setPred p b).predicate q = x.predicate q := by
  by_cases hq : q = 0
  · rw [hq, Thread.predicate_zero, Thread.predicate_zero]
  · rw [Thread.predicate_of_ne_zero _ hq, Thread.predicate_of_ne_zero _ hq, x.setPred_pred_getLsbD b hp hp8 hq8, if_neg h]

/-- A predicate write changes the field `pred` alone. -/
theorem Thread.setPred_frame (x : Thread) (p : Nat) (b : Bool) : { x.setPred p b with pred := x.pred } = x := by
  unfold Thread.setPred
  split <;> rfl

/-- Settles O3: each clause is the lemma of its write and its read above. -/
theorem hardwiredRegisters : Obligations.HardwiredRegisters := by
  unfold Obligations.HardwiredRegisters
  refine ⟨fun s c => (s.core c).threads.length_toList, fun x => ⟨⟨x.g.length_toList, x.reg_zero, x.predicate_zero⟩,
    x.setReg_zero, x.setPred_zero, ?registers, ?predicates⟩⟩
  case registers =>
    intro r v hr
    exact ⟨x.reg_setReg_self v hr, fun _ hq => x.reg_setReg_of_ne v hq, x.setReg_frame r v⟩
  case predicates =>
    intro p b hp hp8
    have hp0 : p ≠ 0 := Nat.ne_of_gt hp
    exact ⟨x.predicate_setPred_self b hp0 hp8, fun _ hq hq8 => x.predicate_setPred_of_ne b hp0 hp8 hq8 hq,
      x.setPred_frame p b⟩

end Sys2Proof.Machine
end
